-- ==== Sys2Proof/Word.lean ====
section
/-!
DEFINITION. The word types of the AK512-B1 model.

The spec numbers bits from the least significant end (R1) and stores multi-byte integers little-endian (R2);
byte strings keep byte 0 at the lowest address (R3). A `Bytes` value lists bytes in address order, so both
conventions are readings of the same list.
-/

namespace Sys2Proof

abbrev Byte := BitVec 8
abbrev W16 := BitVec 16
abbrev W32 := BitVec 32
abbrev W64 := BitVec 64
abbrev Bytes := List Byte

end Sys2Proof
end

