-- ==== Sys2Proof/Names.lean ====
section
/-!
DEFINITION. The names the spec gives to the parts of the AK512-B1: islands, functions, callers, packets and the
small closed lists of kinds that commands carry. Nothing here has a meaning yet.
-/

namespace Sys2Proof

/-- The 181 clock islands of Table 0.2 and Table 2.2. -/
inductive Island where
  | plot (i : Fin 128)
  | sow (i : Fin 32)
  | memc (i : Fin 8)
  | fe
  | fab
  | oe (i : Fin 4)
  | hif
  | agr
  | dig
  | rng
  | time
  | mgmt
  | shed
deriving DecidableEq, Repr

/-- A requester or PCIe function: the PF, or VF k+1, which is bound to partition Pk (R120). -/
inductive Fn where
  | pf
  | vf (p : Fin 64)
deriving DecidableEq, Repr

/-- The requesters of register accesses, in the order of R87: Drinoner port, PF, VFs. -/
inductive Requester where
  | mgmtPort
  | fn (f : Fn)
deriving DecidableEq, Repr

/-- Who issues a command packet: a partition queue (caller P), a control-plane queue (caller C), or the
Drinoner port with the ticket its response will be kept under (caller M); R163, R194. -/
inductive Source where
  | part (p : Fin 64) (q : Fin 16)
  | cp (k : Fin 16)
  | mgmt (ticket : Fin 4)
deriving DecidableEq, Repr

/-- A command packet as it stands in a ring slot: the 16 header bytes of Table 5.2 read as one little-endian
number, and the parameter words P0, P1, … (12 of them in a 64-byte packet, 28 in a 128-byte packet; R153, R154). -/
structure Packet where
  hdr : BitVec 128
  params : List W32
deriving DecidableEq, Repr

/-- A queue: device queue 16p + q of partition p, or control-plane queue CPQ_k (R194). -/
inductive QueueId where
  | part (p : Fin 64) (q : Fin 16)
  | cp (k : Fin 16)
deriving DecidableEq, Repr

/-- A resident task slot (R219). -/
structure TaskId where
  part : Fin 64
  slot : Fin 8
deriving DecidableEq, Repr

/-- An agent is a queue or a resident task slot (ch. 6, "Queues, agents and sequencers"). -/
inductive Agent where
  | queue (q : QueueId)
  | task (t : TaskId)
deriving DecidableEq, Repr

/-- The completion statuses a host read can be answered with (R146), and poisoned data. -/
inductive CplStatus where
  | success
  | poisoned
  | ur
  | ca
deriving DecidableEq, Repr

/-- ADD or MAX on a fence (Table 5.5). -/
inductive FenceOp where
  | add
  | max
deriving DecidableEq, Repr

/-- The PCIe link and protocol errors of Table 4.9 that arrive from outside. -/
inductive AerError where
  | receiver
  | badFlit
  | badDllp
  | replayTimeout
  | replayRollover
  | completionTimeout
  | unexpectedCompletion
  | poisonedTlp
  | unsupportedRequest
  | internal
  | dataLinkProtocol
  | malformedTlp
  | receiverOverflow
  | flowControlProtocol
  | surpriseDown
deriving DecidableEq, Repr

/-- The fields of configuration space that the part gives values of its own (Table 4.3), and those of the PCIe, MSI-X and
Resizable BAR capabilities that change what it does. [log 111 PRESUMED] -/
inductive CfgField where
  | vendorDevice
  | revisionClass
  | headerType
  | subsystem
  | interruptPin
  | sriovVfs
  | sriovDevice
  | sriovPages
  | numVfs
  | deviceCaps
  | deviceCaps2
  | deviceControl
  | deviceControl2
  | bar2Size
  | msixControl
  | dvsec
  | dvsecId
  | dvsecBody
  | firstVfOffset
  | bar (n : Fin 6)
  | vfBar (n : Fin 6)
  | pmCapability
  | pmControl
  | aerCapability
  | aerUncorrectable
  | aerCorrectable
  | aerSeverity
  | aerUncorrectableMask
  | aerCorrectableMask
  | acsCapability
  | ariCapability
  | pcieCapabilities
  | deviceStatus
  | linkCaps
  | linkControlStatus
  | linkCaps2
  | linkControlStatus2
  | sriovCapabilities
  | sriovControlStatus
  | systemPageSize
  | bar2Sizes
deriving DecidableEq, Repr

/-- What an item of a crossing is (R62, R92): a posted one, a request of a command or the reply to one, a host read's data or its failure, a
register read of a function or its answer, and the frame `n` places from the front of what waits for a port. -/
inductive CrossItem where
  | posted
  | command (src : Source) (id : Nat)
  | read (f : Fn) (tag : Nat)
  | register (f : Fn)
  | frame (port : Fin 16) (n : Nat)
deriving DecidableEq, Repr

end Sys2Proof
end

