-- ==== Sys2Proof/Wire.lean ====
section
/-!
DEFINITION. What travels on the wires of the part as its commands carry it: fabric packet headers, discovery records,
the messages between devices (rounds, Trellis, graft pairs), mirror items, and the causes of outside events.
-/

namespace Sys2Proof

/-- Table 15.2's operations. -/
inductive TrellisOp where
  | modsum (code : Nat) (p : Nat)
  | or
  | fp32Sum
  | maxIdx (fmt : Nat)
  | minIdx (fmt : Nat)
deriving DecidableEq, Repr

/-- The descriptor every participant of a reduce must share (R510). -/
structure ReduceDesc where
  op : TrellisOp
  count : Nat
deriving DecidableEq, Repr

/-- What a sum is for: reduce `n` of the Trellis, or the seal sum of a round under an epoch of its seal token (R372, R512). -/
inductive SumKey where
  | reduce (n : Nat)
  | seal (roundId : W32) (epoch : W16)
deriving DecidableEq, Repr

/-- Packet types (Table 17.3). -/
inductive PktType where
  | write | readReq | readResp | add | signal | ack | nak | round | probe | keepalive | discover | linkState
deriving DecidableEq, Repr

/-- A packet's fabric header, as its fields (Table 17.2). -/
structure FabHeader where
  type : PktType
  src : Nat
  dst : Nat
  srcPart : Nat := 0
  cold : Bool := false
  window : Nat := 0
  psn : Nat := 0
  expiry : Nat := 0
  op : Nat := 0
  retry : Nat := 0
  offset : Nat := 0
  status : Nat := 0
  last : Bool := false
  vc : Nat := 0
  level : Nat := 0
  via : Option Nat := none
deriving DecidableEq, Repr

/-- Discovery and link-state record of one device: UDID, fabric ID request, fabric ID, port table (port, peer UDID, peer
port, as training learned them) and the ports that are ACTIVE; `full` in a FULL discovery (R560, R562, R565). -/
structure DevRec where
  udid : Bytes
  fidReq : Option Nat
  fid : Option Nat
  ports : List (Nat × Bytes × Nat)
  active : List Nat := []
  full : Bool := false
deriving DecidableEq, Repr

/-- What every Trellis message carries (R502): the partition number, the Trellis ID and the CRC-32 of the list bytes. -/
structure TreeId where
  part : Nat
  tid : Nat
  crc : W32
deriving DecidableEq, Repr

/-- The round, Trellis and graft messages that ROUND packets carry between devices. -/
inductive RoundMsg where
  | openRequest (part : Nat) (round : W32) (policy : List Nat) (cipher : Nat) (partner : Option (Nat × W16))
  | openKey (part : Nat) (round : W32) (priv : Bytes) (partners : List (Nat × Nat × W16)) (members : List Nat)
  | partner (part : Nat) (round : W32) (partner : Option (Nat × W16))
  | openRefuse (part : Nat) (round : W32) (status : Nat) (word : Nat)
  | codedKey (part : Nat) (round : W32) (client : Nat) (key : Bytes)
  | homeMap (part : Nat) (round : W32) (first len : Nat) (clients : List Nat)
  | join (x : TreeId) (round : W32) (covers : List Nat)
  | bitmap (x : TreeId) (round : W32) (covers : List Nat) (survivors : List Nat)
  | propose (x : TreeId) (round : W32) (mask survivors : List Nat)
  | proposeAnswer (x : TreeId) (round : W32) (accepted : Bool)
  | result (x : TreeId) (round : W32) (mask survivors : List Nat)
  | barrierStart (x : TreeId) (round : W32) (t0 starter : Nat)
  | barrierJoin (x : TreeId) (round : W32) (t0 starter : Nat) (covers : List Nat)
  | barrierResult (x : TreeId) (round : W32) (joined : List Nat)
  | record (part : Nat) (round : W32) (ref : Nat) (bytes : Bytes)
  | recordOutcome (part : Nat) (round : W32) (ref : Nat) (outcome : Nat)
  | mark (part : Nat) (round : W32) (seg : Nat) (epoch : W16)
  | markAck (part : Nat) (round : W32) (seg : Nat) (epoch : W16)
  | stateChange (part : Nat) (round : W32) (closed : Bool) (epoch : W16)
  | leave (x : TreeId) (round : W32)
  | abort (part : Nat) (round : W32) (status : Nat)
  | sumUp (x : TreeId) (key : SumKey) (desc : ReduceDesc) (chunk : Nat) (vals : List Nat) (clamps : Nat)
  | sumDown (x : TreeId) (key : SumKey) (chunk : Nat) (vals : List Nat) (clamps : Nat)
  | sumFail (x : TreeId) (key : SumKey) (status : Nat)
  | credit (x : TreeId) (key : SumKey) (chunks : Nat)
  | dissolved (x : TreeId)
  | pairRequest (partner witness : Nat) (openRounds : Bool) (rejoin : Option W16)
  | renewal (epoch : W16) (sentAt : Nat) (partner : Option Nat) (forming : Bool)
  | renewalAck (epoch : W16) (sentAt : Nat) (accepted : Bool)
  | takeover (primary : Nat) (epoch : W16) (force : Bool)
  | grant (epoch : W16)
  | refuse
  | substitution (old new : Nat) (epoch : W16)
  | heartbeat (role : Nat) (epoch : W16) (held deposed : Bool) (applied : Nat)
  | mirrorAck (seq : Nat) (epoch : W16) (status : Nat) (commit : Nat)
deriving DecidableEq, Repr

/-- A mirror item (Table 18.2). -/
inductive MirrorItem where
  | command (src : Source) (id : Nat) (pkt : Packet) (words : List Nat) (inputs : Bytes)
  | bundle (part : Nat) (round : W32) (client : Nat) (body : Bytes)
  | message (part : Nat) (round : W32) (origin : Nat) (m : RoundMsg)
  | mark (part : Nat) (round : W32) (seg : Nat)
  | unmirror (part : Nat) (round : W32)
deriving DecidableEq, Repr

/-- What a port learns of the far end in training (R592, R593, Table 16.4): its UDID, its nonce, whether it requires encryption, and the
LSEQ of the first frame it will send. [log 154 DEDUCED] -/
structure Peer where
  udid : Bytes
  nonce : Bytes := []
  encrypted : Bool := false
  next : W16 := 0
deriving DecidableEq, Repr

/-- The bits of an FEC block that arrived wrong, in line order, bit 0 the first sent (R529). -/
abbrev LineErrors := BitVec 1320

/-- What a FEC trailer of the far end reports (Table 16.2): the ACK, and credit returned on a channel in units of 64 bytes; `line` the
bits of its FEC block that arrived wrong. -/
structure LinkReport where
  ack : W16
  creditVc : Fin 4 := 0
  credit : Nat := 0
  line : LineErrors := 0
deriving DecidableEq, Repr

/-- How a link frame with a good CRC came: its port, its LSEQ, and whether the far end's replay resent it (R530, R531, R550). -/
structure Arrival where
  port : Fin 16
  lseq : W16
  resent : Bool := false
deriving DecidableEq, Repr

/-- How a ROUND packet came: its frame, and its fabric header (Table 17.2). -/
structure RoundIn where
  via : Arrival
  h : FabHeader
deriving DecidableEq, Repr

/-- What a receiver sees at the end of its filter (R539, R551): the average power on each lane in 0.1 dBm, and which clock recoveries
are unlocked. -/
structure RxLevels where
  p0 : Int
  p1 : Int
  lost0 : Bool := false
  lost1 : Bool := false
deriving DecidableEq, Repr

/-- What a Trellis chunk carries or meets (R523): nothing, poison, an uncorrectable error. -/
inductive ChunkFound where
  | clean | poison | uncorrectable
deriving DecidableEq, Repr

/-- The tamper conditions of Table 20.6, and the causes that act as or beside one (R713, R717). -/
inductive TamperCause where
  | lidLight | mesh | temperature | vbatLow | glitch | tamperIn | rootCorrupt | batteryLost
deriving DecidableEq, Repr

/-- What a read of a memory line's check bits finds (R856, R857), with its syndrome. -/
inductive EccFound where
  | clean
  | corrected (syndrome : W32)
  | uncorrectable (syndrome : W32)
deriving DecidableEq, Repr

/-- What a strip operation meets (R293 to R297, R327, R328): nothing, a corrected or uncorrectable Bed SRAM error, a parity
error in its Sower, bad data in the strip or key it reads. -/
inductive StripFound where
  | clean | corrected | sramUncorrectable | sowerParity | poison | uncorrectable
deriving DecidableEq, Repr

/-- What a tile meets in its Plot or its descriptor (R466, R467, R499): nothing, a corrected or an uncorrectable error of
the Plot's SRAM, an uncorrectable error in the descriptor. -/
inductive TileFound where
  | clean | corrected | sramUncorrectable | descriptorUncorrectable
deriving DecidableEq, Repr

end Sys2Proof
end

