-- ==== Sys2Proof/Syntax.lean ====
section
/-!
DEFINITION. The commands of the AK512-B1: one constructor per row of spec/opcode_table.json, in the table's order. The
first 72 carry a command packet and who issues it; the others carry what the row's event brings from outside the part
(a register value, a message, a measured quantity) or names the object the event is about.
-/

namespace Sys2Proof

inductive Instr where
  /-- NOP (R181). Command that does nothing except complete with a record. -/
  | nop (src : Source) (pkt : Packet)
  /-- FENCE_WAIT (R161). Command that completes when a fence reaches a threshold and holds the commands behind it. -/
  | fenceWait (src : Source) (pkt : Packet)
  /-- FENCE_SIGNAL (R213). Command that adds to or raises a local fence by a value. -/
  | fenceSignal (src : Source) (pkt : Packet)
  /-- SIGNAL_REMOTE (R158). Command that adds to or raises a fence on another device through a window. -/
  | signalRemote (src : Source) (pkt : Packet)
  /-- RING_JUMP (R181). Command that redirects fetch to a slot range elsewhere and then returns. -/
  | ringJump (src : Source) (pkt : Packet)
  /-- RESIDENT_START (R219). Command that starts a resident task from an image in a task slot. -/
  | residentStart (src : Source) (pkt : Packet)
  /-- RESIDENT_POST (R220). Command that posts a message to a resident task's inbox, waiting while it is full. -/
  | residentPost (src : Source) (pkt : Packet)
  /-- RESIDENT_STOP (R221). Command that moves a resident task to STOPPED. -/
  | residentStop (src : Source) (pkt : Packet)
  /-- BARRIER (R161). Command that completes when every earlier command of the named queues has completed. -/
  | barrier (src : Source) (pkt : Packet)
  /-- COPY (R936). Command that copies a byte range within device memory. -/
  | copy (src : Source) (pkt : Packet)
  /-- FILL (R181). Command that fills a range with a 32-bit pattern. -/
  | fill (src : Source) (pkt : Packet)
  /-- SCRUB (R181). Command that scrubs a 64 KiB aligned range. -/
  | scrub (src : Source) (pkt : Packet)
  /-- HOST_PULL (R145). Command that reads host memory into device memory. -/
  | hostPull (src : Source) (pkt : Packet)
  /-- HOST_PUSH (R135). Command that writes device memory to host memory. -/
  | hostPush (src : Source) (pkt : Packet)
  /-- ROUND_OPEN (R16). Command that creates a round, generates or obtains its key and writes its ticket. -/
  | roundOpen (src : Source) (pkt : Packet)
  /-- ROUND_LAYOUT (R22). Command that sets the segment count, lengths and modulus and allocates zeroed accumulators. -/
  | roundLayout (src : Source) (pkt : Packet)
  /-- INGEST_BIND (R23). Command that binds an ingest ring and cohort bitmap and moves the round to INGESTING. -/
  | ingestBind (src : Source) (pkt : Packet)
  /-- HARVEST (R31). Command that completes when the survivor set is fixed or the round is aborted. -/
  | harvest (src : Source) (pkt : Packet)
  /-- SHARES_SUBMIT (R341). Command that checks and routes share, neighbour and coded records, starting the reveal barrier if first. -/
  | sharesSubmit (src : Source) (pkt : Packet)
  /-- REVEAL_COMBINE (R346). Command that decrypts and interpolates shares to reconstruct seeds or keys. -/
  | revealCombine (src : Source) (pkt : Packet)
  /-- UNMASK (R312). Command that expands every needed mask into the Beds and makes the device UNMASKED. -/
  | unmask (src : Source) (pkt : Packet)
  /-- CODED_DECODE (R356). Command that decodes each coded group's aggregate mask on Plots and subtracts it. -/
  | codedDecode (src : Source) (pkt : Packet)
  /-- SEAL (R369). Command that merges replicas and the fabric sum and makes the round SEALED. -/
  | seal (src : Source) (pkt : Packet)
  /-- RELEASE (R374). Command that checks, marks, noises, dequantizes and exports one segment once. -/
  | release (src : Source) (pkt : Packet)
  /-- ROUND_ABORT (R43). Command that aborts a round or closes a RELEASED one. -/
  | roundAbort (src : Source) (pkt : Packet)
  /-- PLACEMENT_REVISE (R283). Command that pins or revises the replica count of a segment. -/
  | placementRevise (src : Source) (pkt : Packet)
  /-- EXPAND (R318). Command that writes mask residues of a stream into partition memory. -/
  | expand (src : Source) (pkt : Packet)
  /-- MATMUL (R436). Command that cuts a matrix multiply into Plot tiles and runs them. -/
  | matmul (src : Source) (pkt : Packet)
  /-- ROUTE_TOPK (R491). Command that chooses top-k experts per token, assigns replicas and writes spills. -/
  | routeTopk (src : Source) (pkt : Packet)
  /-- REDUCE_IDX (R454). Command that finds per-row maximum or minimum with index. -/
  | reduceIdx (src : Source) (pkt : Packet)
  /-- ELTWISE (R456). Command that computes an elementwise operation. -/
  | eltwise (src : Source) (pkt : Packet)
  /-- MODEL_LOAD (R485). Command that stores a small model's weights in the model store. -/
  | modelLoad (src : Source) (pkt : Packet)
  /-- PLACEMENT_SET (R489). Command that writes and swaps in a layer's expert placement table. -/
  | placementSet (src : Source) (pkt : Packet)
  /-- FAB_DISCOVER (R560). Command that floods discovery and assigns fabric IDs. -/
  | fabDiscover (src : Source) (pkt : Packet)
  /-- FAB_ROUTES (R565). Command that recomputes the route table and sets non-minimal use. -/
  | fabRoutes (src : Source) (pkt : Packet)
  /-- WINDOW_OPEN (R574). Command that exposes a memory range as a remote window to one peer partition. -/
  | windowOpen (src : Source) (pkt : Packet)
  /-- WINDOW_CLOSE (R576). Command that closes a window and holds its handle CLOSING. -/
  | windowClose (src : Source) (pkt : Packet)
  /-- RMA_WRITE (R578). Command that writes local data into a remote window. -/
  | rmaWrite (src : Source) (pkt : Packet)
  /-- RMA_READ (R578). Command that reads a remote window into local memory. -/
  | rmaRead (src : Source) (pkt : Packet)
  /-- RMA_ADD (R580). Command that atomically adds elements into a remote window. -/
  | rmaAdd (src : Source) (pkt : Packet)
  /-- TRELLIS_FORM (R502). Command that records a participant list and computes the tree. -/
  | trellisForm (src : Source) (pkt : Packet)
  /-- TRELLIS_REDUCE (R508). Command that joins a fixed-order reduction over a formed Trellis. -/
  | trellisReduce (src : Source) (pkt : Packet)
  /-- KEY_WRITE (R693). Command that writes a tenant key slot. -/
  | keyWrite (src : Source) (pkt : Packet)
  /-- KEY_DERIVE (R695). Command that derives a key from one tenant slot into another. -/
  | keyDerive (src : Source) (pkt : Packet)
  /-- KEY_ERASE (R696). Command that scrubs a tenant slot to EMPTY. -/
  | keyErase (src : Source) (pkt : Packet)
  /-- KEY_INFO (R689). Command that returns a slot's usage, mask, owner, length and state. -/
  | keyInfo (src : Source) (pkt : Packet)
  /-- AEAD_SEAL (R686). Command that encrypts and authenticates with AES-256-GCM. -/
  | aeadSeal (src : Source) (pkt : Packet)
  /-- AEAD_OPEN (R686). Command that decrypts and verifies with AES-256-GCM. -/
  | aeadOpen (src : Source) (pkt : Packet)
  /-- DIGEST (R734). Command that hashes or HMACs a range in a Digest context. -/
  | digest (src : Source) (pkt : Packet)
  /-- PROVE (R719). Command that answers a challenge with an HMAC-SHA-384 tag. -/
  | prove (src : Source) (pkt : Packet)
  /-- ATTEST_REPORT (R720). Command that writes a tagged attestation report. -/
  | attestReport (src : Source) (pkt : Packet)
  /-- WEIGHTS_LOAD (R729). Command that checks a weight blob's binding and decrypts it into a model. -/
  | weightsLoad (src : Source) (pkt : Packet)
  /-- RANDOM_FILL (R760). Command that writes DRBG bytes to memory. -/
  | randomFill (src : Source) (pkt : Packet)
  /-- RANDOM_RESEED (R761). Command that reseeds the caller's DRBG instance. -/
  | randomReseed (src : Source) (pkt : Packet)
  /-- RANDOM_PERSONALIZE (R762). Command that sets a partition's personalization string and reinstantiates its instance. -/
  | randomPersonalize (src : Source) (pkt : Packet)
  /-- NOISE_FILL (R765). Command that writes discrete Gaussian samples. -/
  | noiseFill (src : Source) (pkt : Packet)
  /-- PART_CREATE (R646). Command that creates a partition with quota, shares and attestation slot. -/
  | partCreate (src : Source) (pkt : Packet)
  /-- PART_DESTROY (R647). Command that resets, scrubs and frees a partition. -/
  | partDestroy (src : Source) (pkt : Packet)
  /-- PART_SHARES (R661). Command that resizes a partition's quota and shares. -/
  | partShares (src : Source) (pkt : Packet)
  /-- SHEARS (R225). Command that revokes a lease from the SHED island and resets its holder. -/
  | shears (src : Source) (pkt : Packet)
  /-- ISLAND_RESET (R58). Command that resets one targetable island. -/
  | islandReset (src : Source) (pkt : Packet)
  /-- COLD_FRAME_ENTER (R667). Command that moves a partition into the one-way cold frame. -/
  | coldFrameEnter (src : Source) (pkt : Packet)
  /-- TIME_SET (R411). Command that sets the master's fabric time by slew or step. -/
  | timeSet (src : Source) (pkt : Packet)
  /-- TIME_ALARM (R414). Command that arms, replaces or disarms a general alarm. -/
  | timeAlarm (src : Source) (pkt : Packet)
  /-- TIME_OUTPUTS (R420). Command that enables or disables the three time outputs. -/
  | timeOutputs (src : Source) (pkt : Packet)
  /-- GRAFT_PAIR (R610). Command that forms a graft pair with a partner and witness. -/
  | graftPair (src : Source) (pkt : Packet)
  /-- GRAFT_UNPAIR (R614). Command that ends a graft pair on both members. -/
  | graftUnpair (src : Source) (pkt : Packet)
  /-- GRAFT_TAKEOVER (R633). Command that hands the primary role over, cooperatively or by force. -/
  | graftTakeover (src : Source) (pkt : Packet)
  /-- FW_STAGE (R823). Command that verifies and programs an image into the standby half. -/
  | fwStage (src : Source) (pkt : Packet)
  /-- FW_ACTIVATE (R825). Command that makes a staged image active, live for sequencers or by MGMT reset. -/
  | fwActivate (src : Source) (pkt : Packet)
  /-- DIAG_LIVE_READ (R805). Command that returns up to four live PF BAR 0 words. -/
  | diagLiveRead (src : Source) (pkt : Packet)
  /-- DIAG_ECHO (R181). Command that returns its parameter words. -/
  | diagEcho (src : Source) (pkt : Packet)
  /-- QUEUE_FETCH (R204). Sequencer fetches the next available slot of a queue when the tail covers it and room exists. -/
  | queueFetch (q : QueueId)
  /-- WAIT_SATISFIED (R215). A waiting command becomes ready when its fence, barrier or chain condition is met. -/
  | waitSatisfied (src : Source) (id : Nat)
  /-- DISPATCH (R208). Sequencer dispatches one ready command or task step in a dispatch slot. -/
  | dispatch (csq : Fin 4)
  /-- TASK_WAIT (R219). Task primitive that sleeps until a fence, inbox or served completion condition holds. -/
  | taskWait (t : TaskId) (fences : List (Nat × Nat)) (inbox : Bool) (served : List Nat)
  /-- TASK_READ (R219). Task primitive that moves up to 4 KiB from partition memory to task memory. -/
  | taskRead (t : TaskId) (va : Nat) (loc : Nat) (len : Nat)
  /-- TASK_WRITE (R219). Task primitive that moves up to 4 KiB from task memory to partition memory. -/
  | taskWrite (t : TaskId) (va : Nat) (loc : Nat) (len : Nat)
  /-- PUT_SLOT (R219). Task primitive that writes one slot into a served queue's ring. -/
  | putSlot (t : TaskId) (q : Fin 16) (slot : Nat) (data : Bytes)
  /-- TASK_SIGNAL (R219). Task primitive that adds to or raises a partition fence. -/
  | taskSignal (t : TaskId) (fence : Nat) (op : FenceOp) (v : W64)
  /-- TAKE_RECORD (R219). Task primitive that consumes a completion record of a served queue. -/
  | takeRecord (t : TaskId) (q : Fin 16)
  /-- TAKE_MESSAGE (R219). Task primitive that removes the oldest inbox message. -/
  | takeMessage (t : TaskId)
  /-- OWN_FENCE (R219). Task primitive that takes a FENCE_OWN lease. -/
  | ownFence (t : TaskId) (fence : Nat)
  /-- DROP_FENCE (R934). Task primitive that releases a FENCE_OWN lease. -/
  | dropFence (t : TaskId) (fence : Nat)
  /-- PT_DOORBELL_TAIL (R201). Write offering a new command ring tail. -/
  | ptDoorbellTail (p : Fin 64) (q : Fin 16) (tail : W32) (cqHead : Option W32)
  /-- PT_DOORBELL_CQ_HEAD (R206). Write advancing the records consumed, releasing held records. -/
  | ptDoorbellCqHead (p : Fin 64) (q : Fin 16) (v : W32)
  /-- QUEUE_ENABLE (R199). CTRL write setting ENABLE, resetting counts or refusing with CONFIG. -/
  | queueEnable (q : QueueId) (v : W32)
  /-- QUEUE_DISABLE (R200). CTRL write clearing ENABLE, stopping fetch and draining. -/
  | queueDisable (q : QueueId) (v : W32)
  /-- RESTART (R894). CTRL write resuming a faulted or overrun queue. -/
  | restart (q : QueueId) (v : W32)
  /-- FENCE_WINDOW_WRITE (R896). Host 64-bit write to a partition fence setting it to the maximum. -/
  | fenceWindowWrite (p : Fin 64) (f : Nat) (wide : Bool) (v : W64)
  /-- PT_PART_PT_ROOT (R659). Write of the page table root, including an invalidation. -/
  | ptPartPtRoot (p : Fin 64) (v : W64)
  /-- PT_PART_TLB_INVAL (R659). Write starting a TLB invalidation that completes within 2 µs. -/
  | ptPartTlbInval (p : Fin 64) (v : W32)
  /-- PT_PART_FAULT_CLEAR (R890). Write clearing the held translation fault. -/
  | ptPartFaultClear (p : Fin 64) (v : W32)
  /-- PT_PART_CHUNK_RELEASE (R650). Write moving a TENANT chunk to RELEASING for scrub. -/
  | ptPartChunkRelease (p : Fin 64) (v : W32)
  /-- CHUNK_RELEASE_SCRUB (R650). A RELEASING chunk no longer held is scrubbed and becomes FREE. -/
  | chunkReleaseScrub (p : Fin 64) (chunk : Nat) (failed : Bool)
  /-- RANDOM_PORT_READ (R759). Read of PT_RANDOM_DATA removing queue bytes or setting UNDERRUN. -/
  | randomPortRead (p : Fin 64) (offset : Nat) (wide : Bool)
  /-- RL_READ (R8). Read of an RL low half copying the high half into the requester's latch. -/
  | rlRead (r : Requester) (bar : Nat) (offset : Nat) (bytes : Nat)
  /-- TIME_NOW_READ (R880). Read of CP_TIME_NOW or PT_TIME_NOW latching the fraction too. -/
  | timeNowRead (r : Requester) (wide : Bool)
  /-- QUEUE_CLASS_WRITE (R207). Write of CP_QUEUE_CLASS, refused past four REALTIME queues, effective next window. -/
  | queueClassWrite (p : Fin 64) (q : Fin 16) (v : W32)
  /-- WL_REGION_WRITE (R474). Write of CP_WL_REGION reassigning a partition's Work list units. -/
  | wlRegionWrite (p : Fin 64) (v : W32)
  /-- ERRLOG_CLEAR (R853). Write of CLEAR emptying an error log, its first copy and counts. -/
  | errlogClear (r : Requester) (log : Fin 16) (v : W32)
  /-- TAMPER_LOG_CLEAR (R711). W1C write clearing the tamper log. -/
  | tamperLogClear (r : Requester) (v : W32)
  /-- PORT_ENABLE (R538). Write of a port's ENABLE turning it on or to DISABLED. -/
  | portEnable (port : Fin 16) (v : W32)
  /-- PORT_RESET (R549). Write of port RESET discarding replay and starting training. -/
  | portReset (port : Fin 16) (v : W32)
  /-- UNFENCE (R554). Write clearing a fenced port's history and placing it in DAZZLED. -/
  | unfence (port : Fin 16) (v : W32)
  /-- CAL_NOW (R540). Write requesting calibration of an optical engine's synthesiser. -/
  | calNow (e : Fin 4) (v : W32)
  /-- REGISTER_WRITE (R870). Write to any register without behaviour of its own, subject to range and access codes. -/
  | registerWrite (r : Requester) (bar : Nat) (offset : Nat) (bytes : Nat) (v : W64)
  /-- BAR2_ACCESS (R126). Host access through the PF BAR 2 memory window, closed chunks reading 0. -/
  | bar2Access (offset : Nat) (len : Nat) (data : Option Bytes)
  /-- CONFIGURATION_REQUEST (R151). Host configuration request answered or given Request Retry Status. -/
  | configurationRequest (f : Fn) (g : CfgField) (v : Option W32)
  /-- FLR (R131). Function level reset of a VF resetting its partition. -/
  | flr (p : Fin 64)
  /-- FLR_COMPLETE (R133). Scrub ends and the partition view becomes VALID again. -/
  | flrComplete (p : Fin 64) (failed : List Nat)
  /-- VF_ENABLE (R134). Change of VF Enable or NumVFs applying partition resets. -/
  | vfEnable (enable : Bool) (num : Nat)
  /-- D3HOT (R144). PF enters D3hot and stops memory space response. -/
  | d3hot (enter : Bool)
  /-- MSIX_UNMASK (R129). Clearing a mask sends one message for pending vectors. -/
  | msixUnmask (f : Fn) (vector : Option Nat)
  /-- HOST_COMPLETION (R146). A completion for a host read arrives, with data, poison, UR or CA. -/
  | hostCompletion (f : Fn) (tag : Nat) (st : CplStatus) (data : Bytes)
  /-- HOST_READ_TIMEOUT (R145). A host read gets no completion within 50 ms and its command ends. -/
  | hostReadTimeout (f : Fn) (tag : Nat)
  /-- LINK_RETRAIN (R142). PCIe link recovery or rate or width change holding requests in HIF. -/
  | linkRetrain (rate : Nat) (width : Nat) (flit : Bool) (up : Bool)
  /-- DL_DOWN (R148). Data link down or hot reset acting as PERST_N assertion. -/
  | dlDown
  /-- MAIN_SIDE_WARM_RESET (R814). PERST_N assertion resetting every main-side island. -/
  | mainSideWarmReset
  /-- MAIN_SIDE_BOOT (R815). PERST_N release starting the main-side boot. -/
  | mainSideBoot
  /-- KELRI_VALID (R115). Main-side boot completes and the PF view sets VALID. -/
  | kelriValid
  /-- PWRGD_MAIN_FALL (R812). Falling PWRGD_MAIN asserts main-side reset and turns off lasers. -/
  | pwrgdMainFall
  /-- COLD_RESET (R814). PWRGD_AUX edge resetting all islands. -/
  | coldReset (rising : Bool)
  /-- AUX_RESET (R814). AUX_RST_N low resetting TIME, MGMT, SHED and the main side. -/
  | auxReset
  /-- AUX_BOOT (R809). AUX_RST_N release samples straps and boots the AUX domain. -/
  | auxBoot (strap1 : Fin 3) (strap0 : Fin 3)
  /-- AUX_BOOT_COMPLETE (R810). Management firmware runs with the sequencer image verified and held. -/
  | auxBootComplete
  /-- THERM_TRIP (R834). Tj at 115 °C drives THERM_TRIP_N and resets the main side. -/
  | thermTrip
  /-- THERMAL_SAMPLE (R832). Every 100 µs TJ_MAX is sampled and the thermal limit adjusted. -/
  | thermalSample (tj : Option Int)
  /-- POWER_LIMIT (R833). Averaged package power lowers or raises the power limit. -/
  | powerLimit (watts : Nat)
  /-- OP_CHANGE (R828). Plot operating point changes once voltage allows. -/
  | opChange (mv : Nat)
  /-- DROOP (R830). VDD_ARR below the OP minimum for 100 ns halves Plot clocks. -/
  | droop (mv : Nat)
  /-- ARR_UNDERVOLTAGE (R845). VDD_ARR below 0.55 V for 1 µs stops Plot clocks. -/
  | arrUndervoltage (mv : Nat)
  /-- PLOT_GATE (R831). An idle Plot island is power-gated, resetting it. -/
  | plotGate (k : Fin 128)
  /-- PLOT_WAKE (R72). A request to a gated Plot starts its wake. -/
  | plotWake (k : Fin 128)
  /-- ISLAND_RUN (R76). An island reaches RUN and its held requests are handed over. -/
  | islandRun (d : Island) (kat : Bool)
  /-- RESET_FAILED (R91). An island not in RUN 1 ms after reset release enters RESET_FAILED. -/
  | resetFailed (d : Island)
  /-- KELRI_REBUILD (R113). The view is rebuilt after a storage error. -/
  | kelriRebuild (f : Fn)
  /-- EPOCH_PARITY (R93). A parity error in an epoch-file entry resets its island with the allowed reach. -/
  | epochParity (d : Island)
  /-- CROSSING_PARITY (R92). An item failing parity in a crossing is replaced by POISONED. -/
  | crossingParity (d : Island) (item : CrossItem)
  /-- STALE_REPLY (R77). A reply carrying an old epoch is discarded and counted. -/
  | staleReply (d : Island) (epoch : W16) (agent : Option (QueueId × W16))
  /-- DEADLINE_ALARM (R413). The round's deadline alarm fires and harvest begins. -/
  | deadlineAlarm (e : Fin 1024)
  /-- ALARM (R412). A general alarm fires and signals its fence. -/
  | alarm (key : Nat)
  /-- DESCRIPTOR_FETCH (R241). Riddle fetches and stamps an ingest descriptor when the tail and room allow. -/
  | descriptorFetch (e : Fin 1024)
  /-- STAGING_GRANT (R252). A bundle is granted staging space and its body reads begin. -/
  | stagingGrant (e : Fin 1024)
  /-- HARVEST_GRACE_EXPIRY (R26). Bundles still staging at deadline plus grace are rejected LATE. -/
  | harvestGraceExpiry (e : Fin 1024)
  /-- STRIP_OPERATION (R275). A Bed takes a strip lease, loads the strip and applies queued items. -/
  | stripOperation (k : Fin 32) (found : StripFound)
  /-- STRIP_RESIDENCY_LIMIT (R275). After 256 items or 100 µs the strip is written back and released. -/
  | stripResidencyLimit (k : Fin 32)
  /-- PLACEMENT_REVISION (R281). At each revision interval hot segments get new replica counts. -/
  | placementRevision
  /-- HARVEST_JOIN_CLOSE (R331). JOIN stage closes when all joined or at deadline plus device grace. -/
  | harvestJoinClose (e : Fin 1024)
  /-- HARVEST_BITMAP_START (R331). BITMAP stage starts at the later of deadline plus grace and JOIN close. -/
  | harvestBitmapStart (e : Fin 1024)
  /-- HARVEST_BITMAP_CLOSE (R332). BITMAP stage closes, missing participants are made absent. -/
  | harvestBitmapClose (e : Fin 1024)
  /-- HARVEST_RESULT (R333). The survivor set arrives, the floor is applied and latches set. -/
  | harvestResult (o : RoundIn) (m : RoundMsg)
  /-- HARVEST_ABSENT_TIMEOUT (R334). A participant with no RESULT by BITMAP start plus twice grace aborts locally. -/
  | harvestAbsentTimeout (e : Fin 1024)
  /-- REVEAL_BARRIER_START (R337). A barrier start or contribution arrives and the participant joins. -/
  | revealBarrierStart (o : RoundIn) (m : RoundMsg)
  /-- REVEAL_BARRIER_CLOSE (R337). The barrier closes, re-agreement runs and the round enters REVEALING. -/
  | revealBarrierClose (e : Fin 1024)
  /-- RECORD_ROUTED (R342). A routed reveal record arrives and its outcome is decided. -/
  | recordRouted (o : RoundIn) (m : RoundMsg)
  /-- MARK (R376). A release mark arrives at a participant and is acknowledged. -/
  | mark (o : RoundIn) (m : RoundMsg)
  /-- MARK_ACK (R376). All mark acknowledgements arrive and export begins. -/
  | markAck (o : RoundIn) (m : RoundMsg)
  /-- ROUND_STATE_CHANGE (R384). The holder's round state change reaches a participant. -/
  | roundStateChange (o : RoundIn) (m : RoundMsg)
  /-- RELEASE_SLOT_GRANT (R374). A waiting RELEASE takes a gate slot and runs its checks. -/
  | releaseSlotGrant (slot : Fin 8)
  /-- GATE_STRIP (R382). The gate exports one 64 KiB strip of a slot's segment. -/
  | gateStrip (slot : Fin 8)
  /-- SAMPLER_BATCH (R764). The sampler delivers a batch of 4,096 samples to its next user. -/
  | samplerBatch
  /-- TILE_CLAIM (R481). A free Plot claims a tile descriptor and runs it. -/
  | tileClaim (k : Fin 128) (found : TileFound) (stalls : Nat)
  /-- TILE_COMPLETE (R478). A tile's drain completes and its slot is freed. -/
  | tileComplete (k : Fin 128) (drained : Bool)
  /-- CONTEXT_GRANT (R735). A freed Digest or AEAD context goes to the oldest waiting command. -/
  | contextGrant (aead : Bool)
  /-- TURN_END (R736). A context's 1 MiB turn ends and the next ready context runs. -/
  | turnEnd (aead : Bool)
  /-- SYNC_EXCHANGE (R403). Every 125 µs a parent and child exchange timestamped frames. -/
  | syncExchange (port : Fin 16)
  /-- TIME_FRAME (R404). A timestamped frame arrives and the servo corrects. -/
  | timeFrame (a : Arrival) (t1 : Nat) (t2 : Nat) (t3 : Nat) (t4 : Nat)
  /-- ANNOUNCE_TIMER (R407). The master sends ANNOUNCE every 1 ms. -/
  | announceTimer
  /-- ANNOUNCE (R407). An ANNOUNCE arrives and is forwarded or ignored by generation. -/
  | announce (a : Arrival) (master : Nat) (priority : Nat) (generation : W16) (hops : Nat) (lead : Int)
  /-- ANNOUNCE_TIMEOUT (R408). 3 ms without ANNOUNCE starts a candidacy. -/
  | announceTimeout
  /-- CANDIDACY (R408). A flooded candidacy arrives. -/
  | candidacy (a : Arrival) (priority : Nat) (fid : Nat) (time : Nat)
  /-- CANDIDACY_CLOSE (R408). The 5 ms candidacy ends and the best candidate becomes MASTER. -/
  | candidacyClose
  /-- PARENT_LOSS (R430). The parent port goes down or is silent 1 ms and a new parent is chosen. -/
  | parentLoss
  /-- PPS_OUT (R416). A pulse is emitted at each whole TOD second. -/
  | ppsOut
  /-- TOD_FRAME (R419). A TOD frame starts 500 ms after each whole second. -/
  | todFrame
  /-- TIME_SYNTH_LOCK (R421). The time synthesiser selects its input and locks. -/
  | timeSynthLock (osc50 : Bool)
  /-- TIME_SYNTH_UNLOCK (R422). The time synthesiser loses lock and outputs stop. -/
  | timeSynthUnlock
  /-- SIGNAL_QUALIFIED (R539). Signal-present holds 2 µs and port training starts. -/
  | signalQualified (port : Fin 16) (p0 : Int) (p1 : Int)
  /-- TRAINING_COMPLETE (R539). Training steps complete and the port becomes ACTIVE. -/
  | trainingComplete (port : Fin 16) (peer : Peer) (peerPort : Nat) (ack : W16)
  /-- TRAINING_TIMEOUT (R539). Training not complete within 50 µs fails. -/
  | trainingTimeout (port : Fin 16)
  /-- FLOOD_DETECTED (R552). A flood condition holds 1 µs and the port enters DAZZLED or PORT_FENCED. -/
  | floodDetected (port : Fin 16) (x : RxLevels) (cut : Bool)
  /-- BACKOFF_EXPIRY (R553). The DAZZLED back-off expires and training may start. -/
  | backoffExpiry (port : Fin 16)
  /-- ACTIVE_HOLD (R553). A port ACTIVE for 1 s resets its back-off to 1 ms. -/
  | activeHold (port : Fin 16)
  /-- LOS (R556). Received power below LOS puts the port in LINK_DOWN. -/
  | los (port : Fin 16) (p0 : Int) (p1 : Int)
  /-- FAULT_PATTERN (R555). Receiving the FAULT pattern puts the port in LINK_DOWN PEER_FAULT. -/
  | faultPattern (port : Fin 16)
  /-- NAK_BURST (R557). 256 NAKs in 1 ms force retraining or ERROR_RATE. -/
  | nakBurst (port : Fin 16)
  /-- LINK_ACK (R534). A trailer ACK frees replay buffer frames. -/
  | linkAck (port : Fin 16) (lseq : LinkReport)
  /-- LINK_NAK (R534). A trailer NAK triggers replay. -/
  | linkNak (port : Fin 16) (lseq : LinkReport)
  /-- REPLAY_TIMEOUT (R534). No ACK advance in 4 µs triggers replay. -/
  | replayTimeout (port : Fin 16)
  /-- REPLAY_BUFFER_ECC (R558). An uncorrectable replay buffer error resets the port. -/
  | replayBufferEcc (port : Fin 16)
  /-- TAG_FAILURE (R595). An encrypted frame's tag fails and is treated as CRC failure. -/
  | tagFailure (port : Fin 16)
  /-- SYNTH_LOCK (R540). A link synthesiser locks and its ports train. -/
  | synthLock (e : Fin 4) (temp : Int)
  /-- SYNTH_LOCK_TIMEOUT (R544). No lock within 5 ms puts the port in LINK_DOWN SYNTH_LOCK. -/
  | synthLockTimeout (e : Fin 4)
  /-- SYNTH_LOCK_RETRY (R556). An engine down with SYNTH_LOCK retries lock every 100 ms. -/
  | synthLockRetry (e : Fin 4)
  /-- LOS_IN_DAZZLED (R556). 10 ms of LOS in DAZZLED moves the port to LINK_DOWN LOS. -/
  | losInDazzled (port : Fin 16)
  /-- TEMPERATURE_DRIFT (R540). An 8 °C engine temperature change requests calibration. -/
  | temperatureDrift (e : Fin 4) (temp : Int)
  /-- CALIBRATION_DRAINED (R541). The drain completes and the synthesiser calibrates. -/
  | calibrationDrained (e : Fin 4)
  /-- CALIBRATION_END (R541). Calibration ends, UNPAUSE is sent and ports return to ACTIVE. -/
  | calibrationEnd (e : Fin 4) (temp : Int)
  /-- DRAIN_TIMEOUT (R543). A drain not complete in 100 µs defers calibration. -/
  | drainTimeout (e : Fin 4)
  /-- CALIBRATION_RETRY (R543). A deferred calibration is retried 10 ms later or forced. -/
  | calibrationRetry (e : Fin 4)
  /-- PAUSE (R542). A PAUSE frame stops sending and is acknowledged. -/
  | pause (a : Arrival)
  /-- UNPAUSE (R541). An UNPAUSE frame resumes sending. -/
  | unpause (a : Arrival)
  /-- UNPAUSE_TIMEOUT (R542). No UNPAUSE within 1 ms puts the port in LINK_DOWN PEER_FAULT. -/
  | unpauseTimeout (port : Fin 16)
  /-- DISCOVER (R560). A discovery message arrives and is forwarded once. -/
  | discover (a : Arrival) (h : FabHeader) (d : DevRec)
  /-- LINK_STATE (R565). A link-state message arrives and routes are recomputed. -/
  | linkState (a : Arrival) (h : FabHeader) (d : DevRec)
  /-- WRITE (R575). A WRITE packet arrives and is applied through its window or refused. -/
  | write (a : Arrival) (h : FabHeader) (data : Bytes)
  /-- READ_REQ (R575). A READ_REQ packet arrives and responses are sent. -/
  | readReq (a : Arrival) (h : FabHeader) (data : Bytes)
  /-- READ_RESP (R579). A READ_RESP arrives and is written locally. -/
  | readResp (a : Arrival) (h : FabHeader) (data : Bytes)
  /-- ADD (R580). An ADD packet arrives and elements are added atomically. -/
  | add (a : Arrival) (h : FabHeader) (data : Bytes)
  /-- SIGNAL (R577). A SIGNAL packet arrives and acts on the window owner's fence once. -/
  | signal (a : Arrival) (h : FabHeader) (data : Bytes)
  /-- PROBE (R381). A release probe arrives and the target confirms or refuses. -/
  | probe (a : Arrival) (h : FabHeader) (data : Bytes)
  /-- ACK (R590). An end-to-end ACK arrives, ending retransmission and sampling RTT. -/
  | ack (a : Arrival) (h : FabHeader) (data : Bytes)
  /-- NAK (R606). An end-to-end NAK arrives and ends the packet with its status. -/
  | nak (a : Arrival) (h : FabHeader) (data : Bytes)
  /-- RETRANSMIT_TIMEOUT (R584). An unacknowledged request is resent after its RTO. -/
  | retransmitTimeout (dest : Nat) (psn : Nat)
  /-- RETRANSMIT_GIVE_UP (R586). A packet unacknowledged 2,040 µs after first send fails REMOTE_UNREACHABLE. -/
  | retransmitGiveUp (dest : Nat) (psn : Nat)
  /-- WINDOW_HANDLE_FREE (R576). A CLOSING handle becomes reusable after 2,000 µs. -/
  | windowHandleFree (p : Fin 64) (h : Fin 256)
  /-- TRELLIS_CHUNK (R511). A Trellis chunk or OR contribution arrives and is folded or forwarded. -/
  | trellisChunk (o : RoundIn) (m : RoundMsg) (found : ChunkFound)
  /-- KEEPALIVE (R519). A waiting node sends a keepalive to its neighbour every 100 µs. -/
  | keepalive
  /-- ESCALATION (R520). An unacknowledged OR contribution is sent to the grandparent after 100 µs. -/
  | escalation (e : Fin 1024)
  /-- PROPOSE (R521). The root's RESULT arrives at the standby for acknowledgement. -/
  | propose (o : RoundIn) (m : RoundMsg)
  /-- STANDBY_TAKEOVER (R521). A standby without PROPOSE 200 µs after the latest close broadcasts the RESULT. -/
  | standbyTakeover (e : Fin 1024)
  /-- LEAVE (R516). A LEAVE from an aborting participant arrives. -/
  | leave (o : RoundIn) (m : RoundMsg)
  /-- PAIR_REQUEST (R610). A graft pair request arrives from the partner. -/
  | pairRequest (a : Arrival) (h : FabHeader) (m : RoundMsg)
  /-- PAIR_TIMEOUT (R610). No matching pair request within 1 s ends GRAFT_PAIR unreachable. -/
  | pairTimeout
  /-- HEARTBEAT_TIMER (R618). Each member sends a heartbeat every 10 µs. -/
  | heartbeatTimer
  /-- HEARTBEAT (R618). A heartbeat arrives over the graft port. -/
  | heartbeat (a : Arrival) (h : FabHeader) (m : RoundMsg)
  /-- HEARTBEAT_SILENCE (R628). 100 µs without heartbeat triggers a takeover request or DEGRADED. -/
  | heartbeatSilence
  /-- RENEWAL_TIMER (R615). The primary sends a lease renewal every 50 µs. -/
  | renewalTimer
  /-- RENEWAL (R615). A renewal reaches the witness and extends the lease. -/
  | renewal (o : RoundIn) (m : RoundMsg)
  /-- RENEWAL_ACK (R616). A renewal acknowledgement reaches the primary and ends HELD. -/
  | renewalAck (o : RoundIn) (m : RoundMsg)
  /-- LEASE_LAPSE (R616). The primary's lease span ends and it becomes HELD. -/
  | leaseLapse
  /-- TAKEOVER_REQUEST (R628). A takeover request reaches the witness. -/
  | takeoverRequest (o : RoundIn) (m : RoundMsg)
  /-- GRANT (R629). The secondary receives GRANT and takes the shadow rounds. -/
  | grant (o : RoundIn) (m : RoundMsg)
  /-- REFUSE (R640). The secondary receives REFUSE and scrubs its shadows. -/
  | refuse (o : RoundIn) (m : RoundMsg)
  /-- SUBSTITUTION (R630). A substitution arrives and replaces a lost participant. -/
  | substitution (o : RoundIn) (m : RoundMsg)
  /-- MIRROR_ITEM (R620). A mirror item reaches the secondary and is applied to the shadow. -/
  | mirrorItem (a : Arrival) (h : FabHeader) (seq : Nat) (epoch : W16) (item : MirrorItem)
  /-- MIRROR_ACK (R620). The secondary's acknowledgement reaches the primary. -/
  | mirrorAck (a : Arrival) (h : FabHeader) (m : RoundMsg)
  /-- WITNESS_FAILOVER (R641). Members move to the time master as witness. -/
  | witnessFailover (target : Nat)
  /-- WITNESS_HOLD_END (R641). A new witness ends its 150 µs hold and records the holder. -/
  | witnessHoldEnd (a : Nat) (b : Nat)
  /-- TAMPER_EVENT (R709). A tamper condition holds its filter time and destroys keys. -/
  | tamperEvent (cause : TamperCause) (holds : Bool)
  /-- BATTERY_ROOT_GENERATION (R683). A battery root is generated once its conditions hold. -/
  | batteryRootGeneration
  /-- SLOT_PATROL (R692). Each second every VALID slot record is checked. -/
  | slotPatrol (uce : List Nat) (policies : List Nat) (root : Bool)
  /-- BATTERY_LOW (R712). VBAT low with AUX present sets BATTERY_LOW. -/
  | batteryLow (low : Bool)
  /-- CELL_TEST_FAIL (R771). A noise cell fails a health test and enters RETRY or DISABLED. -/
  | cellTestFail (c : Fin 8) (apt : Bool)
  /-- CELL_RETRY (R771). 1 ms after failure a cell reenters STARTUP. -/
  | cellRetry (c : Fin 8)
  /-- STARTUP_TEST_PASS (R749). A cell passes 4,096 samples and becomes HEALTHY. -/
  | startupTestPass (c : Fin 8)
  /-- BLOCK_CONDITIONED (R751). A 1,024-sample block completes and enters the pool. -/
  | blockConditioned (c : Fin 8)
  /-- QUEUE_REFILL (R758). A partition instance fills 4 KiB into its random queue. -/
  | queueRefill (p : Fin 64)
  /-- PATROL_SCRUB (R857). The patrol scrubber reads and corrects the next memory line. -/
  | patrolScrub (found : EccFound)
  /-- LOG_PARITY (R864). A log entry parity error replaces it with LOG_CORRUPT. -/
  | logParity (log : Fin 16) (slot : Option (Fin 256))
  /-- COMMAND (R789). Vendor message carrying a command packet as caller M. -/
  | command (ticket : Byte) (body : Bytes)
  /-- POLL (R790). Vendor message collecting a pending command result. -/
  | poll (ticket : Byte) (body : Bytes)
  /-- MAIN_RESET (R793). Vendor message asserting a main-side warm reset for 1 ms. -/
  | mainReset (ticket : Byte) (body : Bytes)
  /-- MAIN_RESET_RELEASE (R793). The 1 ms MAIN_RESET assertion ends and the main side boots. -/
  | mainResetRelease
  /-- ALERT (R792). Vendor message returning and clearing alert causes. -/
  | alert (ticket : Byte) (body : Bytes)
  /-- RESULT_EXPIRY (R790). A kept result expires 10 s after completion and frees its ticket. -/
  | resultExpiry (ticket : Byte)
  /-- SET_ENDPOINT_ID (R783). MCTP control command assigning the endpoint ID. -/
  | setEndpointId (op : Byte) (eid : Byte)
  /-- GET_ENDPOINT_ID (R783). MCTP control command returning the endpoint ID. -/
  | getEndpointId
  /-- GET_ENDPOINT_UUID (R783). MCTP control command returning the UDID as UUID. -/
  | getEndpointUuid
  /-- GET_MCTP_VERSION_SUPPORT (R783). MCTP control command returning supported versions. -/
  | getMctpVersionSupport (type : Byte)
  /-- GET_MESSAGE_TYPE_SUPPORT (R783). MCTP control command returning supported message types. -/
  | getMessageTypeSupport
  /-- GET_VENDOR_DEFINED_MESSAGE_SUPPORT (R783). MCTP control command returning vendor message support. -/
  | getVendorDefinedMessageSupport (sel : Byte)
  /-- GETTID (R785). PLDM Type 0 command returning the terminus ID. -/
  | gettid
  /-- GETPLDMVERSION (R785). PLDM Type 0 command returning versions. -/
  | getpldmversion (type : Byte)
  /-- GETPLDMTYPES (R785). PLDM Type 0 command returning supported types. -/
  | getpldmtypes
  /-- GETPLDMCOMMANDS (R785). PLDM Type 0 command returning supported commands. -/
  | getpldmcommands (type : Byte)
  /-- GETPDRREPOSITORYINFO (R785). PLDM Type 2 command returning repository information. -/
  | getpdrrepositoryinfo
  /-- GETPDR (R785). PLDM Type 2 command returning a sensor PDR. -/
  | getpdr (handle : Nat)
  /-- GETSENSORREADING (R786). PLDM Type 2 command returning a numeric sensor reading. -/
  | getsensorreading (sensor : Nat)
  /-- GETSTATESENSORREADINGS (R786). PLDM Type 2 command returning state sensor readings. -/
  | getstatesensorreadings (sensor : Nat)
  /-- SETEVENTRECEIVER (R787). PLDM Type 2 command setting the event receiver. -/
  | seteventreceiver (receiver : Option Nat)
  /-- PLDM_TYPE_5_UPDATE (R794). PLDM Type 5 firmware device command advancing an image update. -/
  | pldmType5Update (cmd : Byte) (data : Bytes)
  /-- ACTIVATEFIRMWARE (R794). PLDM Type 5 command activating an updated image. -/
  | activatefirmware
  /-- UPDATE_AGENT_TIMEOUT (R800). 60 s without update agent request cancels the update. -/
  | updateAgentTimeout
  /-- SENSOR_SAMPLE (R786). Each sensor is sampled every 10 ms and events or alerts raised. -/
  | sensorSample (sensor : Nat) (v : Int)
  /-- PLATFORMEVENTMESSAGE_RESEND (R787). An unacknowledged event is resent after 100 ms or dropped. -/
  | platformeventmessageResend (sensor : Nat)
  /-- ENTDAA (R779). I3C CCC assigning a dynamic address by enumeration. -/
  | entdaa (addr : Byte)
  /-- SETDASA (R779). I3C CCC assigning a dynamic address from the static one. -/
  | setdasa (static_ : Byte) (addr : Byte)
  /-- SETNEWDA (R780). I3C CCC changing the dynamic address. -/
  | setnewda (addr : Byte)
  /-- RSTDAA (R779). I3C CCC resetting the dynamic address and returning to SMBus. -/
  | rstdaa
  /-- ENEC (R780). I3C CCC enabling IBIs. -/
  | enec
  /-- DISEC (R780). I3C CCC disabling IBIs. -/
  | disec
  /-- GETPID (R780). I3C CCC returning the provisional ID. -/
  | getpid
  /-- GETBCR (R780). I3C CCC returning BCR. -/
  | getbcr
  /-- GETDCR (R780). I3C CCC returning DCR. -/
  | getdcr
  /-- GETSTATUS (R780). I3C CCC returning target status. -/
  | getstatus
  /-- GETMRL (R780). I3C CCC returning maximum read length. -/
  | getmrl
  /-- GETMWL (R780). I3C CCC returning maximum write length. -/
  | getmwl
  /-- SETMRL (R780). I3C CCC setting maximum read length. -/
  | setmrl (len : Nat)
  /-- SETMWL (R780). I3C CCC setting maximum write length. -/
  | setmwl (len : Nat)
  /-- ALERT_RESPONSE_ADDRESS (R781). SMBus read of address 0x0C returning the static address. -/
  | alertResponseAddress
  /-- SMBUS_CLOCK_TIMEOUT (R800). SCL held low 25 ms releases the bus and discards the packet. -/
  | smbusClockTimeout
  /-- REASSEMBLY_TIMEOUT (R800). A 100 ms gap discards an MCTP message in reassembly. -/
  | reassemblyTimeout (origin : Byte) (tag : Nat)
  /-- IBI_TIMEOUT (R800). An IBI not serviced in 100 ms is withdrawn. -/
  | ibiTimeout
  /-- RESPONSE_UNREAD_TIMEOUT (R800). An unread I3C response is discarded after 100 ms. -/
  | responseUnreadTimeout
  /-- RESPONSE_RETRY (R800). A NAKed SMBus response write is retried at 5 ms or discarded. -/
  | responseRetry
  /-- MGMT_FIRMWARE_ACTIVATION (R824). 1 ms after activation completes the MGMT island resets into the new image. -/
  | mgmtFirmwareActivation
  /-- EXTEST (R918). JTAG instruction driving lands from boundary scan while PERST_N is asserted. -/
  | extest
  /-- IDCODE (R918). JTAG instruction returning the ID code. -/
  | idcode
  /-- SAMPLE_PRELOAD (R918). JTAG instruction sampling or preloading the boundary register. -/
  | samplePreload (lands : List Bool) (shift : List Bool)
  /-- CLAMP (R918). JTAG instruction clamping lands while PERST_N is asserted. -/
  | clamp
  /-- HIGHZ (R918). JTAG instruction floating outputs while PERST_N is asserted. -/
  | highz
  /-- BYPASS (R918). JTAG instruction selecting the bypass register. -/
  | bypass
  /-- TAP_RESET (R919). TRST_N or five TMS-high clocks reset only the TAP. -/
  | tapReset
  /-- DEBUG_ENTRY (R700). A Liund private instruction enters DEBUG, destroying cold-frame partitions and keys. -/
  | debugEntry
  /-- COMMAND_COMPLETION (R174). An executing command's engine work ends and its completion record, signal and interrupt are written. -/
  | commandCompletion (src : Source) (id : Nat)
  /-- IDLE_PLOT_RELEASE (R662). An allocated Plot whose partition has had no claimable tile for 1 ms releases its allocation. -/
  | idlePlotRelease (k : Fin 128)
  /-- TLB_INVALIDATION_COMPLETE (R659). A TLB invalidation ends within 2 µs and BUSY clears. -/
  | tlbInvalidationComplete (p : Fin 64)
  /-- WITNESS_LEASE_EXPIRY (R628). The witness's lease expiry passes with a takeover request pending, and it grants the role. -/
  | witnessLeaseExpiry (a : Nat) (b : Nat)
  /-- GRAFT_ANSWER_TIMEOUT (R633). GRAFT_TAKEOVER gets no answer from partner or witness within 200 µs and completes REMOTE_UNREACHABLE. -/
  | graftAnswerTimeout
  /-- FRAME_CRC_FAILURE (R531). A received link frame fails its CRC or is cut off and is discarded, with a NAK to follow. -/
  | frameCrcFailure (port : Fin 16) (line : LineErrors)
  /-- DL_UP (R148). The PCIe link trains again and the main-side reset held by DL_Down or hot reset is released. -/
  | dlUp (rate : Nat) (width : Nat) (flit : Bool)
  /-- PWRGD_MAIN_RISE (R808). PWRGD_MAIN rises, allowing the main side to leave reset and changing the power state. -/
  | pwrgdMainRise
  /-- MCTP_PACKET (R782). An MCTP packet arrives, is PEC-checked and reassembled, and messages of unaccepted types are discarded. -/
  | mctpPacket (origin : Byte) (tag : Nat) (som : Bool) (eom : Bool) (pecOk : Bool) (data : Bytes)
  /-- PLATFORM_EVENT_ACKNOWLEDGEMENT (R787). The event receiver acknowledges a PlatformEventMessage and resends stop. -/
  | platformEventAcknowledgement (sensor : Nat)
  /-- AER_ERROR (R130). A PCIe link or protocol error is received and logged in AER without resetting anything. -/
  | aerError (f : Fn) (err : AerError)
  /-- ROUND_KEY_TRANSFER (R20). A follower's round open request reaches the leader, which checks its round and sends the private key device to device. -/
  | roundKeyTransfer (o : RoundIn) (m : RoundMsg)
  /-- HOME_MAP (R330). A participant's cohort window and bitmap arrive and are merged into the round's home map. -/
  | homeMap (o : RoundIn) (m : RoundMsg)
  /-- TRELLIS_ACKNOWLEDGEMENT (R511). A Trellis credit grant, chunk acknowledgement or PROPOSE answer arrives at the sender. -/
  | trellisAcknowledgement (o : RoundIn) (m : RoundMsg)
  /-- TIME_10M_OUT (R416). TIME_10M_OUT rises at each TOD multiple of 100 ns, realigning after steps or offset changes. -/
  | time10mOut
deriving DecidableEq, Repr

end Sys2Proof
end

