-- ==== Sys2Proof/Decode.lean ====
section
/-!
DEFINITION. The command a table word spells. Every row of spec/opcode_table.json has an empty list of fields: the table
gives no row any bits, so no word spells a command.
-/

namespace Sys2Proof

def decodeTableWord (nbits w : Nat) : Option Instr :=
  match nbits, w with
  | _, _ => none

end Sys2Proof
end

