-- ==== Sys2Proof/Machine/Bits.lean ====
section
/-!
DEFINITION. Bit ranges and byte orders (R1, R2, R3): fields of a number, little-endian and big-endian bytes, words.
-/

namespace Sys2Proof.Machine
open Sys2Proof

/-- Bits [hi:lo] of `v`, both ends included (R1). -/
def bits (v hi lo : Nat) : Nat := (v / 2 ^ lo) % 2 ^ (hi + 1 - lo)

/-- Bit `n` of `v`. -/
def bit (v n : Nat) : Bool := (v / 2 ^ n) % 2 = 1

/-- 1 for true, 0 for false. -/
def b2n (b : Bool) : Nat := if b then 1 else 0

/-- The `n` low bytes of `v`, least significant first (R2). -/
def leBytes : Nat → Nat → Bytes
  | 0, _ => []
  | n + 1, v => BitVec.ofNat 8 v :: leBytes n (v / 256)

/-- The number whose little-endian bytes these are. -/
def leNat : Bytes → Nat
  | [] => 0
  | b :: t => b.toNat + 256 * leNat t

/-- The `n` low bytes of `v`, most significant first. -/
def beBytes (n v : Nat) : Bytes := (leBytes n v).reverse

def beNat (b : Bytes) : Nat := leNat b.reverse

/-- The little-endian 32-bit words of a byte string; a ragged tail is dropped. -/
def wordsOf : Bytes → List W32
  | a :: b :: c :: d :: t => BitVec.ofNat 32 (leNat [a, b, c, d]) :: wordsOf t
  | _ => []

/-- The bytes of a list of words. -/
def bytesOf : List W32 → Bytes
  | [] => []
  | w :: t => leBytes 4 w.toNat ++ bytesOf t

def zeros (n : Nat) : Bytes := List.replicate n 0

/-- Exactly `n` bytes: cut, or filled with zeros at the end. -/
def fit (n : Nat) (b : Bytes) : Bytes := b.take n ++ zeros (n - b.length)

/-- `len` bytes of `b` from `off`. -/
def slice (b : Bytes) (off len : Nat) : Bytes := (b.drop off).take len

/-- Replace the bytes of `b` from `off` by `d`, growing `b` with zeros where it is short. -/
def patch (b : Bytes) (off : Nat) (d : Bytes) : Bytes :=
  fit off b ++ d ++ b.drop (off + d.length)

/-- Cut a list into pieces of `n`; `fuel` bounds the pieces. -/
def piecesAux {α : Type} (n : Nat) : Nat → List α → List (List α)
  | 0, _ => []
  | _, [] => []
  | fuel + 1, l => l.take n :: piecesAux n fuel (l.drop n)

def pieces {α : Type} (n : Nat) (l : List α) : List (List α) := piecesAux n l.length l

def allZero (b : Bytes) : Bool := b.all (fun x => x == 0)

def xorBytes (a b : Bytes) : Bytes := List.zipWith (· ^^^ ·) a b

/-- The signed value of the low `n` bits of `v`. -/
def signed (n v : Nat) : Int :=
  let m := v % 2 ^ n
  if m < 2 ^ (n - 1) then (m : Int) else (m : Int) - 2 ^ n

/-- The low `n` bits of `v` in two's complement. -/
def unsignedOf (n : Nat) (v : Int) : Nat := (v % (2 ^ n : Int)).toNat

/-- `a` up to a multiple of `n`. -/
def alignUp (a n : Nat) : Nat := (a + n - 1) / n * n

def ceilDiv (a n : Nat) : Nat := (a + n - 1) / n

/-- The list's elements from index `i` on, at most `n`. -/
def window {α : Type} (l : List α) (i n : Nat) : List α := (l.drop i).take n

/-- A saturating 32-bit count plus `n` (R873). -/
def satAdd32 (c : W32) (n : Nat) : W32 :=
  if c.toNat + n < 2 ^ 32 then BitVec.ofNat 32 (c.toNat + n) else BitVec.ofNat 32 (2 ^ 32 - 1)

/-- A 64-bit count plus `n`; it never wraps in practice, and stays at its maximum rather than wrap (R873). -/
def satAdd64 (c : W64) (n : Nat) : W64 :=
  if c.toNat + n < 2 ^ 64 then BitVec.ofNat 64 (c.toNat + n) else BitVec.ofNat 64 (2 ^ 64 - 1)

def w32 (v : Nat) : W32 := BitVec.ofNat 32 v

/-- Insert into an ascending list without repeats. -/
def insertNat (n : Nat) : List Nat → List Nat
  | [] => [n]
  | m :: t => if n < m then n :: m :: t else if n = m then m :: t else m :: insertNat n t

def unionNat (a b : List Nat) : List Nat := a.foldl (fun acc x => insertNat x acc) b

def interNat (a b : List Nat) : List Nat := a.filter (b.contains ·)

def diffNat (a b : List Nat) : List Nat := a.filter (fun x => !b.contains x)

def disjointNat (a b : List Nat) : Bool := a.all (fun x => !b.contains x)

/-- The list strictly rises. -/
def rising : List Nat → Bool
  | [] => true
  | [_] => true
  | a :: b :: t => decide (a < b) && rising (b :: t)

/-- The indices, from `k` on, of the set bits of a byte string read bit 0 of byte 0 first. -/
def setBitsFrom : Nat → Bytes → List Nat
  | _, [] => []
  | k, b :: t => (List.range 8).filterMap (fun j => if bit b.toNat j then some (k + j) else none) ++ setBitsFrom (k + 8) t

/-- The smallest natural from `k`, within `fuel`, not in the list. -/
def lowestFree (l : List Nat) : Nat → Nat → Nat
  | 0, k => k
  | fuel + 1, k => if l.contains k then lowestFree l fuel (k + 1) else k

/-- The next of `l` (ascending) after `last`, wrapping. -/
def nextRobin (l : List Nat) (last : Nat) : Option Nat :=
  match l.filter (fun x => decide (last < x)) with
  | x :: _ => some x
  | [] => l.head?

end Sys2Proof.Machine
end

