-- ==== Sys2Proof/Machine/Hash.lean ====
section
/-!
DEFINITION. SHA-256, SHA-384 (FIPS 180-4), HMAC (FIPS 198-1), HKDF (RFC 5869) and CRC-32 as the spec's rules use them.
-/

namespace Sys2Proof.Machine
open Sys2Proof

/-! ### SHA-256 -/

/-- The first 80 primes: below 410, a number with none of the primes to 19 as a proper divisor is prime. -/
def shaPrimes : List Nat := (List.range 410).filter (fun n => decide (2 ≤ n) && [2, 3, 5, 7, 11, 13, 17, 19].all (fun d => n ≤ d || n % d != 0))

/-- The largest `k`th root of `a`, rounded down, that agrees with `r` above bit `m`. -/
def rootBits (k a : Nat) : Nat → Nat → Nat
  | 0, r => r
  | m + 1, r => rootBits k a m (if (r + 2 ^ m) ^ k ≤ a then r + 2 ^ m else r)

/-- The first `n` bits of the fraction of the `k`th root of a prime, as FIPS 180-4 takes its constants from. -/
def rootFraction (k n p : Nat) : BitVec n := BitVec.ofNat n (rootBits k (p * 2 ^ (k * n)) (n + 3) 0)

/-- The round constants of a hash of `m` rounds on words of `n` bits: from the cube roots. -/
def shaConsts (n m : Nat) : List (BitVec n) := (shaPrimes.take m).map (rootFraction 3 n)

structure Sha (n : Nat) where
  a : BitVec n
  b : BitVec n
  c : BitVec n
  d : BitVec n
  e : BitVec n
  f : BitVec n
  g : BitVec n
  h : BitVec n

def Sha.add {n : Nat} (x y : Sha n) : Sha n :=
  { a := x.a + y.a, b := x.b + y.b, c := x.c + y.c, d := x.d + y.d, e := x.e + y.e, f := x.f + y.f, g := x.g + y.g, h := x.h + y.h }

def Sha.words {n : Nat} (x : Sha n) : List (BitVec n) := [x.a, x.b, x.c, x.d, x.e, x.f, x.g, x.h]

/-- The rotation and shift counts of FIPS 180-4: Σ0, Σ1, σ0, σ1. -/
structure ShaConst where
  s0 : Nat × Nat × Nat
  s1 : Nat × Nat × Nat
  t0 : Nat × Nat × Nat
  t1 : Nat × Nat × Nat

def c256 : ShaConst := { s0 := (2, 13, 22), s1 := (6, 11, 25), t0 := (7, 18, 3), t1 := (17, 19, 10) }
def c512 : ShaConst := { s0 := (28, 34, 39), s1 := (14, 18, 41), t0 := (1, 8, 7), t1 := (19, 61, 6) }

def bigSigma {n : Nat} (k : Nat × Nat × Nat) (x : BitVec n) : BitVec n :=
  x.rotateRight k.1 ^^^ x.rotateRight k.2.1 ^^^ x.rotateRight k.2.2

def smallSigma {n : Nat} (k : Nat × Nat × Nat) (x : BitVec n) : BitVec n :=
  x.rotateRight k.1 ^^^ x.rotateRight k.2.1 ^^^ (x >>> k.2.2)

/-- Extend the schedule by `m` words; `w` holds the words so far, newest first. -/
def shaExpand {n : Nat} (k : ShaConst) : Nat → List (BitVec n) → List (BitVec n)
  | 0, w => w
  | m + 1, w =>
    shaExpand k m ((smallSigma k.t1 (w.getD 1 0) + w.getD 6 0 + smallSigma k.t0 (w.getD 14 0) + w.getD 15 0) :: w)

def shaRound {n : Nat} (k : ShaConst) (s : Sha n) (kw : BitVec n × BitVec n) : Sha n :=
  let t1 := s.h + bigSigma k.s1 s.e + ((s.e &&& s.f) ^^^ (~~~s.e &&& s.g)) + kw.1 + kw.2
  let t2 := bigSigma k.s0 s.a + ((s.a &&& s.b) ^^^ (s.a &&& s.c) ^^^ (s.b &&& s.c))
  { a := t1 + t2, b := s.a, c := s.b, d := s.c, e := s.d + t1, f := s.e, g := s.f, h := s.g }

def shaBlock {n : Nat} (k : ShaConst) (ks : List (BitVec n)) (s : Sha n) (blk : Bytes) : Sha n :=
  let w0 := (pieces (n / 8) blk).map (fun b => BitVec.ofNat n (beNat b))
  let w := (shaExpand k (ks.length - 16) w0.reverse).reverse
  s.add ((ks.zip w).foldl (shaRound k) s)

def shaPad (blk lenBytes : Nat) (m : Bytes) : Bytes :=
  m ++ [0x80] ++ zeros ((2 * blk - (m.length + 1 + lenBytes) % blk) % blk) ++ beBytes lenBytes (8 * m.length)

/-- An initial value: from the square roots of eight primes. -/
def shaStart {n : Nat} (ps : List Nat) : Sha n :=
  let r (i : Nat) : BitVec n := rootFraction 2 n (ps.getD i 0)
  { a := r 0, b := r 1, c := r 2, d := r 3, e := r 4, f := r 5, g := r 6, h := r 7 }

def sha256 (m : Bytes) : Bytes :=
  (((pieces 64 (shaPad 64 8 m)).foldl (shaBlock c256 (shaConsts 32 64)) (shaStart shaPrimes)).words).flatMap (fun w => beBytes 4 w.toNat)

/-! ### SHA-384 -/

def sha384 (m : Bytes) : Bytes :=
  ((((pieces 128 (shaPad 128 16 m)).foldl (shaBlock c512 (shaConsts 64 80)) (shaStart (shaPrimes.drop 8))).words).flatMap (fun w => beBytes 8 w.toNat)).take 48

/-! ### HMAC and HKDF -/

def hmac (hash : Bytes → Bytes) (blk : Nat) (key m : Bytes) : Bytes :=
  let k := fit blk (if key.length > blk then hash key else key)
  hash (k.map (· ^^^ 0x5c) ++ hash (k.map (· ^^^ 0x36) ++ m))

def hmac256 (key m : Bytes) : Bytes := hmac sha256 64 key m

def hmac384 (key m : Bytes) : Bytes := hmac sha384 128 key m

/-- `n` blocks of HKDF-Expand from block number `k`, after block `prev`. -/
def hkdfBlocks (mac : Bytes → Bytes → Bytes) (prk info : Bytes) : Nat → Nat → Bytes → Bytes
  | 0, _, _ => []
  | n + 1, k, prev =>
    let t := mac prk (prev ++ info ++ [BitVec.ofNat 8 k])
    t ++ hkdfBlocks mac prk info n (k + 1) t

/-- HKDF with the given HMAC of `hl` output bytes; an empty salt is `hl` zero bytes. -/
def hkdf (mac : Bytes → Bytes → Bytes) (hl : Nat) (ikm salt info : Bytes) (len : Nat) : Bytes :=
  let prk := mac (if salt.isEmpty then zeros hl else salt) ikm
  (hkdfBlocks mac prk info (ceilDiv len hl) 1 []).take len

def hkdf256 (ikm salt info : Bytes) (len : Nat) : Bytes := hkdf hmac256 32 ikm salt info len

def hkdf384 (ikm salt info : Bytes) (len : Nat) : Bytes := hkdf hmac384 48 ikm salt info len

/-! ### CRC-32 (IEEE 802.3, reflected) -/

def crcBits (poly : W32) : Nat → W32 → W32
  | 0, c => c
  | n + 1, c => crcBits poly n (if c.getLsbD 0 then (c >>> 1) ^^^ poly else c >>> 1)

def crc32 (m : Bytes) : W32 :=
  ~~~(m.foldl (fun c b => crcBits 0xEDB88320 8 (c ^^^ b.setWidth 32)) 0xFFFFFFFF)

/-- The bytes of an ASCII string. -/
def ascii (t : String) : Bytes := t.toList.map (fun c => BitVec.ofNat 8 c.toNat)

end Sys2Proof.Machine
end

