-- ==== Sys2Proof/Config.lean ====
section
/-!
DEFINITION. What one part fixes and another part may fix otherwise, and the free values: constants without a body, so
that nothing can be proved of the value they stand for. Each is named in the assumption log.
-/

namespace Sys2Proof.Config
open Sys2Proof

/-- A fresh unconstrained byte for each value of the free counter. [log 13 DESIGN CHOICE] -/
opaque freeByte : Nat → Byte

/-- A fresh unconstrained natural for each value of the free counter. [log 13 DESIGN CHOICE] -/
opaque freeNat : Nat → Nat

/-- The 16-byte UDID in the part's fuses (R682). [log 12 DEDUCED, 126 DESIGN CHOICE] -/
opaque udid : Bytes

/-- The 32-byte root that the part's PUF array regenerates (R681). [log 12 DEDUCED] -/
opaque pufRoot : Bytes

/-- Whether the n-th PUF regeneration since power-up passes its check (R681, R715). [log 12 DEDUCED] -/
opaque pufPasses : Nat → Bool

/-- The fixed Liund test root of the DEBUG state (R700). [log 12 DEDUCED] -/
opaque testRoot : Bytes

/-- The Liund image key of the boot ROM, a P-384 public key (R820). -/
opaque imageKey : Nat × Nat

/-- The boot ROM identity string, whose SHA-384 attestation reports (Table 21.2). -/
opaque bootRom : Bytes

/-- The NaN a result of an FP8 format is written as, by format code: Table 13.7 gives no canonical NaN for FP8. [log 17 DEDUCED] -/
opaque fp8NaN : Nat → Byte

/-- The payload of a packet that carries a message between devices. [log 145 DEDUCED] -/
opaque messageBytes : RoundMsg → Bytes

/-- The payload of a packet that carries a discovery or link-state record. [log 145 DEDUCED] -/
opaque recordBytes : DevRec → Bytes

/-- The payload of a packet that carries a mirror item: its sequence number, role epoch and contents. [log 145 DEDUCED] -/
opaque mirrorBytes : Nat → W16 → MirrorItem → Bytes

/-- The bytes of the packet of a PAUSE, UNPAUSE, TIME or PARAM frame. [log 145 DEDUCED] -/
opaque controlBytes : List Nat → Bytes

/-- Header fields that Table 17.2 has and no rule gives: DST, PSN and EXPIRY of a flooded message, SRC of a device without a fabric ID,
PSN and EXPIRY of what goes to the graft partner, by a number of the field. [log 145 DEDUCED] -/
opaque headerField : Nat → Nat

/-- Where between −20.0 and −17.0 dBm a part asserts LOS, in 0.1 dB above −20.0 dBm (Table 28.12). [log 155 DEDUCED] -/
opaque losAssert : Nat

/-- Where up to −15.0 dBm a part takes LOS back, in 0.1 dB below −15.0 dBm. [log 155 DEDUCED] -/
opaque losClear : Nat

end Sys2Proof.Config
end

