-- ==== Sys2Proof/Machine/Cipher.lean ====
section
/-!
DEFINITION. ChaCha20 (RFC 8439), AES-256 (FIPS 197) with CTR, GCM (SP 800-38D) and key wrap (RFC 3394), and the DRBG's
block update (SP 800-90A), as the spec's rules use them.
-/

namespace Sys2Proof.Machine
open Sys2Proof

/-! ### ChaCha20 -/

def qround (l : List W32) (i j k m : Nat) : List W32 :=
  let a := l.getD i 0
  let b := l.getD j 0
  let c := l.getD k 0
  let d := l.getD m 0
  let a := a + b
  let d := (d ^^^ a).rotateLeft 16
  let c := c + d
  let b := (b ^^^ c).rotateLeft 12
  let a := a + b
  let d := (d ^^^ a).rotateLeft 8
  let c := c + d
  let b := (b ^^^ c).rotateLeft 7
  (((l.set i a).set j b).set k c).set m d

def doubleRound (l : List W32) : List W32 :=
  let l := qround l 0 4 8 12
  let l := qround l 1 5 9 13
  let l := qround l 2 6 10 14
  let l := qround l 3 7 11 15
  let l := qround l 0 5 10 15
  let l := qround l 1 6 11 12
  let l := qround l 2 7 8 13
  qround l 3 4 9 14

def iterate {α : Type} (f : α → α) : Nat → α → α
  | 0, x => x
  | n + 1, x => iterate f n (f x)

/-- A 64-byte ChaCha20 block: key of 32 bytes, 32-bit counter, nonce of 12 bytes. -/
def chachaBlock (key : Bytes) (counter : Nat) (nonce : Bytes) : Bytes :=
  let s0 : List W32 := [0x61707865, 0x3320646e, 0x79622d32, 0x6b206574] ++ wordsOf (fit 32 key) ++
    [BitVec.ofNat 32 counter] ++ wordsOf (fit 12 nonce)
  bytesOf (List.zipWith (· + ·) (iterate doubleRound 10 s0) s0)

/-! ### AES-256 -/

/-- Multiplication by x in GF(2^8). -/
def xtime (b : Byte) : Byte := if b.getLsbD 7 then (b <<< 1) ^^^ 0x1b else b <<< 1

def gmulAux : Nat → Byte → Byte → Byte
  | 0, _, _ => 0
  | n + 1, a, b => (if b.getLsbD 0 then a else 0) ^^^ gmulAux n (xtime a) (b >>> 1)

def gmul (a b : Byte) : Byte := gmulAux 8 a b

/-- The multiplicative inverse in GF(2^8), b^254; 0 gives 0. -/
def ginv (b : Byte) : Byte :=
  let b2 := gmul b b
  let b4 := gmul b2 b2
  let b8 := gmul b4 b4
  let b16 := gmul b8 b8
  let b32 := gmul b16 b16
  let b64 := gmul b32 b32
  let b128 := gmul b64 b64
  gmul b128 (gmul b64 (gmul b32 (gmul b16 (gmul b8 (gmul b4 b2)))))

/-- The S-box: inverse, then the affine map of FIPS 197. -/
def sbox (b : Byte) : Byte :=
  let x := ginv b
  x ^^^ x.rotateLeft 1 ^^^ x.rotateLeft 2 ^^^ x.rotateLeft 3 ^^^ x.rotateLeft 4 ^^^ 0x63

/-- The S-box as a table. -/
def sboxTable : Array Byte := (Array.range 256).map (fun n => sbox (BitVec.ofNat 8 n))

def subByte (b : Byte) : Byte := sboxTable.getD b.toNat 0

def subWord (w : List Byte) : List Byte := w.map subByte

def rotWord : List Byte → List Byte
  | a :: t => t ++ [a]
  | [] => []

/-- Key schedule of AES-256: `w` holds the 4-byte words so far, newest first; `k` is the number of the next word. -/
def aesExpand : Nat → Nat → Byte → List (List Byte) → List (List Byte)
  | 0, _, _, w => w
  | n + 1, k, rc, w =>
    let t := w.getD 0 []
    let t' := if k % 8 = 0 then xorBytes (subWord (rotWord t)) [rc, 0, 0, 0] else if k % 8 = 4 then subWord t else t
    aesExpand n (k + 1) (if k % 8 = 0 then xtime rc else rc) (xorBytes (w.getD 7 []) t' :: w)

/-- The 15 round keys. -/
def aesKeys (key : Bytes) : List Bytes :=
  pieces 16 ((aesExpand 52 8 1 (pieces 4 (fit 32 key)).reverse).reverse.flatten)

def shiftRows (b : Bytes) : Bytes :=
  (List.range 16).map (fun n => b.getD ((n + 4 * (n % 4)) % 16) 0)

def mixColumn (c : Bytes) : Bytes :=
  match c with
  | [a, b, d, e] =>
    [xtime a ^^^ (xtime b ^^^ b) ^^^ d ^^^ e, a ^^^ xtime b ^^^ (xtime d ^^^ d) ^^^ e,
     a ^^^ b ^^^ xtime d ^^^ (xtime e ^^^ e), (xtime a ^^^ a) ^^^ b ^^^ d ^^^ xtime e]
  | x => x

def aesRounds : List Bytes → Bytes → Bytes
  | [], b => b
  | [k], b => xorBytes (shiftRows (b.map subByte)) k
  | k :: ks, b => aesRounds ks (xorBytes ((pieces 4 (shiftRows (b.map subByte))).flatMap mixColumn) k)

def aesWith (ks : List Bytes) (b : Bytes) : Bytes :=
  match ks with
  | [] => b
  | k :: t => aesRounds t (xorBytes b k)

/-- One AES-256 block encryption. -/
def aes256 (key b : Bytes) : Bytes := aesWith (aesKeys key) b

def invSbox (b : Byte) : Byte :=
  BitVec.ofNat 8 ((sboxTable.toList.findIdx? (· == b)).getD 0)

def invShiftRows (b : Bytes) : Bytes :=
  (List.range 16).map (fun n => b.getD ((n + 12 * (n % 4)) % 16) 0)

def invMixColumn (c : Bytes) : Bytes :=
  let m (x0 x1 x2 x3 : Byte) : Byte := gmul 14 x0 ^^^ gmul 11 x1 ^^^ gmul 13 x2 ^^^ gmul 9 x3
  match c with
  | [a, b, d, e] => [m a b d e, m b d e a, m d e a b, m e a b d]
  | x => x

def aesInvRounds : List Bytes → Bytes → Bytes
  | [], b => b
  | [k], b => xorBytes ((invShiftRows b).map invSbox) k
  | k :: ks, b => aesInvRounds ks ((pieces 4 (xorBytes ((invShiftRows b).map invSbox) k)).flatMap invMixColumn)

/-- One AES-256 block decryption. -/
def aes256Inv (key b : Bytes) : Bytes :=
  match (aesKeys key).reverse with
  | [] => b
  | k :: t => aesInvRounds t (xorBytes b k)

/-- The keystream block of counter block `iv ‖ counter` with a 32-bit big-endian counter. -/
def ctrBlock (ks : List Bytes) (iv : Bytes) (counter : Nat) : Bytes := aesWith ks (fit 12 iv ++ beBytes 4 counter)

/-- `n` blocks of CTR keystream from `counter`. -/
def ctrStream (ks : List Bytes) (iv : Bytes) : Nat → Nat → Bytes
  | 0, _ => []
  | n + 1, c => ctrBlock ks iv c ++ ctrStream ks iv n (c + 1)

/-! ### GCM -/

/-- Multiplication in GF(2^128) as GCM numbers its bits: the first byte's high bit is the coefficient of 1. -/
def ghashMulAux : Nat → BitVec 128 → BitVec 128 → BitVec 128 → BitVec 128
  | 0, _, _, z => z
  | n + 1, x, v, z =>
    let z' := if x.getLsbD 127 then z ^^^ v else z
    let v' := if v.getLsbD 0 then (v >>> 1) ^^^ 0xe1000000000000000000000000000000 else v >>> 1
    ghashMulAux n (x <<< 1) v' z'

def ghash (h : BitVec 128) (m : Bytes) : BitVec 128 :=
  (pieces 16 m).foldl (fun y b => ghashMulAux 128 (y ^^^ BitVec.ofNat 128 (beNat (fit 16 b))) h 0) 0

def pad16 (b : Bytes) : Bytes := b ++ zeros ((16 - b.length % 16) % 16)

/-- The 16-byte GCM tag of a ciphertext. -/
def gcmTag (key iv aad ct : Bytes) : Bytes :=
  let ks := aesKeys key
  let h := BitVec.ofNat 128 (beNat (aesWith ks (zeros 16)))
  let y := ghash h (pad16 aad ++ pad16 ct ++ beBytes 8 (8 * aad.length) ++ beBytes 8 (8 * ct.length))
  xorBytes (beBytes 16 y.toNat) (ctrBlock ks iv 1)

/-- GCM's CTR step, which encrypts and decrypts alike. -/
def gcmCrypt (key iv m : Bytes) : Bytes := xorBytes m (ctrStream (aesKeys key) iv (ceilDiv m.length 16) 2)

/-! ### AES key wrap (RFC 3394) -/

def wrapStep (ks : List Bytes) (n : Nat) (st : Bytes × List Bytes) (t : Nat) : Bytes × List Bytes :=
  let j := (t - 1) % n
  let b := aesWith ks (st.1 ++ st.2.getD j [])
  (xorBytes (b.take 8) (beBytes 8 t), st.2.set j (b.drop 8))

/-- Wrap key data of whole 8-byte blocks. -/
def aesWrap (kek data : Bytes) : Bytes :=
  let r := pieces 8 data
  let n := r.length
  let st := (List.range (6 * n)).foldl (fun st k => wrapStep (aesKeys kek) n st (k + 1)) (List.replicate 8 (0xA6 : Byte), r)
  st.1 ++ st.2.flatten

def unwrapStep (kek : Bytes) (n : Nat) (st : Bytes × List Bytes) (t : Nat) : Bytes × List Bytes :=
  let j := (t - 1) % n
  let b := aes256Inv kek (xorBytes st.1 (beBytes 8 t) ++ st.2.getD j [])
  (b.take 8, st.2.set j (b.drop 8))

/-- Unwrap; `none` where the integrity value is wrong. -/
def aesUnwrap (kek wrapped : Bytes) : Option Bytes :=
  match pieces 8 wrapped with
  | [] => none
  | a :: r =>
    let n := r.length
    let st := (List.range (6 * n)).foldl (fun st k => unwrapStep kek n st (6 * n - k)) (a, r)
    if st.1 = List.replicate 8 0xA6 then some st.2.flatten else none

end Sys2Proof.Machine
end

