-- ==== Sys2Proof/Machine/Tab.lean ====
section
/-!
DEFINITION. Sparse tables: lists of (key, value) pairs with strictly rising keys, and the operations that keep
them so. A table has a default, the value of every key it does not list; writing the default removes the entry,
so that equal tables are equal lists.
-/

namespace Sys2Proof

/-- A sparse table keyed by naturals. -/
abbrev Tab (α : Type) := List (Nat × α)

/-- The value at key `k`, if the table lists one. -/
def Tab.find? {α : Type} : Tab α → Nat → Option α
  | [], _ => none
  | (j, v) :: t, k => if k = j then some v else Tab.find? t k

/-- The value at key `k`, `d` where the table lists none. [log 132 DESIGN CHOICE] -/
def Tab.get {α : Type} (t : Tab α) (d : α) (k : Nat) : α := (Tab.find? t k).getD d

/-- Remove key `k`. -/
def Tab.erase {α : Type} : Tab α → Nat → Tab α
  | [], _ => []
  | (j, v) :: t, k => if k = j then t else (j, v) :: Tab.erase t k

/-- Put `v` at key `k`, keeping the keys rising. -/
def Tab.insert {α : Type} : Tab α → Nat → α → Tab α
  | [], k, v => [(k, v)]
  | (j, w) :: t, k, v =>
    if k < j then (k, v) :: (j, w) :: t
    else if k = j then (k, v) :: t
    else (j, w) :: Tab.insert t k v

/-- Put `v` at key `k` in a table whose default is `d`: writing the default removes the entry. -/
def Tab.set {α : Type} [DecidableEq α] (t : Tab α) (d : α) (k : Nat) (v : α) : Tab α :=
  if v = d then Tab.erase t k else Tab.insert t k v

/-- Change the value at key `k` by `f`. -/
def Tab.modify {α : Type} [DecidableEq α] (t : Tab α) (d : α) (k : Nat) (f : α → α) : Tab α :=
  Tab.set t d k (f (Tab.get t d k))

/-- Change every listed value. -/
def Tab.map {α β : Type} (f : Nat → α → β) (t : Tab α) : Tab β := List.map (fun (k, v) => (k, f k v)) t

/-- Keep the entries that satisfy `p`. -/
def Tab.filter {α : Type} (p : Nat → α → Bool) (t : Tab α) : Tab α := List.filter (fun (k, v) => p k v) t

/-- The smallest key, from `k` on with `fuel` tries, that the table does not list. -/
def Tab.freeFrom {α : Type} (t : Tab α) : Nat → Nat → Nat
  | 0, k => k
  | fuel + 1, k => if (Tab.find? t k).isSome then Tab.freeFrom t fuel (k + 1) else k

/-- The smallest key the table does not list. -/
def Tab.free {α : Type} (t : Tab α) : Nat := Tab.freeFrom t t.length 0

/-- The table's keys rise strictly. -/
def Tab.sorted {α : Type} : Tab α → Bool
  | [] => true
  | [_] => true
  | (j, _) :: (k, w) :: t => decide (j < k) && Tab.sorted ((k, w) :: t)

/-- The canonical form of a table with default `d`: keys rise strictly and no entry equals the default. -/
def Tab.wf {α : Type} [DecidableEq α] (d : α) (t : Tab α) : Bool :=
  Tab.sorted t && t.all (fun e => decide (e.2 ≠ d))

end Sys2Proof
end

