-- ==== Sys2Proof/Machine/StErr.lean ====
section
/-!
DEFINITION. State of the 16 sticky error logs (ch. 25).
-/

namespace Sys2Proof.Machine
open Sys2Proof

/-- Table 25.2. -/
inductive ErrClass where
  | ce | contained | island | fatal | protocol
deriving DecidableEq, Repr

/-- Table 25.4. -/
inductive ErrCause where
  | memCe | memUce | poisonConsumed | sramCe | sramUce | crossingParity | epochParity | resetFailed
  | regAccess | hostCompletion | queueFault | katFail | image | reserveUce | logCorrupt | chunkBad
deriving DecidableEq, Repr

/-- An error log entry (Table 25.5). -/
structure ErrEntry where
  time : Nat := 0
  addr : Nat := 0
  syndrome : W32 := 0
  status : W16 := 0
  epoch : W16 := 0
  island : Byte := 0
  partition : Byte := 0
  cause : ErrCause
  cls : ErrClass
  count : Nat := 1
  seq : W16 := 0
deriving DecidableEq, Repr

/-- One log: entries by slot, the first uncorrected entry and the counts of CP_ERRLOG_STATUS (R851, R852). -/
structure ErrLog where
  slots : Tab ErrEntry := []
  first : Option ErrEntry := none
  lost : W16 := 0
  nextSeq : W16 := 0
  ceCount : W32 := 0
  uceCount : W32 := 0
deriving DecidableEq, Repr

/-- The logs, keyed 0 to 15, and CP_ERRLOG_CE_THRESHOLD. -/
structure ErrLogs where
  logs : Tab ErrLog := []
  ceThreshold : Nat := 64
deriving DecidableEq, Repr

end Sys2Proof.Machine
end

