-- ==== Sys2Proof/Machine/StQueue.lean ====
section
/-!
DEFINITION. State of commands, queues, fences, resident tasks, progress counters and leases (ch. 5 and ch. 6).
Every field's default is its value in `State.reset`.
-/

namespace Sys2Proof.Machine
open Sys2Proof

/-- Table 5.18. -/
inductive Status where
  | ok | badOpcode | badParam | range | notPermitted | skipped | imageRejected
  | translationFault | hostReadTimeout | targetReset | revoked
  | late | duplicate | notInCohort | revealConflict | belowFloor | noiseUnavailable | aborted
  | poisoned | eccUncorrectable | remoteUnreachable | linkDown
  | keySlotBad | keyUsage | keyDest | bindingRefused | authFail | entropyFail
deriving DecidableEq, Repr

/-- The kinds of WAITING a queue can show (Table 6.4b). -/
inductive WaitKind where
  | fence | barrier | chain | deadline | peer | cqFull | dispatch
deriving DecidableEq, Repr

/-- What a request carries of its source: the island's ID and the epoch it had at issue (R65); the reply echoes it. -/
structure SourceTag where
  island : Byte := 0
  epoch : W16 := 0
deriving DecidableEq, Repr

/-- A held translation (R658): for each 64 KiB page, its number in the caller's address space and the physical address
its first byte has. -/
abbrev Pages := List (Nat × Nat)

/-- What a command at stage 5 still waits for. A command whose effect is made whole at its dispatch goes straight to
`Phase.done`. -/
inductive Work where
  /-- FENCE_WAIT until fence `key` reaches `threshold`. -/
  | fenceWait (key : Nat) (threshold : Nat)
  /-- BARRIER until no command that a listed queue fetched earlier is left uncompleted. -/
  | barrier (queues : List Source)
  /-- RESIDENT_POST waiting for inbox room (R220). -/
  | post (task : TaskId) (words : List W32)
  /-- HOST_PULL: host bytes still to read, and those received so far in ascending order. -/
  | hostPull (nextHost : Nat) (left : Nat) (pages : Pages) (dst : Nat) (got : List (Nat × Bytes)) (outstanding : Nat)
  /-- HARVEST until the survivor set of the round is fixed. -/
  | harvest (round : Nat)
  /-- SHARES_SUBMIT: records still without an outcome, and the counts so far. -/
  | shares (round : Nat) (waiting : List Bytes) (remote : Nat) (accepted conflicts duplicates already : Nat)
      (failed : Option Status)
  /-- UNMASK until every mask item of the round has been written back. -/
  | unmask (round : Nat)
  /-- ROUTE_TOPK: its layer and the bank it uses for its whole run (R490). -/
  | route (layer : Nat) (bank : Bool)
  /-- CODED_DECODE: tile jobs still running. -/
  | coded (round : Nat) (job : Nat)
  /-- SEAL waiting for the fabric sum. -/
  | seal (round : Nat)
  /-- RELEASE waiting for a gate slot. -/
  | releaseWait (round : Nat)
  /-- RELEASE exporting from a gate slot. -/
  | releaseSlot (slot : Nat)
  /-- A Plot job (MATMUL, REDUCE_IDX, ELTWISE). -/
  | job (id : Nat)
  /-- RMA_WRITE, RMA_READ, RMA_ADD, SIGNAL_REMOTE: end-to-end requests not yet ended, retransmissions made, requests
  refused, and the first failure. -/
  | remote (left retx refused : Nat) (failed : Option Status)
  /-- TRELLIS_REDUCE instance `inst` of the partition's Trellis. -/
  | trellis (id : Nat) (inst : Nat)
  /-- REVEAL_COMBINE: its round, and the bytes of store it has taken (R348). -/
  | combine (round bytes : Nat)
  /-- DIGEST, AEAD_SEAL or AEAD_OPEN: the engine, the context held, the key copied (R688), the IV and AAD read, and the
  input processed so far. -/
  | context (aead : Bool) (granted : Option Nat) (key : Bytes) (iv aad : Bytes) (input : Bytes)
  /-- NOISE_FILL: its range, samples to write and samples written. -/
  | noise (pages : Pages) (dst total done : Nat)
  /-- A command that needs an island not in RUN waits for it (R76). -/
  | held (d : Island)
  /-- GRAFT_PAIR waiting for the partner. -/
  | pair (deadline : Nat)
  /-- GRAFT_TAKEOVER waiting for the partner's or the witness's answer. -/
  | takeover (deadline : Nat)
  /-- WEIGHTS_LOAD: its Digest and AEAD contexts, the content key, the chunks of its store, the blob bytes read, and how
  many of them each engine has processed. -/
  | weights (dig aead : Option Nat) (key : Bytes) (chunks : List Nat) (blob : Bytes) (hashed opened : Nat)
  /-- FAB_DISCOVER while the flood settles. -/
  | discover (deadline : Nat)
  /-- ROUND_OPEN of a follower waiting for the leader's key, with its parameter words as fetched and the cipher code read at stage 4 (R325). -/
  | openFollow (words : List Nat) (cipher : Nat)
  /-- INGEST_BIND, ROUND_ABORT and other work with only round messages outstanding. -/
  | messages (left : Nat)
  /-- A command of a mirrored round, done but for the secondary's acknowledgement (R620). -/
  | mirror (seq : Nat) (st : Status) (res : List W32)
  /-- FW_STAGE after its first step: image type, image bytes. -/
  | stage (image : Nat) (bytes : Bytes)
  /-- KEY_WRITE or KEY_DERIVE at work in the Shed: destination, owner, usage, destination mask, key bytes, origin, key (R693, R695). -/
  | keyStore (slot : Nat) (owner : Fin 64) (usage mask len : Nat) (origin : Bool) (key : Bytes)
  /-- KEY_ERASE at work in the Shed (R696). -/
  | keyErase (slot : Nat)
  /-- FW_ACTIVATE of the sequencer image, its sequencers stopped. -/
  | activate
  /-- COLD_FRAME_ENTER waiting for C commands on the quota (R667). -/
  | coldFrame (p : Fin 64)
deriving DecidableEq, Repr

/-- Where a command stands in the stages of R167. -/
inductive Phase where
  /-- stage 2 -/
  | waiting
  /-- stage 2 passed; awaiting a dispatch slot -/
  | ready
  /-- stage 5 -/
  | executing (w : Work)
  /-- completed but for the acknowledgement of its remote signal (R159) -/
  | signalling (st : Status) (res : List W32)
  /-- completed; record, local signal and interrupt not yet made. `ord` is its place in completion order. -/
  | done (ord : Nat) (st : Status) (res : List W32) (time : Nat)
deriving DecidableEq, Repr

/-- What CHAIN asks of a command (R162): nothing, to wait for command `id`, or to be SKIPPED. -/
inductive ChainLink where
  | none
  | after (id : Nat)
  | skip
deriving DecidableEq, Repr

/-- A command fetched and not yet completed with a record. `readable` is false for a packet whose fetch met bad data
(R190). `epoch` is its agent's epoch, taken at dispatch (R197). `pages` are the
translations it holds (R658); `tag` the source of its requests (R65); `held` the island it was last held for under R76 and its place in the
order of arrival there; `counted` that its completion has advanced the progress counter (R222), `sigRefused` that its local signal was
refused when it completed (R214, R216); `words` and `inputs` the parameter words and bytes it read, as a mirror item carries them
(R619). `mirrored` is the sequence number of the mirror item that a
secondary carries out (R620). `aborts` lists the rounds of its partition that became ABORTED while it waited, each with the cause and
the counts a HARVEST returns (R53, R187). -/
structure Cmd where
  src : Source
  id : Nat
  pkt : Packet
  readable : Bool := true
  chain : ChainLink := .none
  epoch : W16 := 0
  pages : Pages := []
  inputs : Bytes := []
  mirrored : Option Nat := none
  aborts : List (W32 × Status × List Nat) := []
  tag : SourceTag := {}
  held : Option (Island × Nat) := none
  counted : Bool := false
  sigRefused : Bool := false
  serial : Nat := 0
  words : List Nat := []
  phase : Phase := .waiting
deriving DecidableEq, Repr

/-- Where a ring lies (Table 6.2). -/
inductive RingLoc where
  | device
  | host
deriving DecidableEq, Repr

/-- Table 6.5. -/
inductive StopCause where
  | none | disabled | config | doorbellOverrun | fetchFault | recordFault
deriving DecidableEq, Repr

/-- Fetch redirected by RING_JUMP: the next slot's address and the slots left. -/
structure Jump where
  addr : Nat
  left : Nat
deriving DecidableEq, Repr

/-- The last command fetched from a queue, as CHAIN sees it: its number, whether it carries CHAIN, and whether it has
completed and with OK. -/
structure LastFetched where
  id : Nat
  chain : Bool
  outcome : Option Bool
deriving DecidableEq, Repr

/-- One queue (Table 6.2, Table 6.5, R196, R199 to R207). `half` is the HEAD at which the slot of a host ring was found to begin a 128-byte
packet whose second slot was not offered (R186). -/
structure Queue where
  enable : Bool := false
  draining : Bool := false
  stop : StopCause := .disabled
  cmdBase : W64 := 0
  cmdLog2 : Nat := 0
  cqBase : W64 := 0
  cqLog2 : Nat := 0
  cmdLoc : RingLoc := .device
  cqLoc : RingLoc := .device
  tailSource : Bool := false
  tailFenceNo : Nat := 0
  ownEn : Bool := false
  ownFence : Nat := 0
  vector : Nat := 0
  realtime : Bool := false
  classNext : Option Bool := none
  head : W32 := 0
  tail : W32 := 0
  cqHead : W32 := 0
  cqTail : W32 := 0
  base : W64 := 0
  ignored : W32 := 0
  jump : Option Jump := none
  nextId : Nat := 0
  last : Option LastFetched := none
  epoch : W16 := 1
  fetching : Option Nat := none
  half : Option W32 := none
deriving DecidableEq, Repr

/-- The fence that feeds the queue's tail, with TAIL_SOURCE FENCE. -/
def Queue.tailFence (q : Queue) : Option Nat := if q.tailSource then some q.tailFenceNo else none

/-- The fence the queue holds as FENCE_OWN, with OWN_EN. -/
def Queue.fenceOwn (q : Queue) : Option Nat := if q.ownEn then some q.ownFence else none

/-- R221. -/
inductive TaskState where
  | running | waiting | faulted | stopped
deriving DecidableEq, Repr

/-- What a resident task's WAIT sleeps on (Table 6.3): fence thresholds, its inbox, and the served queues whose CQ_TAIL is to
advance. -/
structure TaskWait where
  fences : List (Nat × Nat) := []
  inbox : Bool := false
  records : List Nat := []
deriving DecidableEq, Repr

/-- A primitive of a resident task with what it moves (Table 6.3). -/
inductive TaskStep where
  | wait (fences : List (Nat × Nat)) (inbox : Bool) (served : List Nat)
  | read (va loc len : Nat)
  | write (va loc len : Nat)
  | putSlot (q : Fin 16) (slot : Nat) (data : Bytes)
  | takeRecord (q : Fin 16)
  | takeMessage
  | signal (fence : Nat) (op : FenceOp) (v : W64)
  | ownFence (fence : Nat)
  | dropFence (fence : Nat)
deriving DecidableEq, Repr

/-- One resident task slot (R219 to R221). `step` is a primitive that awaits its dispatch slot, `fetching` the tag of the host read of a
TAKE_RECORD. `mem` is its 256 KiB of task memory, in the canonical form of ch. 19; `taken`
what TAKE_RECORD or TAKE_MESSAGE last handed to the program; `lost` the fences whose lease Shears took from it (R226). -/
structure Task where
  state : TaskState := .stopped
  digest : Bytes := []
  served : BitVec 16 := 0
  inbox : List (List W32) := []
  mem : List Host.Cell := []
  wait : TaskWait := {}
  taken : Bytes := []
  step : Option TaskStep := none
  fetching : Option Nat := none
  lost : List Nat := []
  epoch : W16 := 1
deriving DecidableEq, Repr

/-- Who holds a lease (R224, Table 6.4), with the epoch it was taken under. -/
inductive Holder where
  | island (i : Island) (epoch : W16)
  | agent (a : Agent) (epoch : W16)
  | device (epoch : W16)
deriving DecidableEq, Repr

/-- A lease: its owner partition (`none`: the control plane) and its holder. -/
structure Lease where
  owner : Option (Fin 64)
  holder : Holder
deriving DecidableEq, Repr

/-- A class's place in the round-robin of R210: the partition last served (64 for the control plane), and each partition's agent last
served. -/
structure Robin where
  lastPart : Nat := 0
  lastAgent : Tab Nat := []
deriving DecidableEq, Repr

/-- One command sequencer's dispatch window (R208): slots gone, those given to REALTIME and control-plane commands, and the round-robin of
each class, keyed 0 REALTIME, 1 control plane, 2 NORMAL work. -/
structure Sequencer where
  slot : Nat := 0
  rtUsed : Nat := 0
  cpUsed : Nat := 0
  robins : Tab Robin := []
deriving DecidableEq, Repr

/-- Everything ch. 5 and ch. 6 keep: commands in flight (oldest first), completions and arrivals at crossings counted, queues, fences (partition p's fence f at key
4096p + f, the control plane's at 262144 + f), tasks, progress counters (key 24p + agent), leases (key class × 2^20 +
index), sequencers, stale replies by queue and the counters of the queue block. -/
structure Queues where
  cmds : List Cmd := []
  doneOrd : Nat := 0
  arrivals : Nat := 0
  queues : Tab Queue := []
  fences : Tab W64 := []
  fenceRefused : Tab W32 := []
  tasks : Tab Task := []
  progress : Tab W64 := []
  leases : Tab Lease := []
  seqs : Tab Sequencer := []
  rtReserve : Nat := 16
  stale : Tab W64 := []
  classRefused : W32 := 0
  serials : Tab Nat := []
deriving DecidableEq, Repr

end Sys2Proof.Machine
end

