-- ==== Sys2Proof/Machine/Flags.lean ====
section
/-!
DEFINITION. Status codes (Table 5.18) and the interrupt cause bits (Tables 26.13, 27.7).
-/

namespace Sys2Proof.Machine
open Sys2Proof

/-- The 16-bit code of a status (Table 5.18, R182). -/
def Status.code : Status → Nat
  | .ok => 0x0000
  | .badOpcode => 0x0101
  | .badParam => 0x0102
  | .range => 0x0103
  | .notPermitted => 0x0104
  | .skipped => 0x0105
  | .imageRejected => 0x0106
  | .translationFault => 0x0201
  | .hostReadTimeout => 0x0202
  | .targetReset => 0x0301
  | .revoked => 0x0302
  | .late => 0x0401
  | .duplicate => 0x0402
  | .notInCohort => 0x0403
  | .revealConflict => 0x0404
  | .belowFloor => 0x0405
  | .noiseUnavailable => 0x0406
  | .aborted => 0x0407
  | .poisoned => 0x0501
  | .eccUncorrectable => 0x0502
  | .remoteUnreachable => 0x0601
  | .linkDown => 0x0602
  | .keySlotBad => 0x0701
  | .keyUsage => 0x0702
  | .keyDest => 0x0703
  | .bindingRefused => 0x0704
  | .authFail => 0x0705
  | .entropyFail => 0x0801

/-- All statuses. -/
def Status.all : List Status :=
  [.ok, .badOpcode, .badParam, .range, .notPermitted, .skipped, .imageRejected, .translationFault, .hostReadTimeout,
   .targetReset, .revoked, .late, .duplicate, .notInCohort, .revealConflict, .belowFloor, .noiseUnavailable, .aborted,
   .poisoned, .eccUncorrectable, .remoteUnreachable, .linkDown, .keySlotBad, .keyUsage, .keyDest, .bindingRefused,
   .authFail, .entropyFail]

/-- The status of a code, `ok` for a code that Table 5.18 does not list. -/
def Status.ofCode (c : Nat) : Status := (Status.all.find? (fun st => st.code == c)).getD .ok

/-- Rank of a stage-1 status (R168): the lowest wins. -/
def Status.rank : Status → Nat
  | .poisoned => 0
  | .eccUncorrectable => 0
  | .badOpcode => 1
  | .notPermitted => 2
  | .badParam => 3
  | _ => 4

/-- Bits of CP_HIF_INT_STATUS (Table 26.13) with the PF vector each signals. -/
inductive PfCause where
  | errlog (log : Nat)
  | hif | island | kelri | thermal | time | port | fabric | graft | shed | entropy | mailbox
deriving DecidableEq, Repr

def PfCause.bitNo : PfCause → Nat
  | .errlog n => n
  | .hif => 16
  | .island => 17
  | .kelri => 18
  | .thermal => 19
  | .time => 20
  | .port => 21
  | .fabric => 22
  | .graft => 23
  | .shed => 24
  | .entropy => 25
  | .mailbox => 26

def PfCause.vector : PfCause → Nat
  | .errlog _ => 0
  | .hif => 0
  | .island => 1
  | .kelri => 1
  | .thermal => 2
  | .time => 3
  | .port => 4
  | .fabric => 5
  | .graft => 6
  | .shed => 7
  | .entropy => 8
  | .mailbox => 9

/-- Codes of error causes (Table 25.4). -/
def ErrCause.code : ErrCause → Nat
  | .memCe => 0x01
  | .memUce => 0x02
  | .poisonConsumed => 0x03
  | .sramCe => 0x04
  | .sramUce => 0x05
  | .crossingParity => 0x06
  | .epochParity => 0x07
  | .resetFailed => 0x08
  | .regAccess => 0x09
  | .hostCompletion => 0x0A
  | .queueFault => 0x0B
  | .katFail => 0x0C
  | .image => 0x0D
  | .reserveUce => 0x0E
  | .logCorrupt => 0x0F
  | .chunkBad => 0x10

def ErrClass.code : ErrClass → Nat
  | .ce => 0
  | .contained => 1
  | .island => 2
  | .fatal => 3
  | .protocol => 4

end Sys2Proof.Machine
end

