-- ==== Sys2Proof/Machine/StTime.lean ====
section
/-!
DEFINITION. State of the TIME island (ch. 12). The fabric-time counter is kept in units of 2^-40 ns, the 40 fractional
bits of R397; the 64-bit nanosecond count and the 16-bit fraction of R5 are its upper bits.
-/

namespace Sys2Proof.Machine
open Sys2Proof

/-- Table 12.2. -/
inductive SyncState where
  | master | locked | acquiring | holdover
deriving DecidableEq, Repr

/-- An armed general alarm (R414): fire time in ns, fence key, and the queue on whose behalf it signals. -/
structure Alarm where
  fire : Nat
  fence : Nat
  src : Source
deriving DecidableEq, Repr

/-- A candidacy heard (R408): priority, fabric ID, and how far its fabric time, corrected by link delay, was ahead of this
device's when it came, in ps. -/
structure Candidate where
  priority : Nat
  fid : Nat
  lead : Int
deriving DecidableEq, Repr

/-- A correction in progress (R406): what remains, in 2^-40 ns and signed; `full` when it runs at the full 200 ppm. -/
structure Slew where
  remaining : Int
  full : Bool
deriving DecidableEq, Repr

/-- What the time outputs have done (R416 to R420): edges and frames, in order. [log 130 DESIGN CHOICE] -/
inductive TimeOut where
  | tenMeg (tod : Int) (realigned : Bool)
  | pps (tod : Int)
  | tod (frame : Bytes)
deriving DecidableEq, Repr

/-- Frames the device sends for time: exchanges, ANNOUNCE, candidacies; times are in ps. -/
inductive TimeMsg where
  | sync (port : Nat) (t1 : Nat)
  | announce (port : Nat) (master : Nat) (priority : Nat) (generation : W16) (hops : Nat)
  | candidacy (port : Nat) (priority : Nat) (fid : Nat) (time : Nat)
deriving DecidableEq, Repr

/-- The TIME island. General alarms are keyed 16p + a, the control plane's at 1,024 + a. Error estimates are in ps; `qualified` is set once
the device has been MASTER or LOCKED (R589). `delays` holds the link delay of each port's last exchange (R403). `last10mAt` is the fabric
time of the last 10 MHz edge, in 2^-40 ns, moved along by a step. `adrift` lists the devices
that are neither MASTER nor LOCKED, a condition of those devices (R401, R402). [log 8 DESIGN CHOICE, 106 DEDUCED] -/
structure TimeUnit where
  t40 : Nat := 0
  rate : Int := 0
  slew : Option Slew := none
  state : SyncState := .holdover
  qualified : Bool := false
  masterValid : Bool := false
  masterId : Nat := 0
  masterPriority : Nat := 0
  generation : W16 := 0
  highestHeard : W16 := 0
  parent : Option Nat := none
  hops : Nat := 0
  errBasePs : Nat := 65536000
  errSince : Nat := 0
  othersFound : Bool := false
  lastAnnounce : Nat := 0
  nextAnnounce : Nat := 0
  lastExchange : Nat := 0
  nextExchange : Tab Nat := []
  candidacyEnd : Option Nat := none
  heard : List Candidate := []
  priority : Nat := 128
  todOffset : Int := 0
  todOffsetNext : Option Int := none
  todOffsetDue : Bool := false
  utcOffset : W16 := 0
  leap : BitVec 2 := 0
  asym : Tab Int := []
  delays : Tab Int := []
  adrift : List Nat := []
  holdoverRate : Nat := 10
  outliers : W32 := 0
  outlierRun : Nat := 0
  alarms : Tab Alarm := []
  en10m : Bool := true
  enPps : Bool := true
  enTod : Bool := true
  synthLocked : Bool := false
  osc50 : Bool := false
  ppsMissed : Bool := false
  stepSeen : Bool := false
  todSeq : Byte := 0
  lastPps : Option Int := none
  lastPpsAt : Nat := 0
  lastTod : Option Int := none
  last10m : Option Int := none
  last10mAt : Option Int := none
  realign : Bool := false
  out : List TimeOut := []
deriving DecidableEq, Repr

end Sys2Proof.Machine
end

