-- ==== Sys2Proof/Machine/StTrellis.lean ====
section
/-!
DEFINITION. State of the Trellis (ch. 15).
-/

namespace Sys2Proof.Machine
open Sys2Proof

/-- A reduce or seal sum in progress: this node's contribution, each child's chunks as received, clamps the
children report by chunk, credits, and the result
chunks written (R511). `src` and `cmd` name the command that waits for it,
`self` the fabric ID this node has in the tree. -/
structure Sum where
  key : SumKey
  desc : ReduceDesc
  src : Source
  cmd : Nat
  self : Nat
  own : List Nat
  members : List Nat
  pages : List (Nat × Nat)
  dst : Nat
  children : Tab (Tab (List Nat)) := []
  childClamps : Tab Nat := []
  started : Bool := false
  credits : Nat := 0
  sentUp : Nat := 0
  result : Tab (List Nat) := []
  clamps : Nat := 0
  failed : Option Status := none
deriving DecidableEq, Repr

/-- A formed Trellis (R502): participants ascending, the CRC of the list bytes, the count of reduces executed, and
the failure marks (key, status code) and credits (key, chunks) that came for sums not yet executed here. -/
structure Formed where
  list : List Nat
  crc : W32
  nextReduce : Nat := 0
  sums : List Sum := []
  marks : List (SumKey × Nat) := []
  early : List (SumKey × Nat) := []
deriving DecidableEq, Repr

/-- The Trellis unit. Formed Trellises are keyed 256p + ID; `gone` lists neighbours found gone per key (R519),
`dissolved` the keys an FLR or PART_DESTROY dissolved (R518). -/
structure TrellisUnit where
  formed : Tab Formed := []
  gone : Tab (List Nat) := []
  dissolved : List Nat := []
  refused : W32 := 0
  nextKeepalive : Nat := 0
deriving DecidableEq, Repr

end Sys2Proof.Machine
end

