-- ==== Sys2Proof/Machine/StFabric.lean ====
section
/-!
DEFINITION. State of the Spetar links (ch. 16), the fabric (ch. 17) and graft pairs (ch. 18). Every packet the device
sends over Spetar is recorded, in order, in `out`.
-/

namespace Sys2Proof.Machine
open Sys2Proof

/-- LINK_DOWN causes (Table 16.3). -/
inductive DownCause where
  | los | synthLock | peerFault | trainFail | errorRate
deriving DecidableEq, Repr

/-- Table 16.3. -/
inductive PortState where
  | disabled | settling | training | active | calibrating | dazzled | portFenced
  | linkDown (c : DownCause)
deriving DecidableEq, Repr

/-- What the device sends over Spetar: a packet on a port with its payload, a flooded record (a discovery message or a link-state one), a
message, a message or mirror item to the graft partner, or a link frame; `param` is the PARAM frame of training, `error` the error block
that cuts a frame short, `trailer` a FEC trailer that an ACK or NAK is due in. [log 130 DESIGN CHOICE] -/
inductive FabOut where
  | packet (port : Option Nat) (h : FabHeader) (payload : Bytes)
  | flood (port : Nat) (h : FabHeader) (d : DevRec)
  | message (port : Nat) (h : FabHeader) (m : RoundMsg)
  | graft (h : FabHeader) (m : RoundMsg)
  | mirror (h : FabHeader) (seq : Nat) (epoch : W16) (item : MirrorItem)
  | time (port : Nat) (m : TimeMsg)
  | pause (port : Nat)
  | unpause (port : Nat)
  | param (port : Nat) (udid : Bytes) (ack : W16) (nonce : Bytes)
  | fault (port : Nat)
  | error (port : Nat)
  | trailer (port : Nat) (ack : W16) (nak : Bool)
deriving DecidableEq, Repr

/-- A link frame held in a replay buffer (R534): its LSEQ, its extended LSEQ (R594), when it was first sent, and what it carries.
[log 65 DEDUCED] -/
structure Frame where
  lseq : W16
  ext : Nat := 0
  since : Nat
  what : FabOut
deriving DecidableEq, Repr

/-- The line side of a port's transmitter (R527, R528): the blocks sent, each lane's scrambler, the running parity of the FEC block, a NAK
that the next trailer carries, and the blocks of the last frame on each lane. [log 145 DEDUCED] -/
structure Line where
  block : Nat := 0
  lane0 : BitVec 58 := 0
  lane1 : BitVec 58 := 0
  parity : BitVec 22 := 0
  nak : Bool := false
  sent0 : List (BitVec 66) := []
  sent1 : List (BitVec 66) := []
deriving DecidableEq, Repr

/-- One Spetar port: `spent` lists by channel the frames that hold credit, in the order sent, each as its LEVEL and its units of 64 bytes
(R532, R570), `owed` the units of each channel that its receiver has to give back; `expected` is the LSEQ of the next frame in order (R531).
`txKey` and `rxKey` are the keys of an encrypted link's two directions, `nonce` this end's nonce of the training in hand and `nextExt` the extended
LSEQ of the next frame (R593, R594). `queue` holds what waits to be sent, `replay` the frames not yet acknowledged. `settledAt` is when the
port entered SETTLING, and `fecBad` marks the uncorrectable ones of the last 64 FEC blocks, the newest lowest (R551). [log 11 DESIGN CHOICE, 126 DESIGN CHOICE] -/
structure Port where
  enable : Bool := true
  state : PortState := .settling
  peerUdid : Option Bytes := none
  peerPort : Option Nat := none
  lseq : W16 := 0
  nextExt : Nat := 0
  replay : List Frame := []
  spent : Tab (List (Nat × Nat)) := []
  owed : Tab Nat := []
  expected : W16 := 0
  nonce : Bytes := []
  txKey : Option Bytes := none
  rxKey : Option Bytes := none
  line : Line := {}
  lastAckAt : Nat := 0
  queue : List FabOut := []
  paused : Option Nat := none
  qualifiedAt : Option Nat := none
  trainingSince : Option Nat := none
  settledAt : Nat := 0
  floodTimes : List Nat := []
  backoffMs : Nat := 1
  backoffUntil : Nat := 0
  everDazzled : Bool := false
  activeSince : Nat := 0
  nakTimes : List Nat := []
  retrainTimes : List Nat := []
  trainFails : Nat := 0
  tagFails : List Nat := []
  losSince : Option Nat := none
  floodEvents : W32 := 0
  retrains : W32 := 0
  authFail : W32 := 0
  rxHigh : Int := 20
  encrypted : Bool := false
  rxPower0 : Int := 0
  rxPower1 : Int := 0
  fecCorrected : W64 := 0
  fecUncorrectable : W64 := 0
  fecBad : W64 := 0
  naks : W32 := 0
deriving DecidableEq, Repr

/-- One optical engine and its link synthesiser (R540 to R544). [log 11 DESIGN CHOICE, 66 DEDUCED] -/
structure Oe where
  locked : Bool := false
  nextRetry : Nat := 0
  calRequested : Bool := false
  draining : Option Nat := none
  calibrating : Option Nat := none
  retryAt : Option Nat := none
  firstDeferral : Option Nat := none
  calDeferred : Nat := 0
  lastCalTemp : Int := 0
deriving DecidableEq, Repr

/-- What an outstanding end-to-end request is for. -/
inductive ReqPurpose where
  | data (src : Source) (cmd : Nat)
  | read (src : Source) (cmd : Nat) (pages : List (Nat × Nat)) (dst : Nat) (len : Nat)
  | headerSignal (src : Source) (cmd : Nat)
  | probe (src : Source) (cmd : Nat)
  | gate (src : Source) (cmd : Nat)
  | roundMsg (entry : Nat) (m : RoundMsg)
  | message (m : RoundMsg)
  | keepalive (trellis : Nat)
deriving DecidableEq, Repr

/-- A request packet waiting to be sent or outstanding (R584 to R586): `serial` picks its route (R568), `route` is the
port and intermediate group last used, `bytes` what it counts against the congestion window. `got` collects READ_RESP
data by offset. -/
structure Outstanding where
  header : FabHeader
  payload : Bytes
  bytes : Nat
  serial : Nat
  purpose : ReqPurpose
  tag : SourceTag := {}
  firstSend : Nat := 0
  lastSend : Nat := 0
  retries : Nat := 0
  route : Nat × Option Nat := (0, none)
  got : List (Nat × Bytes) := []
deriving DecidableEq, Repr

/-- Per-destination source state: next PSN, outstanding packets by PSN, congestion window and RTT samples (Table 17.6). -/
structure Dest where
  nextPsn : Nat := 0
  out : Tab Outstanding := []
  unsent : List Outstanding := []
  window : Nat := 65536
  rtts : List (Nat × Nat) := []
  above : Nat := 0
  below : Nat := 0
  lastGrow : Nat := 0
  lastShrink : Nat := 0
  diverted : Option Nat := none
deriving DecidableEq, Repr

/-- A request this target has applied (R588): its PSN, when, and the answer given. -/
structure Applied where
  psn : Nat
  at_ : Nat
  status : Nat
deriving DecidableEq, Repr

/-- A remote window (R574, R576): translated pages held from WINDOW_OPEN. -/
structure Window where
  peer : Nat
  peerPart : Nat
  read : Bool
  write : Bool
  add : Bool
  signal : Bool
  bytes : Nat
  pages : List (Nat × Nat)
  closing : Option Nat := none
deriving DecidableEq, Repr

/-- The Spetar unit. `egress` holds, by optical engine, what waits in FAB for a port that is not ACTIVE or for room in the engine's crossing
(R62, R537). `discovering` is set while a discovery runs here, true for FULL; `seen` lists the devices heard in the last one and
`discoveredAt` is when that one began. Ports are keyed 0 to 15, engines 0 to 3, destinations and applied lists by fabric ID, windows
256p + handle. -/
structure Spetar where
  ports : Tab Port := []
  oes : Tab Oe := []
  egress : Tab (List (Nat × FabOut)) := []
  fid : Option Nat := none
  fidReq : Option Nat := none
  fidConflict : W32 := 0
  map : List DevRec := []
  seen : List Bytes := []
  discovering : Option Bool := none
  discoveredAt : Option Nat := none
  nonMinimal : Bool := false
  nextVia : Nat := 0
  serial : Nat := 0
  dests : Tab Dest := []
  applied : Tab (List Applied) := []
  highest : Tab Nat := []
  windows : Tab Window := []
  encMode : Bool := false
  encSlot : Nat := 0
  out : List FabOut := []
deriving DecidableEq, Repr

/-- Pair states (ch. 18, CP_GRAFT_STATUS). [log 73 DEDUCED] -/
inductive PairState where
  | unpaired | mirroring | degraded
deriving DecidableEq, Repr

/-- Log 73 DEDUCED. -/
inductive Role where
  | none | primary | secondary | held | deposed
deriving DecidableEq, Repr

/-- A pair this device serves as witness (R615, R628, R641): its members, holder, role epoch, lease expiry, a pending
request's member, FORCE, and the end of a new witness's hold. [log 71 DEDUCED] -/
structure WitnessRec where
  a : Nat
  b : Nat
  holder : Nat
  epoch : W16
  expiry : Nat
  request : Option Nat := none
  force : Bool := false
  holdUntil : Option Nat := none
deriving DecidableEq, Repr

/-- What waits for the secondary's acknowledgement of an item. -/
inductive MirrorWait where
  | command (src : Source) (cmd : Nat) (round : Nat)
  | bundle (entry : Nat) (desc : Nat)
  | message (entry : Nat) (origin : Nat) (m : RoundMsg)
  | mark (slot : Nat)
  | nothing
deriving DecidableEq, Repr

/-- The graft unit, in the FAB island (R643). `asked` is this device's own GRAFT_PAIR while it waits (partner, port,
witness), `request` the partner's (partner, witness, open rounds); `forming` a pair not yet recorded by its witness.
`requested` marks a takeover request sent, `acked` keeps acknowledgements of mirrored commands still executing. -/
structure Graft where
  state : PairState := .unpaired
  role : Role := .none
  partner : Nat := 0
  port : Nat := 0
  witness : Nat := 511
  epoch : W16 := 0
  asked : Option (Nat × Nat × Nat) := none
  request : Option (Nat × Nat × Bool) := none
  forming : Bool := false
  leaseUntil : Nat := 0
  lastRenewal : Nat := 0
  lastHeartbeatSent : Nat := 0
  lastHeartbeat : Nat := 0
  requested : Bool := false
  nextSeq : Nat := 0
  appliedSeq : Nat := 0
  waits : Tab MirrorWait := []
  acked : Tab Nat := []
  draining : Bool := false
  witnessed : List WitnessRec := []
  unmirrored : W32 := 0
  mirrorRounds : List Nat := []
  deferred : List (Nat × ReqPurpose) := []
deriving DecidableEq, Repr

end Sys2Proof.Machine
end

