-- ==== Sys2Proof/Machine/LinkCode.lean ====
section
/-!
DEFINITION. What a port puts on its two lanes (R527 to R530, R594): the bytes of a link frame, encrypted where the link is, the 64B/66B
blocks that carry them, the FEC trailer after every 19 blocks with its BCH parity and what a receiver's decoder makes of errors, and the
scrambler of each lane. [log 145 DEDUCED, 146 PRESUMED]
-/

namespace Sys2Proof.Machine
open Sys2Proof

/-! ### The bytes of a frame (R530, R572) -/

/-- Table 17.3. -/
def pktCode : PktType → Nat
  | .write => 0x01
  | .readReq => 0x02
  | .readResp => 0x03
  | .add => 0x04
  | .signal => 0x05
  | .ack => 0x06
  | .nak => 0x07
  | .round => 0x08
  | .probe => 0x09
  | .keepalive => 0x0A
  | .discover => 0x0B
  | .linkState => 0x0C

/-- The 24 bytes of a fabric header (Table 17.2). An ACK or a NAK carries its status above the PSN that `offset` acknowledges. -/
def headerBytes (h : FabHeader) : Bytes :=
  let answer := h.type == .ack || h.type == .nak
  leBytes 4 ((match h.via with
      | some v => 2 ^ 31 + v % 64 * 2 ^ 25
      | none => 0) + h.dst % 512 * 2 ^ 16 + h.level % 4 * 2 ^ 14 + h.vc % 4 * 2 ^ 12 + b2n h.last * 2 ^ 11 + pktCode h.type) ++
    leBytes 4 (h.op % 16 * 2 ^ 28 + h.retry % 16 * 2 ^ 24 + h.window % 256 * 2 ^ 16 + b2n h.cold * 2 ^ 15 + h.srcPart % 64 * 2 ^ 9 + h.src % 512) ++
    leBytes 4 h.psn ++ leBytes 4 h.expiry ++ leBytes 8 (if answer then h.offset % 2 ^ 32 + h.status % 2 ^ 16 * 2 ^ 32 else h.offset)

/-- The number that stands for a TIME message's kind, and what it carries. -/
def TimeMsg.fields : TimeMsg → List Nat
  | .sync p t => [0, p, t]
  | .announce p m r g h => [1, p, m, r, g.toNat, h]
  | .candidacy p r f t => [2, p, r, f, t]

/-- The bytes a payload that no rule lays out takes here, in whole words. [log 145 DEDUCED] -/
def looseBytes (b : Bytes) : Bytes := fit 24 b

/-- The bytes of a PAUSE, UNPAUSE, TIME or PARAM packet, which has no fabric header. [log 145 DEDUCED] -/
def linkBytes (l : List Nat) : Bytes := fit 48 (Config.controlBytes l)

/-- A frame's packet in the clear: what authenticates unencrypted, and what is encrypted (R572, R594). The payload of a message is free.
[log 145 DEDUCED] -/
def FabOut.packetParts : FabOut → Bytes × Bytes
  | .packet _ h d => (headerBytes h, d ++ zeros (alignUp d.length 8 - d.length))
  | .flood _ h d => (headerBytes h, looseBytes (Config.recordBytes d))
  | .message _ h m => (headerBytes h, looseBytes (Config.messageBytes m))
  | .graft h m => (headerBytes h, looseBytes (Config.messageBytes m))
  | .mirror h n e i => (headerBytes h, looseBytes (Config.mirrorBytes n e i))
  | .time _ m => ([], linkBytes (3 :: m.fields))
  | .pause _ => ([], linkBytes [0])
  | .unpause _ => ([], linkBytes [2])
  | .param n u a x => ([], linkBytes (4 :: n :: a.toNat :: (u ++ x).map (·.toNat)))
  | .fault _ => ([], [])
  | .error _ => ([], [])
  | .trailer _ _ _ => ([], [])

/-- The frame type of a link header: 0 DATA, 1 PAUSE, 2 UNPAUSE, 3 TIME, 4 PARAM (R530). -/
def FabOut.frameType : FabOut → Nat
  | .pause _ => 1
  | .unpause _ => 2
  | .time _ _ => 3
  | .param _ _ _ _ => 4
  | _ => 0

/-- A DATA frame: one that takes credit (R532). -/
def FabOut.isData : FabOut → Bool
  | .packet _ _ _ => true
  | .flood _ _ _ => true
  | .message _ _ _ => true
  | .graft _ _ => true
  | .mirror _ _ _ _ => true
  | _ => false

/-- The virtual channel of a DATA frame (R571); link frames, which wait for no channel, have the number 4. -/
def FabOut.channel : FabOut → Nat
  | .packet _ h _ => h.vc % 4
  | .flood _ h _ => h.vc % 4
  | .message _ h _ => h.vc % 4
  | .graft h _ => h.vc % 4
  | .mirror h _ _ _ => h.vc % 4
  | _ => 4

/-- PAUSE and UNPAUSE, which the engine itself sends for a calibration (R541). -/
def FabOut.isPause : FabOut → Bool
  | .pause _ => true
  | .unpause _ => true
  | _ => false

/-- The LEVEL of what a DATA frame carries (R570). -/
def FabOut.level : FabOut → Nat
  | .packet _ h _ => h.level
  | .flood _ h _ => h.level
  | .message _ h _ => h.level
  | .graft h _ => h.level
  | .mirror h _ _ _ => h.level
  | _ => 0

/-- Bytes of a frame in the clear, link header and trailer included (R530). -/
def FabOut.frameBytes : FabOut → Nat
  | .packet _ _ d => 40 + alignUp d.length 8
  | _ => 64

/-- The credit a frame takes, in units of 64 bytes of what is received: its tag counts (R532, R594). [log 65 DEDUCED] -/
def FabOut.units (o : FabOut) (encrypted : Bool) : Nat := ceilDiv (o.frameBytes + if encrypted then 8 else 0) 64

/-- A packet encrypted under a direction's key: AES-256-GCM with the header as AAD, the extended LSEQ as IV, and the first 8 bytes of the
tag after the payload (R594). -/
def sealPacket (key : Bytes) (ext : Nat) (aad plain : Bytes) : Bytes :=
  let iv := leBytes 8 ext ++ zeros 4
  let ct := gcmCrypt key iv plain
  aad ++ ct ++ (gcmTag key iv aad ct).take 8

/-- The bytes of a frame on the link. -/
def Port.frameOnLink (p : Port) (f : Frame) : Bytes :=
  let (aad, plain) := f.what.packetParts
  let pkt := match p.txKey with
    | some k => sealPacket k f.ext aad plain
    | none => aad ++ plain
  let head := leBytes 2 f.lseq.toNat ++ [BitVec.ofNat 8 (f.what.frameType * 16 + f.what.channel % 4), BitVec.ofNat 8 (pkt.length / 8)] ++ zeros 4
  head ++ pkt ++ leBytes 4 (crc32 (head ++ pkt)).toNat ++ zeros 4

/-! ### Lanes: scrambler, FEC parity, blocks (R527 to R529) -/

/-- One step of the self-synchronising scrambler 1 + x^39 + x^58: `st` is its 58 bits, the newest lowest, and the bits sent so far. -/
def scrambleStep (x : Nat) (st : Nat × Nat) (i : Nat) : Nat × Nat :=
  let b := (b2n (x.testBit i) + b2n (st.1.testBit 38) + b2n (st.1.testBit 57)) % 2
  ((2 * st.1 + b) % 2 ^ 58, st.2 + b * 2 ^ i)

/-- The low `n` bits of `x` scrambled, bit 0 first, and the scrambler after them. -/
def scramble (sc x n : Nat) : Nat × Nat := (List.range n).foldl (scrambleStep x) (sc, 0)

/-- The generator m₁(x)·m₃(x) of the BCH code without its leading term, m₁ = x^11 + x^2 + 1 and m₃ = x^11 + x^8 + x^5 + x^2 + 1 (R529). -/
def fecGenerator : Nat := 0x0905B1

/-- Divide on by the generator: one more bit of the code word, highest power first. -/
def fecStep (x r i : Nat) : Nat :=
  let top := r.testBit 21 != x.testBit i
  2 * r % 2 ^ 22 ^^^ (if top then fecGenerator else 0)

/-- The remainder after the low `n` bits of `x`, bit 0 first. -/
def fecBits (r x n : Nat) : Nat := (List.range n).foldl (fecStep x) r

/-- The 22 parity bits as they stand in PARITY: the first one sent, of the highest power, lowest. -/
def fecParity (r : Nat) : Nat := (List.range 22).foldl (fun n i => n + b2n (r.testBit (21 - i)) * 2 ^ i) 0

/-- Sync headers as their two bits go out, the first one lowest: 01 for data, 10 for control. -/
def dataSync : Nat := 2
def controlSync : Nat := 1

/-- The 66-bit blocks of a frame in the clear of the scrambler: sync header and payload. A start block carries the first seven bytes, a
terminate block of type 0x99 the last. -/
def frameBlocks (b : Bytes) : List (Nat × Nat) :=
  (controlSync, 0x78 + leNat (b.take 7) * 2 ^ 8) ::
    ((pieces 8 ((b.drop 7).take (b.length - 8))).map (fun w => (dataSync, leNat w))) ++
    [(controlSync, 0x99 + leNat (b.drop (b.length - 1)) * 2 ^ 8)]

/-- The lane that the next block travels on: block `j` on lane `j` mod 2 (R527). -/
def Line.lane (l : Line) : Nat := l.block % 2

def Line.scrambler (l : Line) : Nat := if l.lane = 0 then l.lane0.toNat else l.lane1.toNat

def Line.setScrambler (l : Line) (sc : Nat) : Line :=
  if l.lane = 0 then { l with lane0 := BitVec.ofNat 58 sc } else { l with lane1 := BitVec.ofNat 58 sc }

/-- Put a finished block on its lane. -/
def Line.put (l : Line) (b : BitVec 66) : Line :=
  let l := if l.lane = 0 then { l with sent0 := l.sent0 ++ [b] } else { l with sent1 := l.sent1 ++ [b] }
  { l with block := l.block + 1 }

/-- A block of frames and idles: its payload is scrambled, and all of it enters the parity of its FEC block. -/
def Line.carry (l : Line) (hdr x : Nat) : Line :=
  let (sc, y) := scramble l.scrambler x 64
  let r := fecBits (fecBits l.parity.toNat hdr 2) y 64
  ({ l.setScrambler sc with parity := BitVec.ofNat 22 r }).put (BitVec.ofNat 66 (hdr + 4 * y))

/-- The credit that the next trailer returns, of the lowest channel that has some: the channel, and units of 64 bytes (R532, Table 16.2).
[log 156 DESIGN CHOICE] -/
def Port.giveBack (p : Port) : Nat × Nat :=
  match p.owed with
  | [] => (0, 0)
  | (c, n) :: _ => (c % 4, min 127 n)

/-- The low 42 bits of a port's next trailer (Table 16.2): the LSEQ received last in order, the NAK that is due, the credit to give back and
the FEC block count. -/
def Port.trailerBits (p : Port) : Nat :=
  (p.expected - 1).toNat * 2 ^ 26 + b2n p.line.nak * 2 ^ 25 + p.giveBack.1 * 2 ^ 23 + p.giveBack.2 * 2 ^ 16 + p.line.block / 20 % 256 * 2 ^ 8 + 0xB4

/-- The FEC trailer: PARITY goes out unscrambled, and the next FEC block starts. -/
def Line.trailer (l : Line) (low : Nat) : Line :=
  let (sc, y) := scramble l.scrambler low 42
  let r := fecBits (fecBits l.parity.toNat controlSync 2) y 42
  ({ l.setScrambler sc with parity := 0, nak := false }).put (BitVec.ofNat 66 (controlSync + 4 * (y + fecParity r * 2 ^ 42)))

/-- A port sends its trailer: the credit in it is given back. -/
def Port.sendTrailer (p : Port) : Port :=
  { p with line := p.line.trailer p.trailerBits, owed := Tab.set p.owed 0 p.giveBack.1 (Tab.get p.owed 0 p.giveBack.1 - p.giveBack.2) }

/-- Send a block, and the trailer where it is due (R528). -/
def Port.block1 (p : Port) (b : Nat × Nat) : Port :=
  let p := { p with line := p.line.carry b.1 b.2 }
  if p.line.block % 20 = 19 then p.sendTrailer else p

/-- Send blocks: `sent0` and `sent1` are then these blocks, and the trailers among them, on each lane. -/
def Port.sendBlocks (p : Port) (bs : List (Nat × Nat)) : Port := bs.foldl Port.block1 { p with line := { p.line with sent0 := [], sent1 := [] } }

/-- A frame goes out on a port. -/
def Port.transmit (p : Port) (f : Frame) : Port := p.sendBlocks (frameBlocks (p.frameOnLink f))

/-- The block that cuts a frame short: block type 0x1E with eight error codes 0x1E (R552). [log 146 PRESUMED] -/
def errorBlock : Nat × Nat := (controlSync, 0x1E + (List.range 8).foldl (fun n k => n + 0x1E * 2 ^ (8 + 7 * k)) 0)

/-! ### The decoder (R529) -/

/-- What the decoder makes of an FEC block. -/
inductive FecVerdict where
  | clean | corrected | uncorrectable
deriving DecidableEq, Repr

/-- The syndrome of a single wrong bit at each place of the line, in line order: the last bit sent stands for x^22, each one before it for
x times as much. -/
def fecSingles : List Nat := (List.range 1319).foldl (fun l _ => fecStep 0 (l.headD 0) 0 :: l) [fecGenerator]

/-- At most two wrong bits are corrected; an error that turns one code word into another is not seen; more are uncorrectable where the
decoder detects them. The verdict depends on the wrong bits alone, because the code is linear. -/
def fecVerdict (line : LineErrors) : FecVerdict :=
  if line = 0 then .clean
  else
    let z := fecBits 0 line.toNat 1320
    if z = 0 then .clean
    else if fecSingles.any (fun a => a == z || fecSingles.contains (a ^^^ z)) then .corrected
    else .uncorrectable

/-- An FEC block was received: it counts, and the last 64 are remembered (R529, R551). -/
def Port.fecSeen (p : Port) (line : LineErrors) : Port :=
  match fecVerdict line with
  | .clean => { p with fecBad := p.fecBad <<< 1 }
  | .corrected => { p with fecBad := p.fecBad <<< 1, fecCorrected := satAdd64 p.fecCorrected 1 }
  | .uncorrectable => { p with fecBad := p.fecBad <<< 1 ||| 1, fecUncorrectable := satAdd64 p.fecUncorrectable 1 }

/-- Uncorrectable blocks among the last 64. -/
def Port.burst (p : Port) : Nat := ((List.range 64).filter (fun k => p.fecBad.getLsbD k)).length

/-! ### Credit (R532) and the next frame (R403, R571) -/

/-- The 2 KiB of a channel's receive buffer that a LEVEL has to itself, and as much that all share, in units of 64 bytes (R570). -/
def levelUnits : Nat := 32

/-- The units that frames of one LEVEL hold. -/
def unitsAt (l : Nat) (q : List (Nat × Nat)) : Nat := (q.filter (fun y => y.1 == l)).foldl (fun n y => n + y.2) 0

/-- The units of the shared part that some frames need (R570). -/
def sharedUnits (q : List (Nat × Nat)) : Nat := (List.range 4).foldl (fun n l => n + (unitsAt l q - levelUnits)) 0

/-- The port holds the credit that a DATA frame takes: of its own LEVEL's reservation or of the shared part (R532, R570). Other frames take
none. -/
def Port.hasCredit (p : Port) (o : FabOut) : Bool :=
  !o.isData || decide (sharedUnits (Tab.get p.spent [] o.channel ++ [(o.level % 4, o.units p.encrypted)]) ≤ levelUnits)

def Port.spend (p : Port) (o : FabOut) : Port :=
  if o.isData then
    { p with spent := Tab.set p.spent [] o.channel (Tab.get p.spent [] o.channel ++ [(o.level % 4, o.units p.encrypted)]) }
  else p

/-- Credit comes back in the order it was taken. [log 65 DEDUCED] -/
def giveUnits : Nat → List (Nat × Nat) → List (Nat × Nat)
  | _, [] => []
  | n, (l, u) :: t => if n < u then (l, u - n) :: t else giveUnits (n - u) t

/-- A trailer of the far end returns credit. -/
def Port.regain (p : Port) (vc units : Nat) : Port := { p with spent := Tab.set p.spent [] vc (giveUnits units (Tab.get p.spent [] vc)) }

/-- A frame is received whole: its LSEQ is the last in order, and the buffer it took is to be given back (R531, R532). -/
def Port.took (p : Port) (o : FabOut) : Port :=
  let p := { p with expected := p.expected + 1 }
  if o.isData then { p with owed := Tab.set p.owed 0 o.channel (Tab.get p.owed 0 o.channel + o.units p.encrypted) } else p

/-- The first frame of some channels that may go, no frame of its own channel waiting before it; and what then waits. -/
def pickFrom (may ofClass : FabOut → Bool) : List Nat → List FabOut → Option (FabOut × List FabOut)
  | _, [] => none
  | shut, o :: t =>
    if ofClass o && !shut.contains o.channel && may o then some (o, t)
    else (pickFrom may ofClass (o.channel :: shut) t).map (fun y => (y.1, o :: y.2))

/-- The frame a port sends next: link frames first, then channel 3, then the oldest of the others (R403, R571). -/
def pickFrame (may : FabOut → Bool) (q : List FabOut) : Option (FabOut × List FabOut) :=
  (pickFrom may (fun o => o.channel == 4) [] q).orElse (fun _ =>
    (pickFrom may (fun o => o.channel == 3) [] q).orElse (fun _ => pickFrom may (fun _ => true) [] q))

end Sys2Proof.Machine
end

