-- ==== Sys2Proof/Machine/StAttest.lean ====
section
/-!
DEFINITION. State of weight binding and of the Digest and AEAD engines (ch. 21).
-/

namespace Sys2Proof.Machine
open Sys2Proof

/-- A binding record (R731): model, generation, blob identity and digest, when it was bound, and its tag. -/
structure Binding where
  model : Nat
  generation : W16
  blobId : Bytes
  blobDigest : Bytes
  time : Nat
  tag : Bytes := []
deriving DecidableEq, Repr

/-- Binding records per partition; the holders of the contexts, keyed 0 to 15 (Digest) and 16 to 31 (AEAD); commands
waiting for a context of each engine, oldest first; the context each engine runs. -/
structure AttestUnit where
  bindings : Tab (List Binding) := []
  contexts : Tab (Source × Nat) := []
  waitDigest : List (Source × Nat) := []
  waitAead : List (Source × Nat) := []
  runDigest : Nat := 0
  runAead : Nat := 16
deriving DecidableEq, Repr

end Sys2Proof.Machine
end

