-- ==== Sys2Proof/Machine/StHost.lean ====
section
/-!
DEFINITION. State of the host interface (ch. 4). Host memory lies outside the part: what the part sends to the host is
recorded, in order, in `out`, and what the host answers arrives as operands of commands.
-/

namespace Sys2Proof.Machine
open Sys2Proof

/-- The error messages of PCIe. -/
inductive ErrMsg where
  | correctable | nonFatal | fatal
deriving DecidableEq, Repr

/-- What the part sends to the host over PCIe, in order. [log 130 DESIGN CHOICE] -/
inductive HostOut where
  /-- a write of host memory, split as R138 gives; `relaxed` is Relaxed Ordering -/
  | write (f : Fn) (addr : Nat) (data : Bytes) (relaxed : Bool)
  /-- a read request of host memory -/
  | readReq (f : Fn) (tag : Nat) (addr : Nat) (len : Nat)
  /-- one MSI-X message -/
  | msix (f : Fn) (vector : Nat)
  /-- the data a BAR or configuration read returned, and whether the completion is poisoned -/
  | readReply (f : Fn) (value : Nat) (poisoned : Bool)
  /-- a configuration write completed -/
  | cfgDone (f : Fn)
  /-- Request Retry Status (R151) -/
  | retryStatus (f : Fn)
  /-- an error message (R130, R149) -/
  | errMsg (f : Fn) (m : ErrMsg)
deriving DecidableEq, Repr

/-- What a host read is for: HOST_PULL data, a bundle's body, a ring slot, or the record of a TAKE_RECORD; `first` is the first slot of a 128-byte packet whose
second one is read. -/
inductive ReadPurpose where
  | pull (src : Source) (id : Nat) (offset : Nat)
  | bundle (entry : Nat) (desc : Nat) (offset : Nat)
  | slot (q : QueueId) (first : Bytes)
  | record (t : TaskId) (q : Fin 16)
deriving DecidableEq, Repr

/-- A host read (R138, R145), with its source's tag (R65). `abandoned` reads discard their data without an AER error (R140, R250); an `expired` one has timed out
and is kept only to know a late completion of it; `beforeFlr` marks those an FLR of their function came after, whose completions are
discarded in silence however late they come (R140). -/
structure HostRead where
  fn : Fn
  addr : Nat
  len : Nat
  issued : Nat
  purpose : ReadPurpose
  tag : SourceTag := {}
  abandoned : Bool := false
  expired : Bool := false
  beforeFlr : Bool := false
deriving DecidableEq, Repr

/-- One MSI-X vector: its table entry, mask and pending bit (R128, R129). [log 10 PRESUMED] -/
structure MsixVector where
  addr : W64 := 0
  data : W32 := 0
  masked : Bool := true
  pending : Bool := false
deriving DecidableEq, Repr

/-- A function's AER registers: the errors logged, in order, and its two status registers, whose bits are those of the PCI Express Base
Specification (Table 4.9); beside them the four error bits of its Device Status. [log 111 PRESUMED] -/
structure AerLog where
  errors : List AerError := []
  uncorrectable : W32 := 0
  correctable : W32 := 0
  detected : BitVec 4 := 0
deriving DecidableEq, Repr

/-- Registers of the PCI Express Base Specification that hold what the host wrote: the AER masks and severity, Link Control, Link Control 2, the
rest of SR-IOV Control beside VF Enable, and System Page Size, with that specification's reset values. [log 111 PRESUMED] -/
structure PcieRegs where
  uncMask : W32 := 0x00400000
  corMask : W32 := 0x00002000
  severity : W32 := 0x00462030
  linkControl : W16 := 0
  linkControl2 : W16 := 6
  sriovControl : W16 := 0
  pageSize : W32 := 1
deriving DecidableEq, Repr

/-- The host interface. MSI-X vectors are keyed 256 × function number + vector; functions are numbered 0 for the PF and
p + 1 for the VF of partition p; reads by 1024 × function number + tag (R118). `bars` holds the base addresses the host wrote to BAR n of the PF at key n, and to VF BAR n of the SR-IOV
capability at 8 + n. [log 10 PRESUMED] -/
structure Hif where
  configReady : Bool := false
  linkUp : Bool := false
  linkRate : Nat := 0
  linkWidth : Nat := 0
  linkFlit : Bool := false
  recovering : Bool := false
  d3hot : Bool := false
  vfEnable : Bool := false
  numVfs : Nat := 0
  bar2Log2 : Nat := 38
  windowBase : Nat := 0
  closedCount : W64 := 0
  cplTimeout : BitVec 4 := 0
  maxPayload : Nat := 128
  maxReadReq : Nat := 512
  relaxedOrdering : Bool := true
  errEnables : BitVec 4 := 0
  extTag : Bool := true
  tag10 : Bool := false
  bars : Tab W64 := []
  intStatus : W32 := 0
  intQueue : BitVec 16 := 0
  vfIntStatus : Tab W32 := []
  vfIntRounds : Tab (BitVec 16) := []
  msix : Tab MsixVector := []
  msixFnMask : Tab Bool := []
  msixEnable : Tab Bool := []
  aer : Tab AerLog := []
  reads : Tab HostRead := []
  pcie : PcieRegs := {}
  flr : Tab Nat := []
  out : List HostOut := []
  waiting : List HostOut := []
deriving DecidableEq, Repr

end Sys2Proof.Machine
end

