-- ==== Sys2Proof/Machine/StIsland.lean ====
section
/-!
DEFINITION. State of the islands and their crossings (ch. 2) and of the Kelri views (ch. 3). Every field's default
is its value in `State.reset`, the part right after a cold reset with no reset signal released.
-/

namespace Sys2Proof.Machine
open Sys2Proof

/-- Table 2.5. -/
inductive IslandState where
  | run
  | reset
  | gated
  | waking
  | resetFailed
deriving DecidableEq, Repr

/-- One island: state and epoch (R66, Table 2.5), its two counters (R95), and the instant from which the 1 ms of R91 runs
(`none` while a reset is held). What waits in its crossings under R76 is the commands that wait for it. [log 7 DESIGN CHOICE, 93 DESIGN CHOICE, 141 DESIGN CHOICE] -/
structure IslandRec where
  state : IslandState := .reset
  epoch : W16 := 1
  stale : W64 := 0
  drop : W64 := 0
  releasedAt : Option Nat := none
deriving DecidableEq, Repr

/-- The 181 islands by ID, the SHED-housed epoch file included. `stuck` is the environment's: the IDs of TIME, MGMT and SHED where they
do not reach RUN at the next AUX boot (R91). [log 7 DESIGN CHOICE, 103 DEDUCED] -/
structure Islands where
  tab : Tab IslandRec := []
  stuck : List Nat := []
deriving DecidableEq, Repr

/-- A Kelri view's own changing state (R110, R113, R115, R116); `fw` is the build under which it last became VALID (R826), `debug` whether
the part was in DEBUG then, which its capability bits show. [log 134 DEDUCED, 135 DEDUCED] -/
structure KelriView where
  valid : Bool := false
  generation : W32 := 0
  coldFrame : Bool := false
  fw : W32 := 0
  rebuildAt : Option Nat := none
  debug : Bool := false
deriving DecidableEq, Repr

/-- The PF view and the partition views, keyed by partition. -/
structure Kelri where
  pf : KelriView := {}
  vf : Tab KelriView := []
deriving DecidableEq, Repr

end Sys2Proof.Machine
end

