-- ==== Sys2Proof/Machine/StMgmt.lean ====
section
/-!
DEFINITION. State of the Drinoner management port (ch. 23).
-/

namespace Sys2Proof.Machine
open Sys2Proof

/-- An MCTP message in reassembly (R782). [log 121 DEDUCED] -/
structure Reassembly where
  srcEid : Byte
  tag : Nat
  data : Bytes
  lastAt : Nat
deriving DecidableEq, Repr

/-- Where a kept COMMAND stands (R790): executing in FE, or done with its record. -/
inductive TicketState where
  | executing
  | done (record : Bytes) (at_ : Nat)
deriving DecidableEq, Repr

/-- A COMMAND in flight or kept. -/
structure Ticket where
  ticket : Byte
  state : TicketState
deriving DecidableEq, Repr

/-- What the part sends on the management bus. [log 130 DESIGN CHOICE] -/
inductive MgmtOut where
  /-- a vendor response: ticket, subtype, status, body -/
  | vendor (ticket : Byte) (subtype : Byte) (status : Byte) (body : Bytes)
  /-- an MCTP control response: command, completion code, body -/
  | control (cmd : Byte) (code : Byte) (body : Bytes)
  /-- a PLDM response: type, command, completion code, body -/
  | pldm (type cmd code : Byte) (body : Bytes)
  /-- a PlatformEventMessage: sensor and event value -/
  | event (sensor : Nat) (value : Int)
  /-- a CCC answer -/
  | ccc (value : Nat)
  /-- an in-band interrupt with its mandatory byte -/
  | ibi (data : Byte)
  | hotJoin
  /-- the static address returned to the Alert Response Address -/
  | ara (addr : Nat)
  /-- a register read by the port -/
  | regs (value : Nat)
  /-- the port does not answer -/
  | nak
deriving DecidableEq, Repr

/-- A PlatformEventMessage not yet acknowledged (R787). -/
structure PendingEvent where
  sensor : Nat
  value : Int
  resends : Nat
  sentAt : Nat
deriving DecidableEq, Repr

/-- A PLDM Type 5 update (R794): states of DSP0267's firmware device. -/
inductive UpdateState where
  | idle | learnComponents | readyXfer | download | verify | apply | activate
deriving DecidableEq, Repr

structure Update where
  state : UpdateState := .idle
  component : Nat := 0
  size : Nat := 0
  data : Bytes := []
  staged : List Nat := []
  lastRequest : Nat := 0
deriving DecidableEq, Repr

/-- The port. Sensors are keyed by the ID of Table 23.2; `wasI3c` marks a reset that met the port in I3C mode (R801). Unsent responses carry the time they became ready and the tries
made. [log 9 DESIGN CHOICE, 99 DEDUCED, 100 DEDUCED] -/
structure Mgmt where
  firmware : Bool := false
  strap : Nat := 0
  staticAddr : Nat := 0x40
  i3c : Bool := false
  wasI3c : Bool := false
  dynAddr : Nat := 0
  ibiEnabled : Bool := false
  mrl : Nat := 69
  mwl : Nat := 69
  eid : Byte := 0
  reassembly : List Reassembly := []
  tickets : Tab Ticket := []
  alert : Byte := 0
  alertEn : Byte := 0xFF
  discards : W32 := 0
  eventReceiver : Option Nat := none
  events : List PendingEvent := []
  sensors : Tab Int := []
  update : Update := {}
  mainResetUntil : Option Nat := none
  ibiAt : Option Nat := none
  responses : List (MgmtOut × Nat × Nat) := []
  activateAt : Option Nat := none
  out : List MgmtOut := []
deriving DecidableEq, Repr

end Sys2Proof.Machine
end

