-- ==== Sys2Proof/Machine/StPart.lean ====
section
/-!
DEFINITION. State of partitions and device memory (ch. 19).
-/

namespace Sys2Proof.Machine
open Sys2Proof

/-- Table 19.3, and BAD (R678). -/
inductive ChunkState where
  | free | tenant | device | releasing | bad
deriving DecidableEq, Repr

/-- Causes of a translation fault (Table 27.4). -/
inductive FaultCause where
  | notValid | leaf | rsvdBit | align | quota | closed | write | poisoned | badChunk
deriving DecidableEq, Repr

/-- The first translation fault held (R657). -/
structure PtFault where
  addr : Nat
  agent : Nat
  cause : FaultCause
deriving DecidableEq, Repr

/-- Policy registers (Table 19.6), held in SHED under a tag (R699). `tagOk` is false once the tag fails. -/
structure Policy where
  floor : Nat := 1000
  sigmaNum : Nat := 0
  sigmaDen : Nat := 1
  noiseRequired : Bool := false
  cipher : Nat := 0
  tagOk : Bool := true
deriving DecidableEq, Repr

/-- A partition that exists (R645, R646): chunk map (quota chunk i ↦ physical chunk) with chunk states, shares, slot,
mode, policy, page-table root and faults. `releaseHeld` lists TENANT chunks whose release waits for a translation. [log 45 DESIGN CHOICE] -/
structure Partition where
  coldFrame : Bool := false
  chunkMap : List Nat := []
  states : Tab ChunkState := []
  plotShare : Nat := 0
  sowerShare : Nat := 0
  bedShare : Nat := 0
  slot : Nat := 0
  policy : Policy := {}
  ptRoot : W64 := 0
  tlbBusy : Option Nat := none
  fault : Option PtFault := none
  faultOverflow : Nat := 0
  closedToCp : Bool := false
  chunkSelVf : Nat := 0
  profPlot : W64 := 0
  profSower : W64 := 0
  profBed : W64 := 0
  profDma : W64 := 0
deriving DecidableEq, Repr

/-- Partitions and physical memory. `mem` is device memory in its canonical form: addresses strictly rising, no zero
byte listed (an unlisted byte reads 0, as R815 step 5 leaves all of device memory). Poisoned and uncorrectable lines
are listed by 64-byte line number. `weak` lists physical chunks whose cells fail a read-back, `uncorrectable` lines whose
stored bits exceed correction, `correctable` lines whose stored bits are corrected at each read: these are conditions of the
memory stacks, which no command but a write or a scrub mends.
`mapUce` lists the partitions whose chunk map or chunk state table holds an uncorrectable error, a condition of its SRAM. [log 28 DESIGN CHOICE] -/
structure Partitions where
  parts : Tab Partition := []
  mem : List Host.Cell := []
  poisonLines : List Nat := []
  uncorrectable : List Nat := []
  correctable : List Nat := []
  cpChunks : Nat := 512
  badChunks : List Nat := []
  weak : List Nat := []
  mapUce : List Nat := []
  retirePending : List Nat := []
  memUce : Tab Nat := []
  patrolLine : Nat := 0
  sharesServed : Nat := 0
  bedTime : Tab Nat := []
deriving DecidableEq, Repr

end Sys2Proof.Machine
end

