-- ==== Sys2Proof/Machine/StPlot.lean ====
section
/-!
DEFINITION. State of the Plots (ch. 13), the Work list, the model table and the Routing unit (ch. 14).
-/

namespace Sys2Proof.Machine
open Sys2Proof

/-- Number formats (Table 13.2). -/
inductive Format where
  | int4 | int8 | fp8e4m3 | fp8e5m2 | bf16 | fp16 | gf16 | fp32
deriving DecidableEq, Repr

/-- Accumulator modes (Table 5.11, Table 13.4). -/
inductive AccMode where
  | exact | fp32 | acc16
deriving DecidableEq, Repr

/-- MATMUL output formats (Table 13.7). -/
inductive OutFormat where
  | int32 | fp32 | bf16 | fp16 | res16 | exact128
deriving DecidableEq, Repr

/-- The tag of a Plot's shadow weight registers (R486). -/
structure ShadowTag where
  part : Fin 64
  model : Nat
  generation : W16
  colBlock : Nat
deriving DecidableEq, Repr

/-- One Plot: the descriptor it has claimed and what its island holds of the tile (accumulators in EXACT lsb units or as
format encodings; for the other commands the encodings to be written), the status flags and clamps so far and the bad data
met; its shadow tag; the weight rows its shadow and its active registers hold, none where they are empty (R439, R470); the registers of
CP_PLOT_; its allocation and the round it is leased to. `idleSince` is when it last held an allocation or came to RUN (R831). `opHeld` is
the operating point it keeps to the end of its tile where the part's has changed (R60). [log 108 DEDUCED] -/
structure Plot where
  claimed : Option Nat := none
  acc : List Int := []
  flags : Nat := 0
  clamped : Nat := 0
  bad : Option Status := none
  shadow : Option ShadowTag := none
  shadowRegs : List (List Nat) := []
  activeRegs : List (List Nat) := []
  disabled : Bool := false
  uncorrectable : Nat := 0
  stall : W64 := 0
  eccCorrected : W32 := 0
  alloc : Option (Fin 64) := none
  round : Option Nat := none
  idleSince : Nat := 0
  opHeld : Option Nat := none
deriving DecidableEq, Repr

/-- What a job of tiles is (Table 14.2). -/
inductive JobKind where
  | matmul | reduceIdx | eltwise
  | coded (round : Nat)
deriving DecidableEq, Repr

/-- A command cut into tiles (R475, R476): its source and number, partition, parameters as fetched, the tiles it has and
those written as descriptors, and results so far; `limit` is the Plot limit it gives, 0 for the partition's share (R480), `drained` the tiles
whose output stands in C (R464). A coded decode carries its groups and the outputs of finished tiles by tile index. -/
structure Job where
  kind : JobKind
  src : Source
  cmd : Nat
  part : Fin 64
  params : List W32
  serial : Nat
  realtime : Bool
  limit : Nat
  tiles : Nat
  written : Nat := 0
  statusOr : Nat := 0
  flagged : Nat := 0
  clamped : Nat := 0
  failed : Option Status := none
  withdrawn : Bool := false
  drained : List Nat := []
  groups : List Nat := []
  outs : Tab (List Int) := []
deriving DecidableEq, Repr

/-- STATE of a tile descriptor (Table 14.3). -/
inductive TileState where
  | ready | claimed | draining
deriving DecidableEq, Repr

/-- A tile descriptor in use (Table 14.3). -/
structure Tile where
  job : Nat
  tile : Nat
  state : TileState := .ready
  returned : Bool := false
  claimer : Option (Fin 128) := none
  claimEpoch : W16 := 0
  row0 : Nat := 0
  col0 : Nat := 0
  rows : Nat := 0
  cols : Nat := 0
  status : Nat := 0
deriving DecidableEq, Repr

/-- A resident model (R485): dimensions, format and the quota chunks that hold its store. -/
structure Model where
  k : Nat
  n : Nat
  format : Format
  chunks : List Nat
  owner : Fin 64
deriving DecidableEq, Repr

/-- A layer's double-buffered placement table (R489): the active bank, each bank's expert count (0 for none), and the
quota chunk that holds both, bank b from its byte 65,536 b. [log 83 DEDUCED] -/
structure LayerTable where
  active : Bool := false
  count0 : Nat := 0
  count1 : Nat := 0
  chunk : Nat := 0
deriving DecidableEq, Repr

/-- Plots, Work list, models, placement tables. Units 0 to 63 map to their partition, and those lent to task memory to
the task slot; `serial` counts each partition's commands. `modelRegion` holds base and count. Layers are keyed
4,096p + layer. `lastClaimable` is when a partition last had a claimable tile (R662). -/
structure PlotUnit where
  plots : Tab Plot := []
  units : Tab Nat := []
  taskUnits : Tab Nat := []
  jobs : Tab Job := []
  nextJob : Nat := 0
  tiles : Tab Tile := []
  lastClaimable : Tab Nat := []
  models : Tab Model := []
  modelGen : Tab W16 := []
  modelRegion : Tab (Nat × Nat) := []
  layers : Tab LayerTable := []
deriving DecidableEq, Repr

end Sys2Proof.Machine
end

