-- ==== Sys2Proof/Machine/StPower.lean ====
section
/-!
DEFINITION. State of power, reset, boot, flash and JTAG (ch. 24, ch. 28).
-/

namespace Sys2Proof.Machine
open Sys2Proof

/-- STANDBY of a flash directory (R818). -/
inductive Standby where
  | empty | staged | fallback | invalid
deriving DecidableEq, Repr

/-- A directory's fields for one image type. -/
structure DirEntry where
  active : Bool := false
  standby : Standby := .empty
  attempts : Nat := 0
deriving DecidableEq, Repr

/-- One directory copy (R818). [log 6 DESIGN CHOICE] -/
structure DirCopy where
  valid : Bool := false
  sequence : W32 := 0
  seqEntry : DirEntry := {}
  mgmtEntry : DirEntry := {}
deriving DecidableEq, Repr

/-- The image in force of one type: its header and body digest, as R826 and R738 report them. -/
structure FwInForce where
  version : W32 := 0
  svn : Nat := 0
  digest : Bytes := []
  cause : Nat := 0
deriving DecidableEq, Repr

/-- Public JTAG instructions (Table 28.10). -/
inductive JtagInstr where
  | extest | idcode | samplePreload | clamp | highz | bypass
deriving DecidableEq, Repr

/-- The TAP (R918, R919): the instruction in force, the boundary register, what the last shift returned, and whether
the lands follow the boundary register. -/
structure Tap where
  instr : JtagInstr := .idcode
  boundary : List Bool := []
  driven : Bool := false
  floating : Bool := false
  shifted : Nat := 0
deriving DecidableEq, Repr

/-- A FW_STAGE or Type 5 programming in progress, by image type. -/
inductive FwBusy where
  | none | stage | update
deriving DecidableEq, Repr

/-- Power and boot. Levels are those of the lands: `auxRst` and `perst` are true while the active-low land is low. Flash
images are keyed 2 × half + type (type 0 sequencer, 1 management). `fatalLog` is the log of the FATAL error that caused the
reset in force (R847); `arrOk` holds, per operating point, since when VDD_ARR has stayed at or above its minimum; `bufferBad` is a condition
of the image buffer, a parity error that its next reader meets (R844). [log 5 DESIGN CHOICE, 6 DESIGN CHOICE] -/
structure Power where
  pwrgdAux : Bool := true
  pwrgdMain : Bool := false
  auxRst : Bool := true
  perst : Bool := true
  dlDown : Bool := false
  mainHeld : Bool := true
  auxBooted : Bool := false
  noMgmtImage : Bool := false
  booting : Bool := false
  fatalLog : Option Nat := none
  thermTrip : Bool := false
  lasersOff : Bool := true
  dir0 : DirCopy := {}
  dir1 : DirCopy := {}
  flash : Tab Bytes := []
  boardBlock : Bytes := []
  minSvnSeq : Nat := 0
  minSvnMgmt : Nat := 0
  imageBuffer : Bytes := []
  bufferBad : Bool := false
  imageLoaded : Bytes := []
  seqFw : FwInForce := {}
  mgmtFw : FwInForce := {}
  busySeq : FwBusy := .none
  busyMgmt : FwBusy := .none
  opReq : Nat := 3
  thermalLimit : Nat := 4
  powerLimit : Nat := 4
  op : Nat := 0
  arrVreq : Nat := 0x294
  arrMeas : Nat := 0
  arrOk : Tab Nat := []
  cap : Nat := 380
  gateIdle : Nat := 100
  droop : W32 := 0
  halved : Bool := false
  stopped : Bool := false
  tj : Int := 0
  pkgPower : Nat := 0
  claimPause : Bool := false
  lastThermalLower : Nat := 0
  coolSince : Option Nat := none
  lastPowerLower : Nat := 0
  underSince : Option Nat := none
  tap : Tap := {}
deriving DecidableEq, Repr

end Sys2Proof.Machine
end

