-- ==== Sys2Proof/Machine/StRandom.lean ====
section
/-!
DEFINITION. State of the RNG island (ch. 22).
-/

namespace Sys2Proof.Machine
open Sys2Proof

/-- CP_RANDOM_CELL_STATUS.STATE. -/
inductive CellState where
  | startup | healthy | retry | disabled
deriving DecidableEq, Repr

/-- One noise cell (R748, R749, R771). -/
structure Cell where
  state : CellState := .startup
  failures : List Nat := []
  retryAt : Nat := 0
  rctFail : W32 := 0
  aptFail : W32 := 0
deriving DecidableEq, Repr

/-- A CTR_DRBG instance (R753, R754): working state and reseed counter. -/
structure Drbg where
  key : Bytes
  v : Bytes
  reseedCounter : Nat
deriving DecidableEq, Repr

/-- Who uses the sampler (R764). -/
inductive SamplerUser where
  | gate (slot : Nat)
  | fill (src : Source) (cmd : Nat)
deriving DecidableEq, Repr

/-- The RNG. Instances are keyed 0 SAMPLER, 1 DEVICE, 2 CONTROL, 3 + p for partition p. Random queues hold bytes, oldest
first. `pool` holds conditioned blocks, oldest first; `served` the users of
the sampler that have had their batch in the turn that runs. -/
structure RandomUnit where
  cells : Tab Cell := []
  pool : List Bytes := []
  drbgs : Tab Drbg := []
  queues : Tab Bytes := []
  underrun : List Nat := []
  personal : Tab Bytes := []
  serving : Bool := false
  cause : Nat := 0
  testsPassed : Bool := false
  served : List SamplerUser := []
deriving DecidableEq, Repr

end Sys2Proof.Machine
end

