-- ==== Sys2Proof/Machine/StReg.lean ====
section
/-!
DEFINITION. State that belongs to register access itself: latches (R8, R9), select registers (R874), the lease
selection and the Agree lanes' counters (Table 26.10).
-/

namespace Sys2Proof.Machine
open Sys2Proof

/-- Per requester (0 Drinoner port, 1 PF, 2 + p the VF of partition p): the RL latch of R9 and the fraction latch of
R880 and R889. -/
structure Latches where
  high : W32 := 0
  fraction : W16 := 0
deriving DecidableEq, Repr

/-- A 64-bit word of a BAR whose storage holds an uncorrectable error: the function's number, the BAR and the offset of the word (R147). -/
structure BadReg where
  fn : Nat
  bar : Nat
  word : Nat
deriving DecidableEq, Repr

/-- `bad` is the environment's: words hit by an uncorrectable error and not yet written again. [log 28 DESIGN CHOICE]
`partSel` is CP_PART_CHUNK_SEL of each partition page, whether or not the partition exists (Table 26.8). [log 45 DESIGN CHOICE] -/
structure RegUnit where
  latches : Tab Latches := []
  chunkSel : Nat := 0
  partSel : Tab Nat := []
  leaseClass : Nat := 0
  leaseIndex : Nat := 0
  wlSel : Nat := 0
  agrCounts : Tab W64 := []
  agrNext : Nat := 0
  bad : List BadReg := []
deriving DecidableEq, Repr

end Sys2Proof.Machine
end

