-- ==== Sys2Proof/Machine/StRound.lean ====
section
/-!
DEFINITION. State of rounds (ch. 1), the Riddle (ch. 7), Beds and Sowers (ch. 8, ch. 9), harvest and reveal (ch. 10) and
the Release gate (ch. 11). A CLOSED round is one the round table does not list. What the spec calls round-private memory
is held here, apart from device memory, because no address space maps it (R45); the chunks it takes are listed.
-/

namespace Sys2Proof.Machine
open Sys2Proof

/-- Table 1.2, without CLOSED, which is absence from the round table. -/
inductive RoundState where
  | opened | ingesting | harvested | revealing | unmasked | sealed | released
  | aborted (cause : Status)
deriving DecidableEq, Repr

/-- Table 5.9; the prime of code 4 stands in the constructor. -/
inductive Modulus where
  | m16 | m32 | m64 | p61
  | prime (p : Nat)
deriving DecidableEq, Repr

/-- The mask cipher (R299). -/
inductive Cipher where
  | chacha20 | aes256ctr
deriving DecidableEq, Repr

/-- Table 10.9. -/
inductive Latch where
  | unset | self | pair | done
deriving DecidableEq, Repr

/-- The policy fields ROUND_OPEN fixes (R19, Table 5.8). -/
structure RoundPolicy where
  fabric : Bool := false
  coded : Bool := false
  noiseRequired : Bool := false
  deadline : Nat := 0
  floor : Nat := 0
  sigmaNum : Nat := 0
  sigmaDen : Nat := 1
  shares : Nat := 0
  threshold : Nat := 0
  trellis : Nat := 0
  harvestGraceUs : Nat := 5000
  deviceGraceUs : Nat := 2000
  cipher : Cipher := .chacha20
deriving DecidableEq, Repr

/-- One segment: `swapped` is the cycle (in units of 2^-40 ns of fabric time) of the last swap of its active count and the count before
it (R289); length, active and allocated replica counts (R278, R279), pin (R283), hit counter (R280), contributor
count (R368), release mark (R377), and its replica arrays: each maps a strip to the residues of its elements (R270), a strip not
listed being all zero. -/
structure Segment where
  len : Nat
  r : Nat := 1
  a : Nat := 1
  pinned : Bool := false
  hits : Nat := 0
  contributors : Nat := 0
  marked : Bool := false
  swapped : Option (Nat × Nat) := none
  replicas : Tab (Tab (List Nat)) := []
deriving DecidableEq, Repr

/-- A committed bundle's contribution record (R254): its client, the segments it listed and, in a coded round, the coded
public key of its coded share block (R353). -/
structure Contribution where
  client : Nat
  segs : List Nat
  codedKey : Bytes
deriving DecidableEq, Repr

/-- Where a fetched descriptor stands. -/
inductive DescState where
  /-- fetched and stamped, not yet granted staging -/
  | held
  /-- staging: body bytes received, keyed by offset, and the offset from which reads are still to be issued -/
  | staging (got : List (Nat × Bytes)) (nextRead : Nat)
  /-- outcome decided (R257): status and failed test -/
  | decided (st : Status) (test : Nat)
deriving DecidableEq, Repr

/-- A fetched ingest descriptor (Table 7.3). -/
structure Desc where
  n : Nat
  stamp : Nat
  roundId : W32
  client : Nat
  bodyAddr : Nat
  bodyBytes : Nat
  segCount : Nat
  state : DescState
deriving DecidableEq, Repr

/-- A bound ingest ring (R239, R240): held translation of each 64 KiB page, ring address `base`, tail base B `base32`, settings, counts, and
the descriptors from the retire point on. `agent` issued INGEST_BIND. `additions` counts, for each committed bundle, the strip
items not yet written back (R255). `stagingUce` lists the positions whose staged data holds an uncorrectable error, a condition
of that memory; `shown` holds the eight counts as last written into the control block (R257). [log 28 DESIGN CHOICE] -/
structure Ring where
  pages : List Nat := []
  log2 : Nat := 12
  base : W64 := 0
  base32 : W64 := 0
  tailFence : Nat := 0
  doneFence : Nat := 0
  doneEn : Bool := false
  winLo : Nat := 0
  winLen : Nat := 0
  agent : Source := .mgmt 0
  offered : Nat := 0
  committed : Nat := 0
  lateCount : Nat := 0
  duplicates : Nat := 0
  notInCohort : Nat := 0
  malformed : Nat := 0
  faulted : Nat := 0
  retired : Nat := 0
  descs : List Desc := []
  staged : Tab Nat := []
  additions : Tab Nat := []
  stagingUce : List Nat := []
  shown : List Nat := List.replicate 8 0
deriving DecidableEq, Repr

/-- What a queued strip item adds or subtracts. -/
inductive ItemSource where
  /-- residues of a committed bundle `desc`, from element `first` of the segment -/
  | residues (desc : Nat) (first : Nat) (vals : List Nat)
  /-- a mask of key `key` and purpose code `purpose` (Table 9.2) -/
  | mask (key : Bytes) (purpose : Nat)
  /-- decoded aggregate mask values, from element `first` (R357) -/
  | decoded (first : Nat) (vals : List Nat)
deriving DecidableEq, Repr

/-- One item queued for strip `strip` of replica `rep` of segment `seg` (R275, R313). -/
structure StripItem where
  seg : Nat
  rep : Nat
  strip : Nat
  sub : Bool
  what : ItemSource
deriving DecidableEq, Repr

/-- The stages of Table 10.2; a root in `adopt` has had its PROPOSE refused and awaits the standby's RESULT (R521). -/
inductive HarvestStage where
  | idle
  | join
  | waitBitmap
  | bitmap (start : Nat)
  | result
  | adopt
  | done
deriving DecidableEq, Repr

/-- Harvest of one round (R331 to R334, R513, R520, R521): the stage, the JOIN mask and the BITMAP covers mask gathered so
far with the OR of the survivor bitmaps; when this node last sent its contribution, whether it was acknowledged and the
ancestor it reached by escalation; when JOIN closed here, and the standby that PROPOSE went to; the nodes that sent to this one directly and those that left the round; whether a PROPOSE was taken here, or the
standby's decision made; and the RESULT. -/
structure Harvest where
  stage : HarvestStage := .idle
  joined : List Nat := []
  covers : List Nat := []
  bits : List Nat := []
  sentAt : Nat := 0
  acked : Bool := true
  reach : Option Nat := none
  joinClosedAt : Option Nat := none
  asked : Option Nat := none
  direct : List Nat := []
  left : List Nat := []
  proposed : Bool := false
  decided : Bool := false
  survivors : List Nat := []
  mask : List Nat := []
  dropped : Nat := 0
  absent : Nat := 0
deriving DecidableEq, Repr

/-- The reveal barrier (R33, R337): T0 and starter, the participants joined. -/
structure Barrier where
  t0 : Nat
  starter : Nat
  joined : List Nat
deriving DecidableEq, Repr

/-- A stored SHARE record (Table 10.4). -/
structure ShareRec where
  owner : Nat
  holder : Nat
  kind : Nat
  nrecDigest : Bytes
  header : Bytes
  ciphertext : Bytes
  tag : Bytes
deriving DecidableEq, Repr

/-- A stored NEIGHBOUR record (Table 10.5), with its bytes for the digest of R345. -/
structure NeighbourRec where
  client : Nat
  publicKey : Bytes
  neighbours : List Nat
  segs : List Nat
  bytes : Bytes
deriving DecidableEq, Repr

/-- A stored, decrypted CODED record (Table 10.6, R355). -/
structure CodedRec where
  holder : Nat
  vals : List Nat
deriving DecidableEq, Repr

/-- One round table entry. `shadow` marks a secondary's copy (R620), `self` the fabric ID this device acts under where that
is not its own (the primary's in a shadow, the old ID after a substitution), `replaced` the substitutes of R630. `homes` is the home map: participant → clients (R330). `seeds` holds self-mask seeds by client;
`pairSeeds` holds pairwise seeds at key 2^24 × dropped client + neighbour; `heldKeys` the private keys of R347; `codedKeys` the coded
public keys that other participants committed (R355). `early` holds records routed here that wait for the barrier's close, or for their
holder's coded key: origin, reference, bytes. `ahead` is the holder's change of state (RELEASED, or CLOSED) that came before this
device was SEALED (R384). `badData` is a
condition of the memory that holds the round: what a read of a segment's arrays (by its number), of the round's stores
(65,536) or of its contributor counts (65,537) meets. [log 29 DESIGN CHOICE, 52 DESIGN CHOICE, 140 DEDUCED] -/
structure Round where
  part : Fin 64
  id : W32
  state : RoundState
  policy : RoundPolicy
  position : Nat := 0
  priv : Bytes := []
  pub : Bytes := []
  leader : Nat := 0
  participants : List Nat := []
  modulus : Option Modulus := none
  segs : List Segment := []
  ring : Option Ring := none
  cohort : List Nat := []
  homes : Tab (List Nat) := []
  contributions : Tab Contribution := []
  latches : Tab Latch := []
  harvest : Harvest := {}
  barrier : Option Barrier := none
  shareStore : List ShareRec := []
  neighbourStore : Tab NeighbourRec := []
  codedStore : Tab CodedRec := []
  codedDone : List Nat := []
  seeds : Tab Bytes := []
  pairSeeds : Tab Bytes := []
  heldKeys : Tab Bytes := []
  codedKeys : Tab Bytes := []
  early : List (Nat × Nat × Bytes) := []
  ahead : Option Bool := none
  shareInvalid : W32 := 0
  strips : List StripItem := []
  unmasking : Bool := false
  decoding : Bool := false
  tokenHolder : Nat := 0
  tokenEpoch : W16 := 1
  chunks : List Nat := []
  bytesUsed : Nat := 0
  shadow : Bool := false
  self : Option Nat := none
  replaced : Tab Nat := []
  partners : Tab (Nat × W16) := []
  alarmAt : Option Nat := none
  badData : Tab Status := []
deriving DecidableEq, Repr

/-- A strip operation in a Bed (R275): the strip, its load time, the items applied, its contents as loaded and changed,
the bundles whose items it holds, and the source's tag of its memory requests (R65). -/
structure StripOp where
  entry : Nat
  seg : Nat
  rep : Nat
  strip : Nat
  loadedAt : Nat
  applied : Nat
  sram : List Nat
  bundles : List Nat
  masks : Nat
  tag : SourceTag := {}
deriving DecidableEq, Repr

/-- A stream context of a Sower (R315): key, nonce, start block, residues to make, modulus and sign of one item; zero where none is. -/
structure SowerCtx where
  key : Bytes := []
  nonce : Bytes := []
  start : Nat := 0
  count : Nat := 0
  modulus : Option Modulus := none
  sub : Bool := false
deriving DecidableEq, Repr

/-- One SOW island's Bed and Sower (R293, R296), with the Sower's running and loading context (R315). [log 125 DEDUCED] -/
structure BedSower where
  op : Option StripOp := none
  running : SowerCtx := {}
  loading : SowerCtx := {}
  disabled : Bool := false
  katFail : Bool := false
  uncorrectable : Nat := 0
  eccCorrected : W32 := 0
deriving DecidableEq, Repr

/-- A RELEASE in a gate slot (R374, R376, R382): its command, segment, destination and attestation key; whether the probe is
out, the participants whose acknowledgement of the mark is awaited, whether it exports; the next element, samples drawn
and not yet used, the bytes exported, elements clamped, writes to a remote window not yet acknowledged, and the status of the first
that failed. -/
structure GateSlot where
  src : Source
  cmd : Nat
  entry : Nat
  seg : Nat
  dest : Nat
  window : Nat
  target : Nat
  scale : Nat
  addr : Nat
  recordAddr : Nat
  dstPages : List (Nat × Nat) := []
  recPages : List (Nat × Nat) := []
  key : Bytes := []
  probing : Bool := false
  marking : List Nat := []
  exporting : Bool := false
  pos : Nat := 0
  samples : List Int := []
  exported : Bytes := []
  saturated : Nat := 0
  writes : Nat := 0
  failed : Option Status := none
deriving DecidableEq, Repr

/-- The round units of the device: the round table (keyed by entry, 0 to 1,023), Beds and Sowers (keyed by SOW index),
the bed registers, the staging pool and the gate; `gateHeld` lists slots whose RELEASE waits, unchecked, for the probe of an earlier one
of its segment (R388). A value of `reviseMs` or `hotTarget` acts from `reviseFrom` or `hotFrom`, the one before it until then;
`revisedAt` is the boundary last revised at (R281). `stagingHoles` lists chunks from `stagingBase` on that a quota held when the pool was
reserved. `lastFetch` and `lastGrant` are the ring entries that round-robin served last (R244).
[log 37 DEDUCED, 149 DEDUCED, 171 DESIGN CHOICE] -/
structure Rounds where
  table : Tab Round := []
  beds : Tab BedSower := []
  autoRevise : Bool := true
  reviseMs : Nat := 10
  hotTarget : Nat := 2500000000
  replicaRefused : W32 := 0
  reviseOld : Nat := 10
  reviseFrom : Nat := 0
  hotOld : Nat := 2500000000
  hotFrom : Nat := 0
  revisedAt : Nat := 0
  stagingGiB : Nat := 8
  stagingBase : Nat := 125952
  stagingHoles : List Nat := []
  stagingUsed : Nat := 0
  lastFetch : Nat := 0
  lastGrant : Nat := 0
  gate : Tab GateSlot := []
  gateQueue : List (Source × Nat) := []
  gateHeld : List Nat := []
  lastGate : Nat := 0
deriving DecidableEq, Repr

end Sys2Proof.Machine
end

