-- ==== Sys2Proof/Machine/StShed.lean ====
section
/-!
DEFINITION. State of the Shed (ch. 20).
-/

namespace Sys2Proof.Machine
open Sys2Proof

inductive SlotState where
  | empty | valid | bad
deriving DecidableEq, Repr

/-- A tenant slot record (Table 20.6a). -/
structure SlotRec where
  state : SlotState := .empty
  owner : Fin 64 := 0
  usage : BitVec 5 := 0
  mask : Byte := 0
  length : Nat := 0
  origin : Bool := false
  generation : W32 := 0
  brootGen : W32 := 0
  wrapped : Bytes := []
  tag : Bytes := []
deriving DecidableEq, Repr

/-- A tamper log entry (R709). -/
structure TamperEntry where
  cause : TamperCause
  time : Nat
deriving DecidableEq, Repr

/-- The Shed island's own state. Roots are byte strings; `none` while not held. -/
structure Shed where
  pufRoot : Option Bytes := none
  pufFails : Nat := 0
  pufFail : Bool := false
  batteryRoot : Option Bytes := none
  brootGen : W32 := 0
  slots : Tab SlotRec := []
  tamperLog : List TamperEntry := []
  tamperIn : Bool := false
  tamperInHigh : Bool := false
  conditions : List TamperCause := []
  batteryLow : Bool := false
  debug : Bool := false
  patrolAt : Nat := 0
deriving DecidableEq, Repr

end Sys2Proof.Machine
end

