-- ==== Sys2Proof/Machine/State.lean ====
section
/-!
DEFINITION. The state of the AK512-B1, the reasons a step can stop, and the state after reset.
-/

namespace Sys2Proof.Machine
open Sys2Proof

/-- The part's whole state, one field for each unit. `pending` is the queue of commands that wait for the block, first
in, first out; `freeCtr` is the model's own counter that the opaque free values of Config are applied to, and no
statement rests on its value. -/
structure State where
  isl : Islands := {}
  kelri : Kelri := {}
  q : Queues := {}
  hif : Hif := {}
  rounds : Rounds := {}
  time : TimeUnit := {}
  plot : PlotUnit := {}
  trellis : TrellisUnit := {}
  spetar : Spetar := {}
  graft : Graft := {}
  part : Partitions := {}
  shed : Shed := {}
  attest : AttestUnit := {}
  random : RandomUnit := {}
  mgmt : Mgmt := {}
  power : Power := {}
  err : ErrLogs := {}
  reg : RegUnit := {}
  freeCtr : Nat := 0
  pending : List Instr := []
deriving DecidableEq, Repr

/-- The reasons a step can end in a fault. There is none: every command of the table has an effect the spec gives. [log 129 DEDUCED] -/
inductive Fault where
deriving DecidableEq, Repr

/-- The reasons a step can be refused. [log 129 DEDUCED] -/
inductive Refusal where
  /-- Raised by `exec` for a command whose meaning is not written. Safe: the model stops where the part goes on. -/
  | notModelled (mnemonic : String)
deriving DecidableEq, Repr

/-- The part right after a cold reset with VDD_AUX present: AUX_RST_N and PERST_N still asserted, PWRGD_MAIN low, every
island in RESET. Each structure's field defaults are these values. [log 4 DEDUCED, 5 DESIGN CHOICE, 6 DESIGN CHOICE, 7 DESIGN CHOICE, 8 DESIGN CHOICE, 9 DESIGN CHOICE, 10 PRESUMED, 11 DESIGN CHOICE] -/
def State.reset : State := {}

end Sys2Proof.Machine
end

