-- ==== Sys2Proof/Machine/Ops.lean ====
section
/-!
DEFINITION. Named operations that every unit uses: fabric time, islands, functions and interrupts, error logs, progress
counters, and device memory as bytes of physical addresses.
-/

namespace Sys2Proof.Machine
open Sys2Proof

/-! ### Time and free values -/

/-- Fabric time in whole nanoseconds (R5, R397). -/
def State.now (s : State) : Nat := s.time.t40 / 2 ^ 40

/-- The 16-bit binary fraction of fabric time (R5, R397). -/
def State.nowFraction (s : State) : Nat := s.time.t40 % 2 ^ 40 / 2 ^ 24

/-- `n` free bytes, and the counter past them. [log 13 DESIGN CHOICE] -/
def State.freeBytes (s : State) (n : Nat) : Bytes × State :=
  ((List.range n).map (fun k => Config.freeByte (s.freeCtr + k)), { s with freeCtr := s.freeCtr + n })

/-- A free natural, and the counter past it. [log 13 DESIGN CHOICE] -/
def State.freeNat (s : State) : Nat × State :=
  (Config.freeNat s.freeCtr, { s with freeCtr := s.freeCtr + 1 })

/-- The device's UDID (R682). -/
def udid : Bytes := fit 16 Config.udid

/-! ### Islands (ch. 2) -/

/-- Island IDs (Table 2.2). -/
def islandId : Island → Nat
  | .plot k => k.val
  | .sow k => 0x80 + k.val
  | .memc k => 0xA0 + k.val
  | .fe => 0xA8
  | .fab => 0xA9
  | .oe k => 0xAA + k.val
  | .hif => 0xAE
  | .agr => 0xAF
  | .dig => 0xB0
  | .rng => 0xB1
  | .time => 0xB2
  | .mgmt => 0xB3
  | .shed => 0xB4

/-- The island an 8-bit ID names, if any (R58). -/
def islandOfId (n : Nat) : Option Island :=
  if h : n < 128 then some (.plot ⟨n, h⟩)
  else if n < 0xA0 then some (.sow (Fin.ofNat 32 (n - 0x80)))
  else if n < 0xA8 then some (.memc (Fin.ofNat 8 (n - 0xA0)))
  else if n = 0xA8 then some .fe
  else if n = 0xA9 then some .fab
  else if n < 0xAE then some (.oe (Fin.ofNat 4 (n - 0xAA)))
  else if n = 0xAE then some .hif
  else if n = 0xAF then some .agr
  else if n = 0xB0 then some .dig
  else if n = 0xB1 then some .rng
  else if n = 0xB2 then some .time
  else if n = 0xB3 then some .mgmt
  else if n = 0xB4 then some .shed
  else none

/-- The main side: every island powered from the main rails (Table 0.2). -/
def isMain : Island → Bool
  | .time => false
  | .mgmt => false
  | .shed => false
  | _ => true

/-- Islands that ISLAND_RESET or Shears may target (Table 2.2); MGMT from the PF only. -/
def isTarget : Island → Bool
  | .plot _ => true
  | .sow _ => true
  | .oe _ => true
  | .agr => true
  | .dig => true
  | .rng => true
  | .mgmt => true
  | _ => false

def isPlot : Island → Bool
  | .plot _ => true
  | _ => false

/-- The 181 islands, by ascending ID. -/
def allIslands : List Island := (List.range 0xB5).filterMap islandOfId

def State.island (s : State) (d : Island) : IslandRec := Tab.get s.isl.tab {} (islandId d)

def State.setIsland (s : State) (d : Island) (r : IslandRec) : State :=
  { s with isl := { s.isl with tab := Tab.set s.isl.tab {} (islandId d) r } }

def State.running (s : State) (d : Island) : Bool := (s.island d).state == .run

/-- The tag of a request that island `d` issues now (R65). -/
def State.sourceTag (s : State) (d : Island) : SourceTag := { island := BitVec.ofNat 8 (islandId d), epoch := (s.island d).epoch }

/-- A reply that echoes `t` is not of its source island's current life (R77). -/
def State.staleTag (s : State) (t : SourceTag) : Bool :=
  match islandOfId t.island.toNat with
  | some d => (s.island d).epoch != t.epoch
  | none => false

/-- The next epoch: one more, stepping from 0xFFFF to 0x0001 (R66). -/
def nextEpoch (e : W16) : W16 := if e.toNat + 1 < 2 ^ 16 then e + 1 else 1

/-- A stale reply is discarded and counted at its source island (R77). -/
def State.countStale (s : State) (t : SourceTag) : State :=
  match islandOfId t.island.toNat with
  | some d => s.setIsland d { s.island d with stale := satAdd64 (s.island d).stale 1 }
  | none => s

/-- The main side is in RUN: FE and HIF are. -/
def State.mainRun (s : State) : Bool := s.running .fe

/-! ### Functions and interrupts (R127 to R129) -/

def fnNum : Fn → Nat
  | .pf => 0
  | .vf p => p.val + 1

def fnOfNum (n : Nat) : Fn := if n = 0 then .pf else .vf (Fin.ofNat 64 (n - 1))

/-- Send to the host, or hold in HIF while the link recovers (R142). [log 32 DEDUCED] -/
def State.toHost (s : State) (o : HostOut) : State :=
  if s.hif.recovering then { s with hif := { s.hif with waiting := s.hif.waiting ++ [o] } }
  else { s with hif := { s.hif with out := s.hif.out ++ [o] } }

def State.flrActive (s : State) (p : Fin 64) : Bool := (Tab.find? s.hif.flr p.val).isSome

def msixKey (f : Fn) (v : Nat) : Nat := 256 * fnNum f + v

/-- VFs that exist: those up to NumVFs while VF Enable is set (R134). [log 90 DEDUCED] -/
def State.vfPresent (s : State) (p : Fin 64) : Bool := s.hif.vfEnable && decide (p.val < s.hif.numVfs)

/-- A vector may send: MSI-X is enabled in its function, neither is masked, and HIF runs. [log 111 PRESUMED] -/
def State.vectorOpen (s : State) (f : Fn) (v : Nat) : Bool :=
  Tab.get s.hif.msixEnable false (fnNum f) && !(Tab.get s.hif.msix {} (msixKey f v)).masked && !Tab.get s.hif.msixFnMask false (fnNum f) &&
    s.running .hif

/-- Raise an MSI-X vector: pending while it may not send, else one message (R128, R129); none for a VF in FLR (R140). A message of the vector
that waits in HIF gives way to one behind everything that waits there, which covers both causes (R128, R135). [log 32 DEDUCED] -/
def State.raiseVector (s : State) (f : Fn) (v : Nat) : State :=
  let quiet : Bool := match f with
    | .pf => false
    | .vf p => s.flrActive p
  if quiet then s
  else
    let e := Tab.get s.hif.msix {} (msixKey f v)
    if !s.vectorOpen f v then
      { s with hif := { s.hif with msix := Tab.set s.hif.msix {} (msixKey f v) { e with pending := true } } }
    else { s with hif := { s.hif with waiting := s.hif.waiting.filter (· != HostOut.msix f v) } }.toHost (.msix f v)

/-- Latch a cause in CP_HIF_INT_STATUS and signal its vector (R879). [log 32 DEDUCED] -/
def State.raisePf (s : State) (c : PfCause) : State :=
  { s with hif := { s.hif with intStatus := s.hif.intStatus ||| BitVec.ofNat 32 (2 ^ c.bitNo) } }.raiseVector .pf c.vector

/-- A cause that the host is told of while HIF is in RUN; the register that would latch it reads its reset value otherwise
(R127, R871). [log 136 DEDUCED] -/
def State.pfEvent (s : State) (c : PfCause) : State := if s.running .hif then s.raisePf c else s

/-- One update of a VALID view: GENERATION goes to the next even value (R110). -/
def KelriView.step (v : KelriView) : KelriView := if v.valid then { v with generation := v.generation + 2 } else v

/-- Every VALID view is updated: what all of them show has changed. [log 134 DEDUCED] -/
def State.stepAllViews (s : State) : State :=
  ({ s with kelri := { pf := s.kelri.pf.step, vf := Tab.map (fun _ (v : KelriView) => v.step) s.kelri.vf } }).pfEvent .kelri

/-- Latch bit `n` of PT_INT_STATUS of a partition and signal `v` (R898). [log 32 DEDUCED] -/
def State.raiseVf (s : State) (p : Fin 64) (n v : Nat) : State :=
  let old := Tab.get s.hif.vfIntStatus 0 p.val
  { s with hif := { s.hif with vfIntStatus := Tab.set s.hif.vfIntStatus 0 p.val (old ||| BitVec.ofNat 32 (2 ^ n)) } }.raiseVector (.vf p) v

/-! ### Partitions -/

def State.partition? (s : State) (p : Fin 64) : Option Partition := Tab.find? s.part.parts p.val

def State.created (s : State) (p : Fin 64) : Bool := (s.partition? p).isSome

def State.setPartition (s : State) (p : Fin 64) (r : Partition) : State :=
  { s with part := { s.part with parts := Tab.insert s.part.parts p.val r } }

def State.modPartition (s : State) (p : Fin 64) (f : Partition → Partition) : State :=
  match s.partition? p with
  | none => s
  | some r => s.setPartition p (f r)

def State.isCold (s : State) (p : Fin 64) : Bool := ((s.partition? p).map (·.coldFrame)).getD false

/-! ### Error logs (R848 to R855) -/

/-- What an error entry's PARTITION byte holds (Table 25.5). -/
def partByte : Option (Fin 64) → Byte
  | some p => BitVec.ofNat 8 p.val
  | none => 0xFF

/-- The lowest of slots 0 to 255 that is empty. -/
def emptySlot (l : ErrLog) : Option Nat := (List.range 256).find? (fun k => (Tab.find? l.slots k).isNone)

/-- The slot of the oldest CE entry: the one furthest behind NEXT_SEQ. -/
def oldestCe (l : ErrLog) : Option Nat :=
  let ages := List.filterMap (fun (y : Nat × ErrEntry) => if y.2.cls = .ce then some (y.1, (l.nextSeq - y.2.seq).toNat) else none) l.slots
  (ages.foldl (fun (b : Option (Nat × Nat)) a => match b with
    | none => some a
    | some x => if a.2 > x.2 then some a else b) none).map (·.1)

/-- The slot holding an entry that a new occurrence merges into (R850). -/
def mergeSlot (l : ErrLog) (now : Nat) (e : ErrEntry) : Option Nat :=
  (List.find? (fun (y : Nat × ErrEntry) => y.2.cause == e.cause && y.2.addr == e.addr && y.2.island == e.island &&
    y.2.partition == e.partition && decide (now < y.2.time + 1000000000)) l.slots).map (·.1)

def bump16 (c : Nat) : Nat := if c < 0xFFFF then c + 1 else c

/-- Whether a class counts as uncorrected (R852). [log 33 DEDUCED] -/
def isUncorrected : ErrClass → Bool
  | .contained => true
  | .island => true
  | .fatal => true
  | _ => false

/-- Add an occurrence to a log: merged, in the lowest empty slot, over the oldest CE entry, or lost (R850, R851, R852). [log 33 DEDUCED] -/
def ErrLog.add (l : ErrLog) (now : Nat) (e : ErrEntry) : ErrLog :=
  let counted := { l with
    ceCount := if e.cls = ErrClass.ce then satAdd32 l.ceCount 1 else l.ceCount
    uceCount := if isUncorrected e.cls then satAdd32 l.uceCount 1 else l.uceCount }
  match mergeSlot l now e with
  | some k =>
    { counted with slots := match Tab.find? l.slots k with
      | some x => Tab.insert l.slots k { x with count := bump16 x.count }
      | none => l.slots }
  | none =>
    let e' := { e with time := now, seq := l.nextSeq }
    let firsted := { counted with first := match l.first with
      | some x => some x
      | none => if isUncorrected e.cls then some e' else none }
    match emptySlot l with
    | some k => { firsted with slots := Tab.insert l.slots k e', nextSeq := l.nextSeq + 1 }
    | none =>
      match oldestCe l with
      | some k => { firsted with slots := Tab.insert l.slots k e', nextSeq := l.nextSeq + 1 }
      | none => { counted with lost := BitVec.ofNat 16 (bump16 l.lost.toNat) }

/-- Record an error in log `n` for island `d` and partition byte `pb`, and latch its interrupt (R854, R855). [log 27 DEDUCED, 29 DESIGN CHOICE] -/
def State.logErr (s : State) (n : Nat) (d : Island) (pb : Byte) (cls : ErrClass) (cause : ErrCause) (addr : Nat := 0)
    (syndrome : W32 := 0) (st : Status := .ok) : State :=
  let cold := decide (pb.toNat < 64) && s.isCold (Fin.ofNat 64 pb.toNat)
  let e : ErrEntry :=
    { addr := if cold then addr / 2 ^ 21 * 2 ^ 21 else addr
      syndrome := if cold then 0 else syndrome
      status := BitVec.ofNat 16 st.code
      epoch := (s.island d).epoch
      island := BitVec.ofNat 8 (islandId d)
      partition := pb
      cause := cause
      cls := cls }
  let l := Tab.get s.err.logs {} n
  let l' := l.add s.now e
  let s' := { s with err := { s.err with logs := Tab.set s.err.logs {} n l' } }
  if cls = .ce then
    if l'.ceCount.toNat % s.err.ceThreshold = 0 then s'.raisePf (.errlog n) else s'
  else if (mergeSlot l s.now e).isSome then s'
  else s'.raisePf (.errlog n)

/-! ### Progress counters (R222) -/

/-- The control plane's agents are keyed after those of the 64 partitions. -/
def progressKey : Agent → Nat
  | .queue (.part p q) => 24 * p.val + q.val
  | .queue (.cp k) => 24 * 64 + k.val
  | .task t => 24 * t.part.val + 16 + t.slot.val

/-- `n` of the events of R222 on the progress counters and the counter of the free values: each event adds at least 1, and what it adds
beyond is free. [log 22 DESIGN CHOICE] -/
def addProgress (a : Agent) (n : Nat) (y : Tab W64 × Nat) : Tab W64 × Nat :=
  (Tab.set y.1 0 (progressKey a) (satAdd64 (Tab.get y.1 0 (progressKey a)) (n + Config.freeNat y.2)), y.2 + 1)

/-- `n` of the events of R222 for agent `a`. [log 22 DESIGN CHOICE] -/
def State.progressBy (s : State) (a : Agent) (n : Nat) : State :=
  if n = 0 then s
  else
    let y := addProgress a n (s.q.progress, s.freeCtr)
    { s with q := { s.q with progress := y.1 }, freeCtr := y.2 }

def srcAgent : Source → Option Agent
  | .part p q => some (.queue (.part p q))
  | .cp k => some (.queue (.cp k))
  | .mgmt _ => none

/-- Log 22 DESIGN CHOICE. -/
def State.progressSrc (s : State) (src : Source) (n : Nat) : State :=
  match srcAgent src with
  | some a => s.progressBy a n
  | none => s

/-! ### Device memory as physical bytes -/

/-- One byte of device memory. A byte nothing has written reads 0: Table 24.5, step 5, leaves all of memory at zero. [log 4 DEDUCED] -/
def memByte (m : List Host.Cell) (a : Nat) : Byte := Tab.get m 0 a

/-- `len` bytes from `a`. -/
def memRead (m : List Host.Cell) (a : Nat) : Nat → Bytes
  | 0 => []
  | n + 1 => memByte m a :: memRead m (a + 1) n

/-- Write bytes from `a` on; the canonical form is kept. -/
def memWrite (m : List Host.Cell) (a : Nat) : Bytes → List Host.Cell
  | [] => m
  | b :: t => memWrite (Tab.set m 0 a b) (a + 1) t

/-- The canonical form of device memory: addresses strictly rising, no zero byte listed. -/
def Memory.wf (m : List Host.Cell) : Bool := Tab.wf (0 : Byte) m

/-- A memory in canonical form. [log 3 DESIGN CHOICE] -/
def Memory.canon (m : List Host.Cell) : List Host.Cell :=
  if Memory.wf m then m else m.foldr (fun c acc => Tab.set acc (0 : Byte) c.1 c.2) []

/-- The outcome of a command whose effect is `t`: the queue of waiting commands is as it was, and device memory is listed in its
canonical form. [log 1 DESIGN CHOICE, 3 DESIGN CHOICE] -/
def State.conclude (s t : State) : Host.Outcome State Fault Refusal :=
  .next { t with pending := s.pending, part := { t.part with mem := Memory.canon t.part.mem } }

/-- Every byte from `a` to `a + len - 1` set to zero: their entries leave the list. -/
def memZero (m : List Host.Cell) (a len : Nat) : List Host.Cell :=
  List.filter (fun c => decide (c.1 < a) || decide (a + len ≤ c.1)) m

/-- Lines of 64 bytes that a range touches. -/
def linesOf (a len : Nat) : List Nat :=
  if len = 0 then [] else (List.range ((a + len - 1) / 64 - a / 64 + 1)).map (· + a / 64)

/-- Lines of 64 bytes that a range covers whole. -/
def wholeLines (a len : Nat) : List Nat :=
  (linesOf a len).filter (fun l => decide (a ≤ 64 * l) && decide (64 * l + 64 ≤ a + len))

/-- The memory controller of a physical address (R932). -/
def memcOf (a : Nat) : Island := .memc (Fin.ofNat 8 (a / 256))

end Sys2Proof.Machine
end

