-- ==== Sys2Proof/Machine/Mem.lean ====
section
/-!
DEFINITION. Physical chunks, quotas, translation and device memory as commands see it (ch. 19, R164, R856 to R859).
-/

namespace Sys2Proof.Machine
open Sys2Proof

def chunkBytes : Nat := 2 ^ 21
def reserveBase : Nat := 130048
def chunkCount : Nat := 131072
def memTop : Nat := 2 ^ 38
def pageBytes : Nat := 2 ^ 16

/-! ### Physical chunk ranges (Table 19.2) -/

/-- The partition and quota chunk that hold a physical chunk. -/
def State.quotaOf (s : State) (c : Nat) : Option (Nat × Nat) :=
  List.findSome? (fun (y : Nat × Partition) => (y.2.chunkMap.findIdx? (· == c)).map (fun k => (y.1, k))) s.part.parts

def State.isBad (s : State) (c : Nat) : Bool := s.part.badChunks.contains c

/-- The staging pool: the highest chunks below the device reserve that no quota held when it was reserved and that are not BAD (R251).
[log 37 DEDUCED] -/
def State.isStaging (s : State) (c : Nat) : Bool :=
  decide (s.rounds.stagingBase ≤ c) && decide (c < reserveBase) && !s.isBad c && !s.rounds.stagingHoles.contains c

def isReserve (c : Nat) : Bool := decide (reserveBase ≤ c)

def State.inFreePool (s : State) (c : Nat) : Bool :=
  decide (s.part.cpChunks ≤ c) && decide (c < reserveBase) && !s.isStaging c && !s.isBad c && (s.quotaOf c).isNone

/-- The lowest-numbered chunk of the free pool from `c` on. -/
def State.lowestFreeChunk (s : State) : Nat → Nat → Option Nat
  | 0, _ => none
  | fuel + 1, c => if s.inFreePool c then some c else s.lowestFreeChunk fuel (c + 1)

def State.nextFreeChunk (s : State) : Option Nat := s.lowestFreeChunk chunkCount 0

/-- CP_MEM_CHUNK_OWNER.STATE (Table 26.4). -/
def State.chunkOwnerState (s : State) (c : Nat) : Nat :=
  if s.isBad c then 5
  else if s.part.retirePending.contains c then 6
  else if (s.quotaOf c).isSome then 4
  else if isReserve c then 3
  else if c < s.part.cpChunks then 1
  else if s.isStaging c then 2
  else 0

/-! ### Errors in stored lines (R856, R858) -/

/-- The PARTITION byte of a physical line. -/
def State.lineOwner (s : State) (a : Nat) : Byte :=
  match s.quotaOf (a / chunkBytes) with
  | some (p, _) => BitVec.ofNat 8 p
  | none => if a / chunkBytes < s.part.cpChunks then 0xFE else 0xFF

/-- MEM_CE entries of lines read and corrected, `pb` naming the consumer's partition. [log 27 DEDUCED] -/
def State.correctedLines (s : State) (pb : Nat → Byte) (ls : List Nat) : State :=
  ls.foldl (fun s l => s.logErr 2 (memcOf (64 * l)) (pb l) .ce .memCe (64 * l)) s

/-- What a write to `len` bytes from `a` does to the lines' own errors: any write clears a correctable error, a partial one by a
correction that makes a MEM_CE entry; only a write of the whole line clears poison or an uncorrectable error. -/
def State.mendLines (s : State) (a len : Nat) : State :=
  let touched (l : Nat) : Bool := decide (64 * l < a + len) && decide (a < 64 * l + 64)
  let whole (l : Nat) : Bool := decide (a ≤ 64 * l) && decide (64 * l + 64 ≤ a + len)
  let s := s.correctedLines (fun l => s.lineOwner (64 * l)) (s.part.correctable.filter (fun l => touched l && !whole l))
  { s with part := { s.part with
      correctable := s.part.correctable.filter (fun l => !touched l)
      poisonLines := s.part.poisonLines.filter (fun l => !whole l)
      uncorrectable := s.part.uncorrectable.filter (fun l => !whole l) } }

/-- Write physical memory. -/
def State.writePhys (s : State) (a : Nat) (d : Bytes) : State :=
  let s := s.mendLines a d.length
  { s with part := { s.part with mem := memWrite s.part.mem a d } }

/-- Write zeros over a physical range. -/
def State.zeroPhys (s : State) (a len : Nat) : State :=
  let s := s.mendLines a len
  { s with part := { s.part with mem := memZero s.part.mem a len } }

/-! ### Bad data (R856, R858) -/

/-- Count a MEM_UCE against its chunk; the second makes it RETIRE_PENDING (R858). [log 33 DEDUCED] -/
def State.countUce (s : State) (c : Nat) : State :=
  let n := Tab.get s.part.memUce 0 c + 1
  { s with part := { s.part with
      memUce := Tab.set s.part.memUce 0 c n
      retirePending := if n ≥ 2 then insertNat c s.part.retirePending else s.part.retirePending } }

/-- The first bad line of a list, with what its consumer receives, and the lines read before it. [log 26 DEDUCED] -/
def firstBad (poison unc : List Nat) : List Nat → List Nat × Option (Nat × Status)
  | [] => ([], none)
  | l :: t =>
    if unc.contains l then ([], some (l, .eccUncorrectable))
    else if poison.contains l then ([], some (l, .poisoned))
    else
      let (b, r) := firstBad poison unc t
      (l :: b, r)

/-- A consumer reads lines: the first bad one gives it ECC_UNCORRECTABLE and becomes poisoned, or gives it POISONED
(R856), with the entry in ERRLOG_2. The lines before it that hold correctable errors are read corrected. [log 26 DEDUCED] -/
def State.consumeLines (s : State) (pb : Byte) (ls : List Nat) : Option Status × State :=
  let (before, bad) := firstBad s.part.poisonLines s.part.uncorrectable ls
  let s := if s.part.correctable.isEmpty then s else s.correctedLines (fun _ => pb) (before.eraseDups.filter s.part.correctable.contains)
  match bad with
  | none => (none, s)
  | some (l, .eccUncorrectable) =>
    let s1 := { s with part := { s.part with
      uncorrectable := s.part.uncorrectable.filter (· != l)
      poisonLines := insertNat l s.part.poisonLines } }
    (some .eccUncorrectable, (s1.countUce (64 * l / chunkBytes)).logErr 2 (memcOf (64 * l)) pb .contained .memUce (64 * l) 0 .eccUncorrectable)
  | some (l, st) => (some st, s.logErr 2 (memcOf (64 * l)) pb .contained .poisonConsumed (64 * l) 0 st)

/-! ### Quota chunks -/

def Partition.quota (r : Partition) : Nat := r.chunkMap.length

def Partition.chunkState (r : Partition) (c : Nat) : ChunkState := Tab.get r.states .free c

/-- The physical address of a quota-relative address. -/
def Partition.phys (r : Partition) (a : Nat) : Nat := r.chunkMap.getD (a / chunkBytes) 0 * chunkBytes + a % chunkBytes

def Partition.setChunk (r : Partition) (c : Nat) (st : ChunkState) : Partition :=
  { r with states := Tab.set r.states .free c st }

/-- A translation or table read that names a FREE chunk makes it TENANT (R650). [log 25 DEDUCED] -/
def Partition.touch (r : Partition) (c : Nat) : Partition :=
  if r.chunkState c = .free then r.setChunk c .tenant else r

/-- The FREE quota chunks, highest first. -/
def Partition.freeChunks (r : Partition) : List Nat :=
  ((List.range r.quota).filter (fun c => r.chunkState c == .free)).reverse

/-- Take the `n` highest-numbered FREE chunks of a partition's quota and set them to DEVICE (R651). -/
def State.allocChunks (s : State) (p : Fin 64) (n : Nat) : Option (List Nat × State) :=
  match s.partition? p with
  | none => none
  | some r =>
    let cs := r.freeChunks.take n
    if cs.length = n then some (cs, s.setPartition p (cs.foldl (fun (r : Partition) c => r.setChunk c .device) r)) else none

/-! ### Scrubs (R646, R652, R678, R858) -/

def State.markBad (s : State) (c : Nat) (pb : Byte) : State :=
  { s with part := { s.part with badChunks := insertNat c s.part.badChunks } }.logErr 2 (memcOf (c * chunkBytes)) pb
    .contained .chunkBad (c * chunkBytes)

/-- Whether a physical chunk fails its scrub: its read-back fails, or it is RETIRE_PENDING (R858). -/
def State.scrubFails (s : State) (c : Nat) : Bool :=
  s.part.weak.contains c || s.part.retirePending.contains c || s.isBad c

/-- A chunk of the free pool that passes its scrub, the failing ones before it marked BAD (R646, R678). -/
def State.goodChunk (s : State) (pb : Byte) : Nat → Option Nat × State
  | 0 => (none, s)
  | fuel + 1 =>
    match s.nextFreeChunk with
    | none => (none, s)
    | some c =>
      if s.scrubFails c then (s.markBad c pb).goodChunk pb fuel
      else (some c, s.zeroPhys (c * chunkBytes) chunkBytes)

/-- Scrub quota chunk `k` of partition `p`: FREE when it passes, else replaced from the free pool, else kept BAD (R678).
`failed` forces a failed read-back. -/
def State.scrubQuota (s : State) (p : Fin 64) (k : Nat) (failed : Bool) : State :=
  match s.partition? p with
  | none => s
  | some r =>
    let c := r.chunkMap.getD k 0
    if failed || s.scrubFails c then
      let s1 := if s.isBad c then s else s.markBad c (partByte (some p))
      match s1.goodChunk (partByte (some p)) chunkCount with
      | (some d, s2) => s2.modPartition p (fun r => ({ r with chunkMap := r.chunkMap.set k d }).setChunk k .free)
      | (none, s2) => s2.modPartition p (fun r => r.setChunk k .bad)
    else (s.zeroPhys (c * chunkBytes) chunkBytes).modPartition p (fun r => r.setChunk k .free)

/-- Log 4 DEDUCED. -/
def State.scrubAll (s : State) (p : Fin 64) (ks : List Nat) : State := ks.foldl (fun s k => s.scrubQuota p k false) s

/-! ### Translation (R653 to R657, R891) -/

/-- Code of a fault cause (Table 27.4). -/
def FaultCause.code : FaultCause → Nat
  | .notValid => 1
  | .leaf => 2
  | .rsvdBit => 3
  | .align => 4
  | .quota => 5
  | .closed => 6
  | .write => 7
  | .poisoned => 8
  | .badChunk => 9

/-- Record a translation fault: the first is held, later ones counted up to 63; VF vector 0 (R657, R890). -/
def State.recordFault (s : State) (p : Fin 64) (agent addr : Nat) (c : FaultCause) : State :=
  (s.modPartition p (fun r =>
    match r.fault with
    | none => { r with fault := some { addr := addr, agent := agent, cause := c }, faultOverflow := 0 }
    | some _ => { r with faultOverflow := if r.faultOverflow < 63 then r.faultOverflow + 1 else 63 })).raiseVf p 17 0

/-- The tests on where a table or page lies (R656): quota, then chunk state. -/
def Partition.placeTest (r : Partition) (a : Nat) : Option FaultCause :=
  if a ≥ r.quota * chunkBytes then some .quota
  else match r.chunkState (a / chunkBytes) with
    | .device => some .closed
    | .releasing => some .closed
    | .bad => some .badChunk
    | _ => none

/-- What one table entry says (Table 19.5), in the order of Table 27.4: a fault, the next table, or a page and whether it
is writable. `lvl` is 0, 1 or 2. -/
inductive EntryTest where
  | fault (c : FaultCause)
  | table (a : Nat)
  | page (a : Nat) (w : Bool)

def entryTest (r : Partition) (lvl e : Nat) : EntryTest :=
  let valid := bit e 0
  let leaf := bit e 1
  let addr := bits e 47 8 * 256
  if !valid then .fault .notValid
  else if (lvl = 0 && leaf) || (lvl = 2 && !leaf) then .fault .leaf
  else if bits e 63 48 != 0 || bits e 7 3 != 0 then .fault .rsvdBit
  else
    let al : Nat := if lvl = 0 then 2 ^ 17 else if lvl = 1 then (if leaf then 2 ^ 21 else 256) else 2 ^ 16
    if addr % al != 0 then .fault .align
    else match r.placeTest addr with
      | some c => .fault c
      | none => if leaf then .page addr (bit e 2) else .table addr

/-- The entry at physical address `ph` once its line has been consumed: poison gives cause POISONED (R677). -/
def entryRead (p : Fin 64) (ph c : Nat) : Option Status × State → Except (FaultCause × Status) Nat × State
  | (some st, s) => (.error (.poisoned, st), s)
  | (none, s) => (.ok (leNat (memRead s.part.mem ph 8)), s.modPartition p (·.touch c))

/-- Read a table entry at a quota-relative address (R655, R656). -/
def State.readEntry (s : State) (p : Fin 64) (r : Partition) (a : Nat) : Except (FaultCause × Status) Nat × State :=
  entryRead p (r.phys a) (a / chunkBytes) (s.consumeLines (partByte (some p)) (linesOf (r.phys a) 8))

/-- The quota-relative page a leaf gives, with the WRITE test last (Table 27.4). -/
def leafTo (s : State) (p : Fin 64) (a : Nat) (w write : Bool) : Except (FaultCause × Status) Nat × State :=
  if write && !w then (.error (.write, .translationFault), s)
  else (.ok a, s.modPartition p (·.touch (a / chunkBytes)))

/-- The last level of a walk, from the entry read there. -/
def walkLow (r : Partition) (p : Fin 64) (v : Nat) (write : Bool) : Except (FaultCause × Status) Nat × State → Except (FaultCause × Status) Nat × State
  | (.error e, s) => (.error e, s)
  | (.ok e2, s) =>
    match entryTest r 2 e2 with
    | .fault c => (.error (c, .translationFault), s)
    | .table _ => (.error (.leaf, .translationFault), s)
    | .page a w => leafTo s p (a + v % 2 ^ 16) w write

/-- The middle level of a walk, from the entry read there. -/
def walkMid (r : Partition) (p : Fin 64) (v : Nat) (write : Bool) : Except (FaultCause × Status) Nat × State → Except (FaultCause × Status) Nat × State
  | (.error e, s) => (.error e, s)
  | (.ok e1, s) =>
    match entryTest r 1 e1 with
    | .fault c => (.error (c, .translationFault), s)
    | .page a w => leafTo s p (a + v % 2 ^ 21) w write
    | .table t2 => walkLow r p v write (s.readEntry p r (t2 + 8 * bits v 20 16))

/-- The top level of a walk, from the entry read there. -/
def walkTop (r : Partition) (p : Fin 64) (v : Nat) (write : Bool) : Except (FaultCause × Status) Nat × State → Except (FaultCause × Status) Nat × State
  | (.error e, s) => (.error e, s)
  | (.ok e0, s) =>
    match entryTest r 0 e0 with
    | .fault c => (.error (c, .translationFault), s)
    | .page _ _ => (.error (.leaf, .translationFault), s)
    | .table t1 => walkMid r p v write (s.readEntry p r (t1 + 8 * bits v 34 21))

/-- What a test on where a table or page lies makes of a walk. -/
def ifPlaced (s : State) (ok : Except (FaultCause × Status) Nat × State) : Option FaultCause → Except (FaultCause × Status) Nat × State
  | some c => (.error (c, .translationFault), s)
  | none => ok

/-- A walk from the root table. -/
def State.walkFrom (s : State) (r : Partition) (p : Fin 64) (v : Nat) (write : Bool) (root : Nat) : Except (FaultCause × Status) Nat × State :=
  ifPlaced s (walkTop r p v write (s.readEntry p r (root + 8 * bits v 47 35))) (r.placeTest root)

/-- The identity map a partition has before it names a root table. -/
def State.walkFlat (s : State) (r : Partition) (p : Fin 64) (v : Nat) : Except (FaultCause × Status) Nat × State :=
  ifPlaced s (.ok v, s.modPartition p (·.touch (v / chunkBytes))) (r.placeTest v)

/-- Translate one device virtual address to a quota-relative address (R653, R654). [log 40 DESIGN CHOICE] -/
def State.walk (s : State) (p : Fin 64) (v : Nat) (write : Bool) : Except (FaultCause × Status) Nat × State :=
  match s.partition? p with
  | none => (.error (.quota, .translationFault), s)
  | some r =>
    if r.ptRoot.toNat % 2 = 0 then s.walkFlat r p v
    else s.walkFrom r p v write (bits r.ptRoot.toNat 47 16 * 2 ^ 16)

/-- The numbers of the 64 KiB pages a range touches. -/
def pagesOf (v len : Nat) : List Nat :=
  if len = 0 then [] else (List.range ((v + len - 1) / pageBytes - v / pageBytes + 1)).map (· + v / pageBytes)

/-- Translate pages one by one; the first fault ends it with the address at which the range meets that page. -/
def State.walkPages (s : State) (p : Fin 64) (v : Nat) (write : Bool) : List Nat → Except (Nat × FaultCause × Status) Pages × State
  | [] => (.ok [], s)
  | n :: t =>
    let a := max v (n * pageBytes)
    match s.walk p a write with
    | (.error (c, st), s') => (.error (a, c, st), s')
    | (.ok q, s') =>
      match s'.walkPages p v write t with
      | (.error e, s'') => (.error e, s'')
      | (.ok rest, s'') =>
        (.ok ((n, ((s'.partition? p).map (·.phys (q / pageBytes * pageBytes))).getD 0) :: rest), s'')

/-- Translate a range for partition `p` (R178). A fault leaves everything as it was but PT_PART_FAULT and its cause
(R169, R657), and the marks and entries of bad data the walk met. No address at or above 2^48 is ever translated, and a range that
reaches one records no fault (R177). [log 40 DESIGN CHOICE] -/
def State.translate (s : State) (p : Fin 64) (agent v len : Nat) (write : Bool) : Except Status Pages × State :=
  if len != 0 && 2 ^ 48 < v + len then (.error .translationFault, s)
  else match s.walkPages p v write (pagesOf v len) with
  | (.ok ps, s') => (.ok ps, s')
  | (.error (a, c, st), s') =>
    let s0 := { s with err := s'.err, hif := s'.hif, part := { s.part with
      poisonLines := s'.part.poisonLines, uncorrectable := s'.part.uncorrectable, memUce := s'.part.memUce,
      retirePending := s'.part.retirePending } }
    (.error st, s0.recordFault p agent a c)

/-- The physical address a held translation gives. -/
def physAt (ps : Pages) (v : Nat) : Nat :=
  ((List.find? (fun (y : Nat × Nat) => y.1 == v / pageBytes) ps).map (·.2)).getD 0 + v % pageBytes

/-- Pages of a device-physical range: themselves. -/
def identityPages (v len : Nat) : Pages := (pagesOf v len).map (fun n => (n, n * pageBytes))

/-! ### Device-physical ranges (R164) -/

/-- Whether a physical chunk is closed to C commands: reserve, staging, round-private, or of a cold-frame quota. -/
def State.closedToC (s : State) (c : Nat) : Bool :=
  isReserve c || s.isStaging c ||
    (match s.quotaOf c with
     | none => false
     | some (p, k) => s.isCold (Fin.ofNat 64 p) || ((s.partition? (Fin.ofNat 64 p)).map (·.closedToCp)).getD false ||
         List.any s.rounds.table (fun (y : Nat × Round) => y.2.part.val == p && y.2.chunks.contains k))

def chunksOf (a len : Nat) : List Nat :=
  if len = 0 then [] else (List.range ((a + len - 1) / chunkBytes - a / chunkBytes + 1)).map (· + a / chunkBytes)

/-- The check of a C range (R164); one of no bytes has none at or above 2^38. -/
def State.cRange (s : State) (a len : Nat) : Option Status :=
  if len != 0 && a + len > memTop then some .range
  else if (chunksOf a len).any s.closedToC then some .notPermitted
  else none

/-! ### Ranges of a caller -/

def srcPart : Source → Option (Fin 64)
  | .part p _ => some p
  | _ => none

def srcPartByte : Source → Byte
  | .part p _ => BitVec.ofNat 8 p.val
  | .cp _ => 0xFE
  | .mgmt _ => 0xFE

def srcAgentNum : Source → Nat
  | .part _ q => q.val
  | .cp k => k.val
  | .mgmt _ => 0

/-- Stage 4 on one range of a caller: a translation for P, the check of R164 for C. -/
def State.claim (s : State) (src : Source) (v len : Nat) (write : Bool) : Except Status Pages × State :=
  match src with
  | .part p q => s.translate p q.val v len write
  | _ =>
    match s.cRange v len with
    | some st => (.error st, s)
    | none => (.ok (identityPages v len), s)

/-- Stretches of a range that lie in one page each: physical address and length. -/
def segmentsAux (ps : Pages) : Nat → Nat → Nat → List (Nat × Nat)
  | 0, _, _ => []
  | fuel + 1, v, len =>
    if len = 0 then []
    else
      let n := min len (pageBytes - v % pageBytes)
      (physAt ps v, n) :: segmentsAux ps fuel (v + n) (len - n)

def segments (ps : Pages) (v len : Nat) : List (Nat × Nat) := segmentsAux ps (len / pageBytes + 2) v len

/-- The bytes a held translation reaches, errors aside. -/
def State.peek (s : State) (ps : Pages) (v len : Nat) : Bytes :=
  (segments ps v len).flatMap (fun (a, n) => memRead s.part.mem a n)

/-- Read a range through held translations as a consumer (R856, R859). [log 26 DEDUCED] -/
def State.readRange (s : State) (pb : Byte) (ps : Pages) (v len : Nat) : Except Status Bytes × State :=
  match s.consumeLines pb ((segments ps v len).flatMap (fun (a, n) => linesOf a n)) with
  | (some st, s') => (.error st, s')
  | (none, s') => (.ok (s'.peek ps v len), s')

/-- Write a range through held translations. -/
def State.writeSegs (s : State) : List (Nat × Nat) → Bytes → State
  | [], _ => s
  | (a, n) :: t, d => (s.writePhys a (d.take n)).writeSegs t (d.drop n)

def State.writeRange (s : State) (ps : Pages) (v : Nat) (d : Bytes) : State := s.writeSegs (segments ps v d.length) d

/-- Write zeros over a range. -/
def State.zeroRange (s : State) (ps : Pages) (v len : Nat) : State :=
  (segments ps v len).foldl (fun s (a, n) => s.zeroPhys a n) s

end Sys2Proof.Machine
end

