-- ==== Sys2Proof/Machine/FabOps.lean ====
section
/-!
DEFINITION. Sending over Spetar: the map, routes (R567 to R569), request packets with their sequence numbers, expiry,
congestion windows and retransmission (R573, R584 to R590).
-/

namespace Sys2Proof.Machine
open Sys2Proof

/-- Ports SP_0 to SP_6 are local, SP_7 to SP_15 global (R525, R526). -/
def isLocalPort (n : Nat) : Bool := decide (n < 7)

def groupOf (fid : Nat) : Nat := fid / 8

def State.port (s : State) (n : Nat) : Port := Tab.get s.spetar.ports {} n

def State.setPort (s : State) (n : Nat) (p : Port) : State :=
  { s with spetar := { s.spetar with ports := Tab.set s.spetar.ports {} n p } }

def State.portActive (s : State) (n : Nat) : Bool := (s.port n).state == .active

/-- The device's own record, from its ports as they stand. -/
def State.ownRec (s : State) : DevRec :=
  { udid := udid
    fidReq := s.spetar.fidReq
    fid := s.spetar.fid
    ports := (List.range 16).filterMap (fun n => match (s.port n).peerUdid, (s.port n).peerPort with
      | some u, some q => some (n, u, q)
      | _, _ => none)
    active := (List.range 16).filter s.portActive }

/-- The map the device routes by: its own record in front. -/
def State.topology (s : State) : List DevRec :=
  s.ownRec :: s.spetar.map.filter (fun d => d.udid != udid)

def devByFid (m : List DevRec) (f : Nat) : Option DevRec := m.find? (fun d => d.fid == some f)

def devByUdid (m : List DevRec) (u : Bytes) : Option DevRec := m.find? (fun d => d.udid == u)

/-- A link marked MISCABLED (R564): its ports are of different kinds, or local between groups, or global within one. -/
def miscabledLink (p q f g : Nat) : Bool :=
  isLocalPort p != isLocalPort q || (isLocalPort p && groupOf f != groupOf g) || (!isLocalPort p && groupOf f == groupOf g)

/-- A port that discovery marks MISCABLED (R564): training learned a port of the other kind, or the fabric IDs lie in the wrong groups. -/
def State.miscabled (s : State) (n : Nat) : Bool :=
  match (s.port n).peerUdid, (s.port n).peerPort with
  | some u, some q => isLocalPort n != isLocalPort q || (match s.spetar.fid, (devByUdid s.topology u).bind (fun (d : DevRec) => d.fid) with
    | some f, some g => miscabledLink n q f g
    | _, _ => false)
  | _, _ => false

/-- The live links of a device: its port and the peer's fabric ID. -/
def liveLinks (m : List DevRec) (f : Nat) : List (Nat × Nat) :=
  match devByFid m f with
  | none => []
  | some d => d.ports.filterMap (fun (p, u, q) =>
      if !d.active.contains p then none
      else match devByUdid m u with
        | none => none
        | some e => match e.fid with
          | none => none
          | some g => if e.active.contains q && !miscabledLink p q f g then some (p, g) else none)

/-- A route: the port of its first hop, the intermediate group of a non-minimal one, and its hops. -/
structure Route where
  port : Nat
  via : Option Nat
  hops : Nat
deriving DecidableEq, Repr

/-- The ports of a device that lead straight to `g`, ascending. -/
def directPorts (m : List DevRec) (f g : Nat) : List Nat :=
  ((liveLinks m f).filterMap (fun (p, x) => if x = g then some p else none)).foldl (fun acc p => insertNat p acc) []

/-- The members of a group other than those excluded, ascending. -/
def members (m : List DevRec) (g : Nat) : List Nat :=
  (m.filterMap (·.fid)).foldl (fun acc f => if groupOf f = g then insertNat f acc else acc) []

/-- Live minimal candidates within one group (R567). -/
def localRoutes (m : List DevRec) (src d : Nat) : List Route :=
  (directPorts m src d).map (fun p => { port := p, via := none, hops := 1 }) ++
  ((members m (groupOf src)).filter (fun x => x != src && x != d)).flatMap (fun x =>
    if (directPorts m x d).isEmpty then [] else (directPorts m src x).map (fun p => { port := p, via := none, hops := 2 }))

/-- Live minimal candidates into another group: over `a`'s global link to `b` (R567), as (hops, a, a's port, first hop). -/
def globalCandidates (m : List DevRec) (src d : Nat) : List (Nat × Nat × Nat × Nat) :=
  (members m (groupOf src)).flatMap (fun a =>
    (liveLinks m a).flatMap (fun (ap, b) =>
      if groupOf b != groupOf d then []
      else
        let tail : Option Nat := if b = d then some 0 else if (directPorts m b d).isEmpty then none else some 1
        match tail with
        | none => []
        | some t =>
          if a = src then [(1 + t, a, ap, ap)]
          else match directPorts m src a with
            | [] => []
            | p :: _ => [(2 + t, a, ap, p)]))

/-- Sort key of a candidate: hops, then a, then a's port. -/
def candKey (c : Nat × Nat × Nat × Nat) : Nat := (c.1 * 512 + c.2.1) * 16 + c.2.2.1

def insertCand (c : Nat × Nat × Nat × Nat) : List (Nat × Nat × Nat × Nat) → List (Nat × Nat × Nat × Nat)
  | [] => [c]
  | d :: t => if candKey c ≤ candKey d then c :: d :: t else d :: insertCand c t

def minimalRoutes (m : List DevRec) (src d : Nat) : List Route :=
  if groupOf src = groupOf d then localRoutes m src d
  else ((globalCandidates m src d).foldl (fun acc c => insertCand c acc) []).map
    (fun c => { port := c.2.2.2, via := none, hops := c.1 })

/-- Live non-minimal candidates, by ascending intermediate group (R569, R585): a minimal path to some member of the
group, and one from that member on. -/
def nonMinimalRoutes (m : List DevRec) (src d : Nat) : List Route :=
  ((List.range 64).filter (fun v => v != groupOf src && v != groupOf d)).filterMap (fun v =>
    (members m v).findSome? (fun x =>
      match minimalRoutes m src x, minimalRoutes m x d with
      | r :: _, q :: _ => some { port := r.port, via := some v, hops := r.hops + q.hops }
      | _, _ => none))

/-- The minimal candidates with the fewest hops. -/
def fewest (rs : List Route) : List Route :=
  let h := rs.foldl (fun b r => min b r.hops) 1000
  rs.filter (fun r => r.hops == h)

/-- The route of a first transmission or retry 1 (R568). -/
def firstRoute (m : List DevRec) (src d serial : Nat) : Option Route :=
  let rs := fewest (minimalRoutes m src d)
  match rs with
  | [] => (nonMinimalRoutes m src d).head?
  | _ => rs[serial % rs.length]?

/-- The next live candidate after the one last used, wrapping (R585). -/
def nextRoute (m : List DevRec) (src d : Nat) (last : Nat × Option Nat) : Option Route :=
  let rs := minimalRoutes m src d ++ nonMinimalRoutes m src d
  match rs with
  | [] => none
  | _ =>
    let k := (rs.findIdx? (fun r => r.port == last.1 && r.via == last.2)).getD (rs.length - 1)
    rs[(k + 1) % rs.length]?

def State.routeTo (s : State) (d serial : Nat) : Option Route :=
  match s.spetar.fid with
  | none => none
  | some f => firstRoute s.topology f d serial

/-- The device may send requests to `d`: it holds a fabric ID, is qualified, and some route is live (R582, R589). -/
def State.canSend (s : State) (d : Nat) : Bool :=
  s.time.qualified && (s.routeTo d 0).isSome

def State.dest (s : State) (d : Nat) : Dest := Tab.get s.spetar.dests {} d

def State.setDest (s : State) (d : Nat) (r : Dest) : State :=
  { s with spetar := { s.spetar with dests := Tab.set s.spetar.dests {} d r } }

/-- The port that queues a frame; PARAM frames, patterns and blocks wait in no queue. -/
def FabOut.port? (graft : Nat) : FabOut → Option Nat
  | .packet p _ _ => p
  | .flood n _ _ => some n
  | .message n _ _ => some n
  | .graft _ _ => some graft
  | .mirror _ _ _ _ => some graft
  | .time n _ => some n
  | .pause n => some n
  | .unpause n => some n
  | .param _ _ _ _ => none
  | .fault _ => none
  | .error _ => none
  | .trailer _ _ _ => none

/-- The bytes a port's replay buffer holds, in the clear (R534, R594). -/
def Port.replayBytes (p : Port) : Nat := p.replay.foldl (fun n f => n + f.what.frameBytes) 0

/-- The engine of a port admits frames: it neither drains nor calibrates (R541). -/
def State.admits (s : State) (n : Nat) : Bool :=
  (Tab.get s.spetar.oes {} (n / 4)).draining.isNone && (Tab.get s.spetar.oes {} (n / 4)).calibrating.isNone

/-- Raise LEVEL as a packet leaves over a global port (R570). -/
def raiseLevel (port : Nat) (h : FabHeader) : FabHeader := if isLocalPort port then h else { h with level := min 2 (h.level + 1) }

/-- A DATA frame as it leaves over a port. -/
def FabOut.cross (n : Nat) : FabOut → FabOut
  | .packet q h d => .packet q (raiseLevel n h) d
  | .flood q h d => .flood q (raiseLevel n h) d
  | .message q h m => .message q (raiseLevel n h) m
  | .graft h m => .graft (raiseLevel n h) m
  | .mirror h k e i => .mirror (raiseLevel n h) k e i
  | o => o

/-- What a MISCABLED port carries: discovery and link-state messages (R564), and the frames of the link itself. [log 69 DEDUCED] -/
def FabOut.anyCable : FabOut → Bool
  | .flood _ _ _ => true
  | o => o.isPause

/-- A port may send this frame now: ACTIVE, not paused, with room in its replay buffer and credit for the whole frame (R532, R535, R542); an
engine that drains admits its own PAUSE and UNPAUSE alone (R541). -/
def State.maySend (s : State) (n : Nat) (o : FabOut) : Bool :=
  let p := s.port n
  p.state == .active && p.paused.isNone && (s.admits n || o.isPause) && decide (p.replayBytes + o.frameBytes ≤ 16384) && decide (p.replay.length < 32768) &&
    p.hasCredit (o.cross n) && (o.anyCable || !s.miscabled n)

def State.record (s : State) (o : FabOut) : State := { s with spetar := { s.spetar with out := s.spetar.out ++ [o] } }

/-- Send a frame on a port: it takes the next LSEQ and its credit, and is held until acknowledged (R532, R534). [log 65 DEDUCED] -/
def State.sendFrame (s : State) (n : Nat) (o : FabOut) : State :=
  let p := s.port n
  let o := o.cross n
  let f : Frame := { lseq := p.lseq, ext := p.nextExt, since := s.now, what := o }
  let p := ({ p with lseq := p.lseq + 1, nextExt := p.nextExt + 1, replay := p.replay ++ [f] }).spend o
  (s.setPort n (p.transmit f)).record o

/-! ### The crossings into the optical engines (R62, R63, R537) -/

def oePorts (e : Nat) : List Nat := (List.range 4).map (fun k => 4 * e + k)

/-- What the FAB → OE crossing of an engine holds. -/
def State.crossingLoad (s : State) (e : Nat) : Nat := (oePorts e).foldl (fun k n => k + (s.port n).queue.length) 0

def State.egressOf (s : State) (e : Nat) : List (Nat × FabOut) := Tab.get s.spetar.egress [] e

def State.setEgress (s : State) (e : Nat) (l : List (Nat × FabOut)) : State :=
  { s with spetar := { s.spetar with egress := Tab.set s.spetar.egress [] e l } }

def State.pushQueue (s : State) (n : Nat) (o : FabOut) : State :=
  let p := s.port n
  s.setPort n { p with queue := p.queue ++ [o] }

/-- An engine's crossing takes an item for a port: the port is ACTIVE, or its synthesiser settles or calibrates, and fewer than 64 items
wait (R62, R537, R544). -/
def State.crossingTakes (s : State) (n : Nat) : Bool :=
  (s.portActive n || (s.port n).state == .settling || (s.port n).state == .calibrating) && decide (s.crossingLoad (n / 4) < 64)

/-- An item for an island in RESET_FAILED is discarded and counted (R91). -/
def State.countDrop (s : State) (d : Island) (k : Nat) : State := s.setIsland d { s.island d with drop := satAdd64 (s.island d).drop k }

/-- Queue a frame for a port: in its engine's crossing, or in FAB where the crossing does not take it. [log 147 DEDUCED] -/
def State.enqueue (s : State) (n : Nat) (o : FabOut) : State :=
  let d : Island := .oe (Fin.ofNat 4 (n / 4))
  if (s.island d).state = .resetFailed then s.countDrop d 1
  else if s.crossingTakes n then s.pushQueue n o
  else s.setEgress (n / 4) (s.egressOf (n / 4) ++ [(n, o)])

/-- A frame of the same channel waits for the port. -/
def State.channelWaits (s : State) (n c : Nat) : Bool :=
  (s.port n).queue.any (fun x => x.channel == c) || (s.egressOf (n / 4)).any (fun y => y.1 == n && y.2.channel == c)

/-- Send over Spetar: at once, or from the port's queue when it can. What comes from FAB goes through the engine's crossing, and waits in
FAB behind a full one (R62); PAUSE and UNPAUSE begin in the engine. -/
def State.emit (s : State) (o : FabOut) : State :=
  match o.port? s.graft.port with
  | none => s.record o
  | some n =>
    if s.maySend n o && !s.channelWaits n o.channel && (o.isPause || decide (s.crossingLoad (n / 4) < 64)) then s.sendFrame n o
    else if o.isPause then s.pushQueue n o
    else s.enqueue n o

/-- EXPIRY of a packet first sent at `t` (Table 17.2). -/
def expiryOf (t : Nat) : Nat := (t + 2000000) / 1024 % 2 ^ 32

/-- Unacknowledged request bytes on channels 0 and 2 to a destination (R590). -/
def Dest.inFlight (r : Dest) : Nat :=
  List.foldl (fun n (y : Nat × Outstanding) => if y.2.header.vc = 3 then n else n + y.2.bytes) 0 r.out

/-- Whether the sequence numbers let another request go (R573): the newest less than 32,768 above the oldest. -/
def Dest.psnRoom (r : Dest) : Bool :=
  List.all r.out (fun (y : Nat × Outstanding) => decide ((r.nextPsn + 2 ^ 32 - y.1) % 2 ^ 32 < 32768))

/-- What a request shows on the wire: a packet, or the message it carries. -/
def wireOf (port : Nat) (o : Outstanding) : FabOut :=
  match o.purpose with
  | .roundMsg _ m => .message port o.header m
  | .message m => .message port o.header m
  | _ => .packet (some port) o.header o.payload

/-- The intermediate group a first transmission takes: diverted traffic goes non-minimal (Table 17.6, R569). -/
def State.pickRoute (s : State) (d serial : Nat) : Option Route × State :=
  match s.spetar.fid with
  | none => (none, s)
  | some f =>
    if (s.dest d).diverted.isSome && s.spetar.nonMinimal then
      let rs := nonMinimalRoutes s.topology f d
      match rs with
      | [] => (firstRoute s.topology f d serial, s)
      | _ => (rs[s.spetar.nextVia % rs.length]?, { s with spetar := { s.spetar with nextVia := s.spetar.nextVia + 1 } })
    else (firstRoute s.topology f d serial, s)

/-- Send a request now: the next PSN of the pair, EXPIRY, a route; it is then outstanding. -/
def State.transmit (s : State) (d : Nat) (o : Outstanding) : State :=
  let (r?, s) := s.pickRoute d o.serial
  let r := r?.getD { port := 0, via := none, hops := 0 }
  let q := s.dest d
  let o' := { o with
    header := { o.header with psn := q.nextPsn, expiry := expiryOf s.now, via := r.via, src := s.spetar.fid.getD 0, dst := d }
    firstSend := s.now, lastSend := s.now, route := (r.port, r.via), tag := s.sourceTag .fe }
  (s.setDest d { q with nextPsn := (q.nextPsn + 1) % 2 ^ 32, out := Tab.insert q.out q.nextPsn o' }) |> fun s => if r?.isSome then s.emit (wireOf r.port o') else s

/-- Send waiting requests to `d`, oldest first, while the congestion window and the sequence numbers allow. -/
def State.pumpAux (s : State) (d : Nat) : Nat → State
  | 0 => s
  | fuel + 1 =>
    let q := s.dest d
    match q.unsent with
    | [] => s
    | o :: t =>
      if q.psnRoom && (q.inFlight = 0 || q.inFlight + o.bytes ≤ q.window) then
        ((s.setDest d { q with unsent := t }).transmit d o).pumpAux d fuel
      else s

def State.pump (s : State) (d : Nat) : State := s.pumpAux d (s.dest d).unsent.length

/-- Hand requests to the source side of the fabric: channel 3 goes at once, the others in order as R590 allows. -/
def State.sendRequests (s : State) (d : Nat) (os : List Outstanding) : State :=
  let s := (os.filter (fun o => o.header.vc == 3 || o.header.type == .signal || o.header.type == .probe)).foldl
    (fun s o => s.transmit d o) s
  let q := s.dest d
  (s.setDest d { q with unsent := q.unsent ++ os.filter (fun o => !(o.header.vc == 3 || o.header.type == .signal || o.header.type == .probe)) }).pump d

/-- What a Trellis message names (R502); none for a message of another kind. -/
def RoundMsg.tree? : RoundMsg → Option TreeId
  | .join x _ _ => some x
  | .bitmap x _ _ _ => some x
  | .propose x _ _ _ => some x
  | .proposeAnswer x _ _ => some x
  | .result x _ _ _ => some x
  | .barrierStart x _ _ _ => some x
  | .barrierJoin x _ _ _ _ => some x
  | .barrierResult x _ _ => some x
  | .leave x _ => some x
  | .sumUp x _ _ _ _ _ => some x
  | .sumDown x _ _ _ _ => some x
  | .sumFail x _ _ => some x
  | .credit x _ _ => some x
  | .dissolved x => some x
  | _ => none

/-- The partition whose message a ROUND packet carries; none for what belongs to the devices alone. -/
def RoundMsg.part (m : RoundMsg) : Option Nat :=
  match RoundMsg.tree? m with
  | some x => some x.part
  | none => match m with
    | .openRequest p _ _ _ _ => some p
    | .openKey p _ _ _ _ => some p
    | .partner p _ _ => some p
    | .openRefuse p _ _ _ => some p
    | .codedKey p _ _ _ => some p
    | .homeMap p _ _ _ _ => some p
    | .record p _ _ _ => some p
    | .recordOutcome p _ _ _ => some p
    | .mark p _ _ _ => some p
    | .markAck p _ _ _ => some p
    | .stateChange p _ _ _ => some p
    | .abort p _ _ => some p
    | _ => none

def ReqPurpose.msg? : ReqPurpose → Option RoundMsg
  | .roundMsg _ m => some m
  | .message m => some m
  | _ => none

/-- The channel of a message (R571, Table 17.3); a lease renewal and its acknowledgement go as control (R615). -/
def RoundMsg.channel : RoundMsg → Nat
  | .renewal _ _ _ _ => 3
  | .renewalAck _ _ _ => 3
  | _ => 2

/-- The header of a ROUND packet (R571, R572): SRC_PART and COLD are those of the message's partition, as FAB sets them. -/
def State.roundHeader (s : State) (d : Nat) (why : ReqPurpose) : FabHeader :=
  let p := (why.msg?.bind RoundMsg.part).map (Fin.ofNat 64)
  { type := .round, src := s.spetar.fid.getD 0, dst := d, vc := ((why.msg?.map RoundMsg.channel).getD 2), srcPart := (p.map (·.val)).getD 0, cold := (p.map s.isCold).getD false, last := true }

/-- Send a message between devices as a ROUND packet. -/
def State.sendMsgNow (s : State) (d : Nat) (why : ReqPurpose) : State :=
  let o : Outstanding := { header := s.roundHeader d why, payload := [], bytes := 24, serial := s.spetar.serial, purpose := why }
  ({ s with spetar := { s.spetar with serial := s.spetar.serial + 1 } }).sendRequests d [o]

/-- The device may send requests: it holds a fabric ID and is qualified (R582, R589). -/
def State.maySendAny (s : State) : Bool := s.time.qualified && s.spetar.fid.isSome

/-- A command of the round would send, and the device may not yet (R582). -/
def State.muted (s : State) (r : Round) : Bool :=
  r.policy.fabric && !r.shadow && decide (1 < r.participants.length) && !s.maySendAny

/-- The fabric ID of the seal token's holder; a substituted place answers under its substitute's ID (R630, R631). [log 72 DEDUCED] -/
def Round.holderFid (r : Round) : Nat := Tab.get r.replaced r.tokenHolder r.tokenHolder

/-- A HELD primary sends no round message until its lease holds again (R616). -/
def State.sendMsg (s : State) (d : Nat) (why : ReqPurpose) : State :=
  if s.graft.role = .held then { s with graft := { s.graft with deferred := s.graft.deferred ++ [(d, why)] } } else s.sendMsgNow d why

/-- Send a round's message to each of some participants; a substituted one's place is taken by its substitute (R630); a shadow
sends none. -/
def State.sendRound (s : State) (entry : Nat) (ds : List Nat) (m : RoundMsg) : State :=
  match Tab.find? s.rounds.table entry with
  | none => s
  | some r => if r.shadow then s else ds.foldl (fun s d => s.sendMsg (Tab.get r.replaced d d) (.roundMsg entry m)) s

/-! ### The mirror stream (R619, R620) -/

/-- This primary mirrors round `e`. -/
def State.mirroring (s : State) (e : Nat) : Bool :=
  s.graft.state == .mirroring && s.graft.role == .primary && s.graft.mirrorRounds.contains e

/-- The header of what goes to the graft partner over the graft port: no rule numbers it, nor says when it expires. [log 145 DEDUCED] -/
def State.pairHeader (s : State) (d : Nat) : FabHeader :=
  { type := .round, src := s.spetar.fid.getD 0, dst := d, vc := 2, psn := Config.headerField 2, expiry := Config.headerField 3, last := true }

/-- Send a message to the graft partner. -/
def State.toPartner (s : State) (d : Nat) (m : RoundMsg) : State := s.emit (.graft (s.pairHeader d) m)

/-- Send the next mirror item; `wait` is what its acknowledgement releases. [log 70 DEDUCED] -/
def State.sendMirror (s : State) (item : MirrorItem) (wait : MirrorWait) : State :=
  let n := s.graft.nextSeq
  ({ s with graft := { s.graft with nextSeq := n + 1, waits := Tab.insert s.graft.waits n wait } }).emit (.mirror (s.pairHeader s.graft.partner) n s.graft.epoch item)

/-- The round is mirrored no more; its secondary scrubs the shadow (R614, R620). [log 70 DEDUCED] -/
def State.endMirror (s : State) (e : Nat) : State :=
  match Tab.find? s.rounds.table e with
  | none => s
  | some r =>
    if !s.mirroring e then s
    else
      let s := s.sendMirror (.unmirror r.part.val r.id) .nothing
      { s with graft := { s.graft with mirrorRounds := s.graft.mirrorRounds.filter (· != e) } }

/-- A round becomes unmirrored: counted, its cause latched on PF vector 6 (R620). [log 70 DEDUCED] -/
def State.unmirror (s : State) (e : Nat) : State :=
  if !s.mirroring e then s
  else
    let s := s.endMirror e
    { s with graft := { s.graft with unmirrored := satAdd32 s.graft.unmirrored 1 } }.raisePf .graft

/-- The round of a partition, shadows apart. -/
def State.roundNamed (s : State) (p : Fin 64) (id : Nat) : Option Nat :=
  List.findSome? (fun (y : Nat × Round) => if y.2.part = p && y.2.id.toNat = id && !y.2.shadow then some y.1 else none) s.rounds.table

/-- The mirror item whose acknowledgement a command waits for. [log 70 DEDUCED] -/
def State.mirrorOf (s : State) (src : Source) (id : Nat) : Option (Nat × Nat) :=
  List.findSome? (fun (y : Nat × MirrorWait) => match y.2 with
    | .command a b r => if a == src && b == id then some (y.1, r) else none
    | _ => none) s.graft.waits

def State.dropWait (s : State) (n : Nat) : State :=
  { s with graft := { s.graft with waits := Tab.erase s.graft.waits n, acked := Tab.erase s.graft.acked n } }

/-- Drop the outstanding and waiting requests that satisfy `p`. -/
def State.dropRequests (s : State) (p : Outstanding → Bool) : State :=
  { s with spetar := { s.spetar with dests := Tab.map (fun _ (q : Dest) =>
      { q with out := Tab.filter (fun _ o => !p o) q.out, unsent := q.unsent.filter (fun o => !p o) }) s.spetar.dests } }

end Sys2Proof.Machine
end

