-- ==== Sys2Proof/Machine/Operands.lean ====
section
/-!
DEFINITION. The operands of a command packet: the header of Table 5.2, its FLAGS, the parameter words, the value checks
of R167's stages 1 and 3 with their order (R168, R170), and the encoder of the header.
-/

namespace Sys2Proof.Machine
open Sys2Proof

/-- The header of Table 5.2 as its fields. -/
structure Header where
  op : BitVec 16
  flags : BitVec 8
  size : Bool
  indMask : BitVec 7
  tag : BitVec 32
  waitFence : BitVec 12
  waitSel : BitVec 4
  rsvd80 : BitVec 16
  sigFence : BitVec 12
  sigRemote : Bool
  sigWindow : BitVec 8
  sigFabric : BitVec 9
  rsvd126 : BitVec 2
deriving DecidableEq, Repr

/-- The fields of the 16 header bytes (R154): OPERATION and CLASS in [15:0], FLAGS in [23:16], SIZE in [24], IND_MASK in
[31:25], TAG in [63:32], WAIT_FENCE in [75:64], WAIT_SEL in [79:76], SIG_FENCE in [107:96], SIG_REMOTE in [108],
SIG_WINDOW in [116:109], SIG_FABRIC_ID in [125:117]. -/
def decodeHeader (h : BitVec 128) : Header where
  op := h.extractLsb' 0 16
  flags := h.extractLsb' 16 8
  size := h.getLsbD 24
  indMask := h.extractLsb' 25 7
  tag := h.extractLsb' 32 32
  waitFence := h.extractLsb' 64 12
  waitSel := h.extractLsb' 76 4
  rsvd80 := h.extractLsb' 80 16
  sigFence := h.extractLsb' 96 12
  sigRemote := h.getLsbD 108
  sigWindow := h.extractLsb' 109 8
  sigFabric := h.extractLsb' 117 9
  rsvd126 := h.extractLsb' 126 2

/-- The header bytes of a header's fields. -/
def encodeHeader (h : Header) : BitVec 128 :=
  (h.rsvd126 ++ h.sigFabric ++ h.sigWindow ++ BitVec.ofBool h.sigRemote ++ h.sigFence ++ h.rsvd80 ++ h.waitSel ++
    h.waitFence ++ h.tag ++ h.indMask ++ BitVec.ofBool h.size ++ h.flags ++ h.op : BitVec 128)

def Header.indirect (h : Header) : Bool := h.flags.getLsbD 0
def Header.wait (h : Header) : Bool := h.flags.getLsbD 1
def Header.signal (h : Header) : Bool := h.flags.getLsbD 2
def Header.interrupt (h : Header) : Bool := h.flags.getLsbD 3
def Header.barrier (h : Header) : Bool := h.flags.getLsbD 4
def Header.chain (h : Header) : Bool := h.flags.getLsbD 5

end Sys2Proof.Machine

namespace Sys2Proof
open Sys2Proof.Machine

/-- The header of a packet. -/
def Packet.header (p : Packet) : Header := decodeHeader p.hdr

/-- Word Pn of a packet; a word it does not have reads 0. -/
def Packet.word (p : Packet) (n : Nat) : Nat := (p.params.getD n 0).toNat

/-- The number of parameter words of a packet's size (R153, R154). -/
def Packet.words (p : Packet) : Nat := if p.header.size then 28 else 12

/-- The packet of a row: its CLASS and OPERATION bytes are those of the row's opcode. -/
def Packet.withOp (p : Packet) (code : Nat) : Packet :=
  { p with hdr := (p.hdr &&& ~~~(BitVec.ofNat 128 0xFFFF)) ||| BitVec.ofNat 128 code }

/-- A queue's number: 16p + q, or 1,024 + k for CPQ_k. -/
def QueueId.key : QueueId → Nat
  | .part p q => 16 * p.val + q.val
  | .cp k => 1024 + k.val

end Sys2Proof

namespace Sys2Proof.Machine
open Sys2Proof

/-- The packet of 64 or 128 bytes of ring slots (R153, R154). -/
def packetOf (b : Bytes) : Packet :=
  { hdr := BitVec.ofNat 128 (leNat (b.take 16)), params := wordsOf (b.drop 16) }

/-- Parameter words after indirection, as numbers. [log 85 DEDUCED] -/
abbrev Params := Nat → Nat

/-- The 64-bit value of the pair whose first word is `n`. -/
def pair (w : Params) (n : Nat) : Nat := w n + 2 ^ 32 * w (n + 1)

/-- One value check of a packet: the words it reads, the word RESULT_0 names, the status, and when it fails. -/
structure Check where
  words : List Nat
  name : Nat
  status : Status
  fails : Params → Bool

/-- A check that word `n` satisfies `ok`. -/
def Check.word (n : Nat) (st : Status) (fails : Nat → Bool) : Check :=
  { words := [n], name := n, status := st, fails := fun w => fails (w n) }

/-- A check on the 64-bit value of pair `n`. -/
def Check.pair64 (n : Nat) (st : Status) (fails : Nat → Bool) : Check :=
  { words := [n, n + 1], name := n, status := st, fails := fun w => fails (pair w n) }

/-- A word that its table gives bits `mask` alone (R175). -/
def Check.mask (n mask : Nat) : Check := .word n .badParam (fun v => v &&& (0xFFFFFFFF - mask) != 0)

/-- A word unused under `used = false` (R175): it must be 0. [log 85 DEDUCED] -/
def Check.unusedUnless (n : Nat) (deps : List Nat) (used : Params → Bool) : Check :=
  { words := n :: deps, name := n, status := .badParam, fails := fun w => !used w && w n != 0 }

/-- An address in pair `n` aligned to `al`, with bits [63:48] zero (R177). -/
def Check.addr (n al : Nat) : Check := .pair64 n .badParam (fun v => v ≥ 2 ^ 48 || v % al != 0)

/-- A device range whose address is pair `n` and whose length the words `lw` give: it ends at or below 2^48 (R177). -/
def Check.range48 (n : Nat) (lw : List Nat) (len : Params → Nat) : Check :=
  { words := [n, n + 1] ++ lw, name := n, status := .badParam, fails := fun w => pair w n + len w > 2 ^ 48 }

/-- The failing check that R168 and R170 choose among `cs`: lowest rank, then a header field (0x1F) before any word,
then the lowest word. -/
def worse (a b : Status × Nat) : Bool :=
  let key (x : Status × Nat) : Nat := x.1.rank * 64 + (if x.2 = 0x1F then 0 else x.2 + 1)
  key b < key a

/-- Log 34 DEDUCED. -/
def pickFail : List (Status × Nat) → Option (Status × Nat)
  | [] => none
  | a :: t =>
    match pickFail t with
    | none => some a
    | some b => if worse a b then some b else some a

/-- Log 34 DEDUCED. -/
def failing (w : Params) (cs : List Check) : List (Status × Nat) :=
  cs.filterMap (fun c => if c.fails w then some (c.status, c.name) else none)

/-- What the table of an opcode gives (Tables 5.5 to 5.17): packet size, callers, whether INDIRECT is allowed, the words
it uses, the value checks of its parameters, and those that depend on the caller (R166). -/
structure OpSpec where
  code : Nat
  big : Bool := false
  callP : Bool := false
  callC : Bool := false
  callM : Bool := false
  noIndirect : Bool := false
  used : List Nat := []
  checks : List Check := []
  own : Source → List Check := fun _ => []

/-- The value checks of a caller's packet. -/
def OpSpec.checksFor (sp : OpSpec) (src : Source) : List Check := sp.checks ++ sp.own src

def OpSpec.allows (sp : OpSpec) : Source → Bool
  | .part _ _ => sp.callP
  | .cp _ => sp.callC
  | .mgmt _ => sp.callM

end Sys2Proof.Machine
end

