-- ==== Sys2Proof/Machine/Cmd.lean ====
section
/-!
DEFINITION. Queues, fences, leases and the course of a command: the stages of R167, waits, chains, dispatch, completion
and the completion record (ch. 5, ch. 6).
-/

namespace Sys2Proof.Machine
open Sys2Proof

/-! ### Queues -/

def srcKey : Source → Nat
  | .part p q => 16 * p.val + q.val
  | .cp k => 1024 + k.val
  | .mgmt t => 1040 + t.val

def srcOfKey (n : Nat) : Source :=
  if n < 1024 then .part (Fin.ofNat 64 (n / 16)) (Fin.ofNat 16 n)
  else if n < 1040 then .cp (Fin.ofNat 16 (n - 1024))
  else .mgmt (Fin.ofNat 4 (n - 1040))

def queueSrc : QueueId → Source
  | .part p q => .part p q
  | .cp k => .cp k

/-- A queue record with the reset values of Tables 26.6 and 27.5. -/
def freshQueue (n : Nat) : Queue :=
  { cmdLog2 := 12, cqLog2 := 12, vector := if n < 1024 then 1 + n % 16 % 15 else 16 }

def State.queue (s : State) (src : Source) : Queue := Tab.get s.q.queues (freshQueue (srcKey src)) (srcKey src)

def State.setQueue (s : State) (src : Source) (r : Queue) : State :=
  { s with q := { s.q with queues := Tab.insert s.q.queues (srcKey src) r } }

def State.modQueue (s : State) (src : Source) (f : Queue → Queue) : State := s.setQueue src (f (s.queue src))

/-! ### Commands in flight -/

def State.cmdsOf (s : State) (src : Source) : List Cmd := s.q.cmds.filter (fun c => c.src == src && c.mirrored.isNone)

def State.cmd? (s : State) (src : Source) (id : Nat) : Option Cmd := s.q.cmds.find? (fun c => c.src == src && c.id == id)

def State.setCmds (s : State) (l : List Cmd) : State := { s with q := { s.q with cmds := l } }

def State.modCmd (s : State) (src : Source) (id : Nat) (f : Cmd → Cmd) : State :=
  s.setCmds (s.q.cmds.map (fun c => if c.src == src && c.id == id then f c else c))

def State.removeCmd (s : State) (src : Source) (id : Nat) : State :=
  s.setCmds (s.q.cmds.filter (fun c => !(c.src == src && c.id == id)))

def Phase.isDone : Phase → Bool
  | .done _ _ _ _ => true
  | _ => false

/-- Not dispatched yet. -/
def Phase.undispatched : Phase → Bool
  | .waiting => true
  | .ready => true
  | _ => false

def Phase.isExecuting : Phase → Bool
  | .executing _ => true
  | .signalling _ _ => true
  | .done _ _ _ _ => true
  | _ => false

/-! ### Fences and leases -/

/-- Fence `f` of the caller's space: a partition's at 4096p + f, the control plane's at 262144 + f (Table 5.16). -/
def fenceKey (p : Option (Fin 64)) (f : Nat) : Nat :=
  match p with
  | some p => 4096 * p.val + f
  | none => 262144 + f

/-- Log 132 DESIGN CHOICE. -/
def State.fence (s : State) (k : Nat) : W64 := Tab.get s.q.fences 0 k

def leaseKey (cls idx : Nat) : Nat := cls * 2 ^ 20 + idx

def State.lease? (s : State) (cls idx : Nat) : Option Lease := Tab.find? s.q.leases (leaseKey cls idx)

def State.setLease (s : State) (cls idx : Nat) (l : Lease) : State :=
  { s with q := { s.q with leases := Tab.insert s.q.leases (leaseKey cls idx) l } }

def State.dropLease (s : State) (cls idx : Nat) : State :=
  { s with q := { s.q with leases := Tab.erase s.q.leases (leaseKey cls idx) } }

def State.taskOf (s : State) (t : TaskId) : Task := Tab.get s.q.tasks {} (8 * t.part.val + t.slot.val)

def State.setTask (s : State) (t : TaskId) (r : Task) : State :=
  { s with q := { s.q with tasks := Tab.set s.q.tasks {} (8 * t.part.val + t.slot.val) r } }

def State.agentEpoch (s : State) : Agent → W16
  | .queue q => (s.queue (queueSrc q)).epoch
  | .task t => (s.taskOf t).epoch

/-- The agent that owns a fence as exclusive writer, if any (R216). -/
def State.fenceOwner (s : State) (k : Nat) : Option Agent :=
  match s.lease? 4 k with
  | some l => match l.holder with
    | .agent a _ => some a
    | _ => none
  | none => none

/-- Whether `a` may change fence `k`: nobody owns it, or `a` does (R216). [log 18 DEDUCED] -/
def State.mayWriteFence (s : State) (k : Nat) (a : Option Agent) : Bool :=
  match s.fenceOwner k with
  | none => true
  | some o => a == some o

/-- Slots in a command ring of 2^log2 bytes. -/
def slotsOf (log2 : Nat) : Nat := 2 ^ (log2 - 6)

/-- A new tail offered to a queue (R201, R232). -/
def Queue.offer (q : Queue) (t : W32) : Queue :=
  let d := (t - q.head).toNat
  if slotsOf q.cmdLog2 < d then
    if q.stop = .none then { q with stop := .doorbellOverrun, fetching := none }
    else { q with ignored := satAdd32 q.ignored 1 }
  else if d < (q.tail - q.head).toNat then { q with ignored := satAdd32 q.ignored 1 }
  else { q with tail := t }

/-- The tail a fence gives a queue whose TAIL_SOURCE is FENCE (R202). -/
def fenceTail (v base : W64) : W32 := (v - base).setWidth 32

/-- A task that sleeps wakes. -/
def Task.wake (t : Task) : Task := { t with state := .running, wait := {} }

/-- Wake a task that sleeps on fence `k` when its value `v` meets the threshold (R215, R219). -/
def wakeOnFence (k : Nat) (v : W64) (n : Nat) (t : Task) : Task :=
  if t.state = .waiting && t.wait.fences.any (fun (f, lim) => 4096 * (n / 8) + f == k && decide (lim ≤ v.toNat)) then t.wake else t

/-- What queue `n` makes of fence `k` at value `v`: the fence feeds it where its TAIL_SOURCE names it (R202). -/
def feed (k : Nat) (v : W64) (n : Nat) (q : Queue) : Queue :=
  match q.tailFence with
  | some f => if q.enable && (if n < 1024 then 4096 * (n / 16) else 262144) + f == k then q.offer (fenceTail v q.base) else q
  | none => q

/-- The resident task of number `n`. -/
def taskOfNum (n : Nat) : TaskId := { part := Fin.ofNat 64 (n / 8), slot := Fin.ofNat 8 n }

/-- Change every task by `f`: one that thereby wakes has completed its WAIT, which counts for its progress (R219, R222). -/
def State.wakeTasks (s : State) (f : Nat → Task → Task) : State :=
  let woken := Tab.filter (fun n t => t.state == .waiting && (f n t).state == .running) s.q.tasks
  let y := List.foldl (fun y (x : Nat × Task) => addProgress (.task (taskOfNum x.1)) 1 y) (s.q.progress, s.freeCtr) woken
  { s with q := { s.q with tasks := Tab.map f s.q.tasks, progress := y.1 }, freeCtr := y.2 }

/-- Set a fence: take the tail of every enabled queue it feeds again, and wake the tasks whose threshold it meets (R202,
R212, R215). -/
def State.setFence (s : State) (k : Nat) (v : W64) : State :=
  { s with q := { s.q with
      fences := Tab.set s.q.fences 0 k v
      queues := Tab.map (feed k v) s.q.queues } }.wakeTasks (wakeOnFence k v)

/-- What a fence holds after ADD or MAX; `none` where ADD would pass 2^64 − 1. -/
def fenceAfter (v : W64) (op : FenceOp) (x : W64) : Option W64 :=
  match op with
  | .add => if v.toNat + x.toNat < 2 ^ 64 then some (v + x) else none
  | .max => some (if v.toNat < x.toNat then x else v)

/-- Apply ADD or MAX to a fence as agent `a`: OK, RANGE or NOT_PERMITTED (R213, R214, R216). -/
def State.signalFence (s : State) (k : Nat) (op : FenceOp) (x : W64) (a : Option Agent) : Status × State :=
  if !s.mayWriteFence k a then (.notPermitted, s)
  else match fenceAfter (s.fence k) op x with
    | none => (.range, s)
    | some v => (.ok, s.setFence k v)

/-- Bump an agent's epoch (R196). -/
def State.bumpAgent (s : State) : Agent → State
  | .queue q => s.modQueue (queueSrc q) (fun r => { r with epoch := nextEpoch r.epoch })
  | .task t => s.setTask t { s.taskOf t with epoch := nextEpoch (s.taskOf t).epoch }

/-! ### Stage 1 (R155, R163, R165, R167, R171, R175) -/

/-- Pairs marked indirect. -/
def Header.marked (h : Header) : List Nat := (List.range 7).filter (fun j => h.indMask.getLsbD j)

/-- Form checks of the header alone. -/
def headerFails (sp : OpSpec) (src : Source) (p : Packet) : List (Status × Nat) :=
  let h := p.header
  let bad (b : Bool) : List (Status × Nat) := if b then [(.badParam, 0x1F)] else []
  (if sp.allows src then [] else [(.notPermitted, 0x1F)]) ++
  bad (h.size != sp.big) ++ bad (h.flags.toNat / 64 != 0) ++ bad (h.rsvd80 != 0 || h.rsvd126 != 0) ++
  bad (!h.wait && (h.waitFence != 0 || h.waitSel != 0)) ++
  bad (!h.signal && (h.sigFence != 0 || h.sigRemote || h.sigWindow != 0 || h.sigFabric != 0)) ++
  bad (h.signal && !h.sigRemote && (h.sigWindow != 0 || h.sigFabric != 0)) ++
  bad (h.indirect != (h.indMask != 0)) ++
  bad (h.indirect && sp.noIndirect) ++
  (match src with
   | .mgmt _ => bad (h.flags != 0)
   | _ => []) ++
  bad (h.wait && (2 * h.waitSel.toNat + 1 ≥ p.words || sp.used.contains (2 * h.waitSel.toNat) ||
    sp.used.contains (2 * h.waitSel.toNat + 1) || h.marked.contains h.waitSel.toNat)) ++
  bad (h.marked.any (fun j => 2 * j + 1 ≥ p.words || !(sp.used.contains (2 * j) || sp.used.contains (2 * j + 1))))

/-- Words of marked pairs. -/
def Header.indWords (h : Header) : List Nat := h.marked.flatMap (fun j => [2 * j, 2 * j + 1])

/-- Words among `ns` that the opcode does not list and that are not zero (R175). -/
def unlisted (sp : OpSpec) (w : Params) (ns : List Nat) : List (Status × Nat) :=
  (ns.filter (fun n => !sp.used.contains n && w n != 0)).map (fun n => (.badParam, n))

/-- The unlisted words of a packet at stage 1: the WAIT_SEL pair holds a threshold, a marked pair an address (R157, R171, R175). -/
def unusedFails (sp : OpSpec) (p : Packet) : List (Status × Nat) :=
  let h := p.header
  let waits := if h.wait then [2 * h.waitSel.toNat, 2 * h.waitSel.toNat + 1] else []
  unlisted sp p.word ((List.range p.words).filter (fun n => !waits.contains n && !h.indWords.contains n))

/-- Misaligned or non-canonical indirect addresses (R173). -/
def indirectFails (p : Packet) : List (Status × Nat) :=
  (p.header.marked.filter (fun j => pair p.word (2 * j) % 8 != 0 || pair p.word (2 * j) ≥ 2 ^ 48)).map (fun j => (.badParam, 2 * j))

/-- Value checks of the words that are not indirect. [log 34 DEDUCED] -/
def directFails (sp : OpSpec) (src : Source) (p : Packet) : List (Status × Nat) :=
  let ind := p.header.indWords
  failing p.word ((sp.checksFor src).filter (fun c => !c.words.any ind.contains))

/-- RESULT_0 of a rejection (R170): the offending word where the status names one. -/
def rejectResults (st : Status) (n : Nat) : List W32 :=
  match st with
  | .badParam => [w32 n]
  | .range => [w32 n]
  | .translationFault => [w32 n]
  | _ => []

/-- RESULT_0 where a range is refused (R164, R170): NOT_PERMITTED too names the address word. [log 19 DEDUCED] -/
def rangeResults (st : Status) (n : Nat) : List W32 :=
  match st with
  | .notPermitted => [w32 n]
  | _ => rejectResults st n

/-! ### Completion -/

/-- SIGNAL is honoured when its fields pass their own checks (R169). -/
def Header.signalForm (h : Header) : Bool :=
  h.signal && h.rsvd126 == 0 && (h.sigRemote || (h.sigWindow == 0 && h.sigFabric == 0))

/-- The local fence a command's header signals, if any. -/
def Cmd.localSignal (c : Cmd) : Option Nat :=
  if c.readable && c.pkt.header.signalForm && !c.pkt.header.sigRemote then
    some (fenceKey (srcPart c.src) c.pkt.header.sigFence.toNat)
  else none

/-- What a command's local signal meets now: OK where there is none. -/
def State.signalMeets (s : State) (c : Cmd) : Status :=
  match c.localSignal with
  | none => .ok
  | some k => (s.signalFence k .add 1 (srcAgent c.src)).1

/-- What the record carries when the local signal cannot be applied: RANGE (R214) or NOT_PERMITTED (R216) in place of
OK. -/
def State.signalStatus (s : State) (c : Cmd) (st : Status) : Status := if st = .ok then s.signalMeets c else st

/-- A signal that is refused is never applied afterwards (R214, R216). -/
def State.signalRefused (s : State) (c : Cmd) : Bool := s.signalMeets c != .ok

/-- Move a command to its completed phase, with what becomes of its local signal decided; its queue remembers the outcome for a CHAIN
successor not yet fetched (R162). -/
def State.settle (s : State) (src : Source) (id : Nat) (st : Status) (res : List W32) : State :=
  let st' := ((s.cmd? src id).map (fun c => s.signalStatus c st)).getD st
  let ref := ((s.cmd? src id).map s.signalRefused).getD false
  let ord := s.q.doneOrd
  let s := s.modCmd src id (fun c => { c with phase := .done ord st' res s.now, sigRefused := c.sigRefused || ref })
  let s := { s with q := { s.q with doneOrd := ord + 1 } }
  s.modQueue src (fun q => match q.last with
    | some l => if l.id = id then { q with last := some { l with outcome := some (decide (st' = .ok)) } } else q
    | none => q)

/-- Whether a command completed with OK. [log 38 DEDUCED] -/
def State.endedOk (s : State) (src : Source) (id : Nat) : Bool :=
  match s.cmd? src id with
  | some c => (match c.phase with
    | .done _ .ok _ _ => true
    | _ => false)
  | none => false

/-- The serial number of a command (R568, Table 14.3). [log 157 DEDUCED] -/
def State.serialOf (s : State) (src : Source) (id : Nat) : Nat := ((s.cmd? src id).map (fun (c : Cmd) => c.serial)).getD 0

/-- The next serial number of a caller's partition (Table 14.3). [log 157 DEDUCED] -/
def Queues.serial (b : Queues) (src : Source) : Nat := ((srcPart src).map (fun p => Tab.get b.serials 0 p.val)).getD 0

/-- The serial numbers once a command of `src` has taken its own. [log 157 DEDUCED] -/
def Queues.nextSerials (b : Queues) (src : Source) : Tab Nat :=
  match srcPart src with
  | none => b.serials
  | some p => Tab.insert b.serials p.val ((Tab.get b.serials 0 p.val + 1) % 2 ^ 32)

/-- A SIGNAL request: fence and operation through a window of another device (Table 17.3). -/
def signalRequest (s : State) (src : Source) (id dest win fence : Nat) (op : FenceOp) (v : Nat) (why : ReqPurpose) : Outstanding :=
  let opn : Nat := match op with
    | .add => 0
    | .max => 1
  let h : FabHeader :=
    { type := .signal, src := s.spetar.fid.getD 0, dst := dest, srcPart := ((srcPart src).map (·.val)).getD 0,
      cold := ((srcPart src).map s.isCold).getD false, window := win, op := opn, offset := fence, last := true, vc := 3 }
  { header := h, payload := leBytes 8 v, bytes := 8, serial := s.serialOf src id, purpose := why }

/-- The partition of this device that owns window `win` for the given peer: windows are numbered per partition, so the
owner is the one whose window names the requester (R575). [log 24 DEDUCED] -/
def State.windowOwner (s : State) (win src srcPart : Nat) : Option (Fin 64 × Window) :=
  List.findSome? (fun (y : Nat × Window) =>
    if y.1 % 256 = win && y.2.peer = src && y.2.peerPart = srcPart then some (Fin.ofNat 64 (y.1 / 256), y.2) else none) s.spetar.windows

/-- A remote signal at its target (R575, R577, R597, R234): through a window that is open, names the requester and grants
SIGNAL, between partitions alike in the cold frame, its owner not in FLR; anything else is refused with NOT_PERMITTED. -/
def State.windowSignal (s : State) (src srcPart : Nat) (cold : Bool) (win fence : Nat) (op : FenceOp) (v : W64) : Status × State :=
  match s.windowOwner win src srcPart with
  | none => (.notPermitted, s)
  | some (p, w) =>
    if w.closing.isNone && w.signal && s.isCold p == cold && !s.flrActive p then s.signalFence (fenceKey (some p) fence) op v none
    else (.notPermitted, s)

/-- The remote signal of a command that ends with `st` (R158 to R160, R169): the status the command ends with, or `none` while the
acknowledgement is awaited. A target without a live route gives LINK_DOWN. [log 163 DESIGN CHOICE] -/
def State.endSignal (s : State) (src : Source) (id : Nat) (st : Status) (res : List W32) : Option Status × State :=
  match s.cmd? src id with
  | none => (some st, s)
  | some c =>
    let h := c.pkt.header
    if c.readable && h.signalForm && h.sigRemote then
      let d := h.sigFabric.toNat
      let orElse (x : Status) : Status := if st = .ok then x else st
      match srcPart src with
      | none => (some (orElse .notPermitted), s)
      | some p =>
        if s.spetar.fid = some d then
          let (x, s) := s.windowSignal d p.val (s.isCold p) h.sigWindow.toNat h.sigFence.toNat .add 1
          (some (orElse x), s)
        else if !s.canSend d then (some (orElse .linkDown), s)
        else
          let o := signalRequest s src id d h.sigWindow.toNat h.sigFence.toNat .add 1 (.headerSignal src id)
          (none, (s.modCmd src id (fun c => { c with phase := .signalling st res })).sendRequests d [o])
    else (some st, s)

/-- Complete a command, and its CHAIN successors that are thereby SKIPPED: those that passed stage 1 and were not dispatched, each after
its own remote signal (R162, R169). -/
def State.finishAux (s : State) (src : Source) (id : Nat) (st : Status) (res : List W32) : Nat → State
  | 0 => s.settle src id st res
  | fuel + 1 =>
    let s := s.settle src id st res
    match s.q.cmds.find? (fun c => c.src == src && c.chain == .after id && c.phase.undispatched) with
    | none => s
    | some n =>
      if s.endedOk src id then s.modCmd src n.id (fun c => { c with chain := .none })
      else match (s.modCmd src n.id (fun c => { c with chain := .skip })).endSignal src n.id .skipped [] with
        | (some st', s) => s.finishAux src n.id st' [] fuel
        | (none, s) => s

def State.finish (s : State) (src : Source) (id : Nat) (st : Status) (res : List W32) : State :=
  s.finishAux src id st res s.q.cmds.length

/-- End a command's effects with `st`: its remote signal goes first and its acknowledgement is awaited (R159, R160). -/
def State.completeNow (s : State) (src : Source) (id : Nat) (st : Status) (res : List W32) : State :=
  match s.cmd? src id with
  | none => s
  | some _ =>
    match s.endSignal src id st res with
    | (some st', s) => s.finish src id st' res
    | (none, s) => s

/-- The secondary's status for a mirrored command: one that differs ends the mirroring of its round (R620). -/
def State.compareMirror (s : State) (src : Source) (round : Nat) (own other : Nat) : State :=
  if own = other then s
  else match srcPart src with
    | none => s
    | some p => match s.roundNamed p round with
      | some e => s.unmirror e
      | none => s

/-- End a command's effects. A mirrored round's command waits for the secondary's status; on the secondary the status
itself is the answer and there is no record (R620). -/
def State.complete (s : State) (src : Source) (id : Nat) (st : Status) (res : List W32) : State :=
  match s.cmd? src id with
  | none => s
  | some c =>
    match c.mirrored with
    | some n =>
      let s := s.removeCmd src id
      if s.graft.role = .secondary then s.toPartner s.graft.partner (.mirrorAck n s.graft.epoch st.code s.now) else s
    | none =>
      match s.mirrorOf src id with
      | none => s.completeNow src id st res
      | some (n, r) =>
        match Tab.find? s.graft.acked n with
        | some a => ((s.dropWait n).compareMirror src r st.code a).completeNow src id st res
        | none => s.modCmd src id (fun c => { c with phase := .executing (.mirror n st res) })

/-! ### Waits (R157, R161, R162) -/

/-- The packets of the opcodes that hold the commands behind them. [log 38 DEDUCED] -/
def holdsBehind (c : Cmd) : Bool := c.pkt.header.op == 0x0001 || c.pkt.header.op == 0x0008

/-- What keeps a command at stage 2, if anything. Commands of a queue start in ring order: one starts only once every
command before it has been dispatched (R161), and until then it awaits a slot. -/
def State.waitKind (s : State) (c : Cmd) : Option WaitKind :=
  let h := c.pkt.header
  let before := s.q.cmds.filter (fun d => d.src == c.src && decide (d.id < c.id) && !d.phase.isDone)
  if (match c.chain with | .after _ => true | _ => false) then some .chain
  else if before.any holdsBehind || (h.barrier && !before.isEmpty) then some .barrier
  else if h.wait && decide ((s.fence (fenceKey (srcPart c.src) h.waitFence.toNat)).toNat < pair c.pkt.word (2 * h.waitSel.toNat)) then
    some .fence
  else if before.any (fun d => d.mirrored.isNone && d.phase.undispatched) then some .dispatch
  else none

/-! ### Stage 3: indirect pairs (R171 to R173) -/

/-- The parameter words with the values fetched for marked pairs in their place. -/
def withPairs (p : Packet) (vals : List (Nat × Nat)) : Params := fun n =>
  match vals.find? (fun (y : Nat × Nat) => y.1 == n / 2) with
  | some (_, v) => if n % 2 = 0 then v % 2 ^ 32 else v / 2 ^ 32
  | none => p.word n

def State.fetchPair (s : State) (src : Source) (a : Nat) : Except Status Nat × State :=
  match s.claim src a 8 false with
  | (.error st, s') => (.error st, s')
  | (.ok ps, s') =>
    match s'.readRange (srcPartByte src) ps a 8 with
    | (.error st, s'') => (.error st, s'')
    | (.ok b, s'') => (.ok (leNat b), s'')

def State.fetchPairs (s : State) (src : Source) (p : Packet) : List Nat → Except (Status × Nat) (List (Nat × Nat)) × State
  | [] => (.ok [], s)
  | j :: t =>
    match s.fetchPair src (pair p.word (2 * j)) with
    | (.error st, s') => (.error (st, 2 * j), s')
    | (.ok v, s') =>
      match s'.fetchPairs src p t with
      | (.error e, s'') => (.error e, s'')
      | (.ok l, s'') => (.ok ((j, v) :: l), s'')

/-- The checks of fetched words: those a value in the packet passes, the unlisted half of a pair among them (R173, R175). -/
def fetchedFails (sp : OpSpec) (src : Source) (p : Packet) (w : Params) : Option (Status × Nat) :=
  let ind := p.header.indWords
  pickFail (unlisted sp w ind ++ failing w ((sp.checksFor src).filter (fun c => c.words.any ind.contains)))

/-! ### Stages 4 and 5 -/

/-- What a command's own rules see: the caller, its number and its parameters. A round command that a secondary applies to
a shadow (R620) sees in `given` the bytes the primary read for it. -/
structure Ctx where
  src : Source
  id : Nat
  hdr : Header
  w : Params
  shadow : Bool := false
  given : Bytes := []

/-- How stage 4 and 5 end: completed, or still executing. -/
inductive BodyOut where
  | done (st : Status) (res : List W32)
  | run (w : Work)

abbrev Body := Ctx → State → BodyOut × State

/-- End a body with a status alone. -/
def fail (st : Status) (s : State) : BodyOut × State := (.done st [], s)

/-- End a body with a status that names a word (R170). -/
def failAt (st : Status) (n : Nat) (s : State) : BodyOut × State := (.done st (rejectResults st n), s)

def okRes (res : List Nat) (s : State) : BodyOut × State := (.done .ok (res.map w32), s)

/-- Claim a range, whose translations the command then holds (R658); a failure names its address word (R164, R170,
R178). [log 19 DEDUCED, 25 DEDUCED] -/
def Ctx.claim (c : Ctx) (s : State) (n v len : Nat) (write : Bool) (k : Pages → State → BodyOut × State) : BodyOut × State :=
  match s.claim c.src v len write with
  | (.error st, s') => (.done st (rangeResults st n), s')
  | (.ok ps, s') => k ps (s'.modCmd c.src c.id (fun d => { d with pages := d.pages ++ ps }))

/-- Read a claimed range; bad data ends the command with its status (R859). -/
def Ctx.read (c : Ctx) (s : State) (ps : Pages) (v len : Nat) (k : Bytes → State → BodyOut × State) : BodyOut × State :=
  match s.readRange (srcPartByte c.src) ps v len with
  | (.error st, s') => fail st s'
  | (.ok b, s') => k b s'

/-- The bytes a round command reads from its partition: its own range, or on a secondary what the primary read. -/
def Ctx.input (c : Ctx) (s : State) (n v len : Nat) (k : Bytes → State → BodyOut × State) : BodyOut × State :=
  if c.shadow then k c.given s
  else c.claim s n v len false (fun ps s => c.read s ps v len (fun b s =>
    k b (s.modCmd c.src c.id (fun d => { d with inputs := d.inputs ++ b }))))

/-- An effect that needs island `d`: it waits for an island in RESET, GATED or WAKING, and ends with TARGET_RESET at one in
RESET_FAILED (R76, R91). -/
def Ctx.needs (_ : Ctx) (s : State) (d : Island) (k : State → BodyOut × State) : BodyOut × State :=
  match (s.island d).state with
  | .run => k s
  | .resetFailed => fail .targetReset s
  | _ => (.run (.held d), s)

/-- M commands that execute from the AUX domain (R192). -/
def auxOps : List Nat := [0x0000, 0x0F01, 0x0F00, 0x0A00, 0x0A02, 0x0600, 0x0602, 0x0603, 0x0903, 0x0904]

def isAuxCmd (op : Nat) (w : Params) : Bool := auxOps.contains op || (op = 0x0C01 && bits (w 0) 0 0 = 1)

/-- An undispatched command enters stage 5. -/
def Cmd.enter (w : Work) (c : Cmd) : Cmd :=
  match c.phase with
  | .waiting => { c with phase := .executing w }
  | .ready => { c with phase := .executing w }
  | _ => c

/-- The entries a crossing's queue has (R62). -/
def crossingDepth : Nat := 64

/-- Log 141 DESIGN CHOICE. -/
def heldFor (d : Island) (c : Cmd) : Bool :=
  match c.phase with
  | .executing (.held e) => e == d
  | _ => false

/-- The commands that wait in FE's crossing into `d` (R76). -/
def State.crossingInto (s : State) (d : Island) : List Cmd := s.q.cmds.filter (heldFor d)

/-- A command is held for island `d` in order of arrival; a full crossing leaves it where it was, ready (R62, R76). [log 141 DESIGN CHOICE] -/
def State.holdFor (s : State) (src : Source) (id : Nat) (d : Island) : State :=
  if crossingDepth ≤ (s.crossingInto d).length then
    s.modCmd src id (fun c => if c.phase.undispatched then { c with phase := .ready } else c)
  else
    let n := s.q.arrivals
    ({ s with q := { s.q with arrivals := n + 1 } }).modCmd src id (fun c => { Cmd.enter (.held d) c with held := some (d, n) })

/-- Requests held for an island are handed over in order of arrival: their commands go on from dispatch (R76). [log 141 DESIGN CHOICE] -/
def State.handOver (s : State) (d : Island) : State :=
  s.setCmds (s.q.cmds.map (fun c => if heldFor d c then { c with phase := .ready } else c))

/-- Put the outcome of stages 4 and 5 into the command. -/
def State.after (s : State) (src : Source) (id : Nat) : BodyOut → State
  | .done st res => s.complete src id st res
  | .run (.held d) => s.holdFor src id d
  | .run w => s.modCmd src id (Cmd.enter w)

/-- Whether a command has reached stage 5. -/
def BodyOut.reached : BodyOut → Bool
  | .run (.openFollow _ _) => false
  | .run (.held _) => false
  | .run _ => true
  | .done st _ => !(st == .badParam || st == .range || st == .notPermitted || st == .translationFault || st == .linkDown || st == .entropyFail)

/-- A round command of a mirrored round, RELEASE apart, whose mark is its own item (R619, R626): its item takes the next
number, and goes out if it reaches stage 5. -/
def State.mirrorBody (s : State) (src : Source) (id : Nat) (pkt : Packet) (w : Params) (body : State → BodyOut × State) : BodyOut × State :=
  let op := pkt.header.op.toNat
  let yes := match srcPart src with
    | none => false
    | some p => op / 256 = 2 && op != 0x0209 && s.graft.state == .mirroring && s.graft.role == .primary &&
        (op = 0x0200 || ((s.roundNamed p (w 0)).map s.mirroring).getD false)
  if !yes then body s
  else
    let n := s.graft.nextSeq
    let s := { s with graft := { s.graft with nextSeq := n + 1, waits := Tab.insert s.graft.waits n (.command src id (w 0)) } }
    let (r, s) := body s
    if !r.reached then
      let s := s.dropWait n
      (r, if s.graft.nextSeq = n + 1 then { s with graft := { s.graft with nextSeq := n } } else s)
    else
      let e? := (srcPart src).bind (fun p => s.roundNamed p (w 0))
      let s := match e? with
        | some e => if op = 0x0200 then { s with graft := { s.graft with mirrorRounds := insertNat e s.graft.mirrorRounds } } else s
        | none => s
      let inputs := ((s.cmd? src id).map (fun (c : Cmd) => c.inputs)).getD []
      (r, s.emit (.mirror (s.pairHeader s.graft.partner) n s.graft.epoch (.command src id pkt ((List.range pkt.words).map w) inputs)))

/-- Stages 4 and 5 of a command with its words as fetched. -/
def State.runBody (s : State) (body : Body) (c : Cmd) (w : Params) : State :=
  let (r, s) := s.mirrorBody c.src c.id c.pkt w (body { src := c.src, id := c.id, hdr := c.pkt.header, w := w })
  s.after c.src c.id r

/-- The island a caller's commands are issued from. -/
def srcIsland : Source → Island
  | .mgmt _ => .mgmt
  | _ => .fe

/-- The epoch a command takes at dispatch: its agent's (R197); the Drinoner port is no agent. -/
def State.dispatchEpoch (s : State) (src : Source) : W16 :=
  match src with
  | .mgmt _ => 0
  | _ => (s.queue src).epoch

/-- Dispatch a ready command: it takes its agent's epoch, its source's tag and its serial number (R65, R197), stage 3 fetches its indirect pairs, and `body`
is its stages 4 and 5. One that was held for an island has passed stage 3, and its stages 4 and 5 begin again. [log 141 DESIGN CHOICE] -/
def State.dispatchCmd (s : State) (sp : OpSpec) (body : Body) (c : Cmd) : State :=
  if c.held.isSome then s.runBody body c (fun n => c.words.getD n 0)
  else
    let n := s.q.serial c.src
    let s := { s with q := { s.q with serials := s.q.nextSerials c.src } }
    let s := s.modCmd c.src c.id (fun d => { d with epoch := s.dispatchEpoch c.src, tag := s.sourceTag (srcIsland c.src), serial := n })
    match s.fetchPairs c.src c.pkt c.pkt.header.marked with
    | (.error (st, n), s') => s'.complete c.src c.id st [w32 n]
    | (.ok vals, s') =>
      let w := withPairs c.pkt vals
      match fetchedFails sp c.src c.pkt w with
      | some (st, n) => s'.complete c.src c.id st (rejectResults st n)
      | none => (s'.modCmd c.src c.id (fun d => { d with words := (List.range c.pkt.words).map w })).runBody body c w

/-- CQ_FULL (R206): as many records unread as the ring holds. -/
def Queue.cqFull (q : Queue) : Bool := decide ((q.cqTail - q.cqHead).toNat = 2 ^ (q.cqLog2 - 5))

/-- The main side is held in reset. -/
def State.mainInReset (s : State) : Bool := s.power.mainHeld

/-- A command that came back from a crossing goes only after those that arrived there before it (R76). -/
def State.handedOver (s : State) (c : Cmd) : Bool :=
  match c.held with
  | none => true
  | some (d, n) => !s.q.cmds.any (fun x => x.phase == .ready && x.held.any (fun y => y.1 == d && decide (y.2 < n)))

/-- A command may go to dispatch: stage 2 is passed, its queue's completion ring is not full, and an M command that
needs the main side finds the PF view VALID (R192, R206, Table 23.5). A primary that drains admits no round command (R633). -/
def State.mayDispatch (s : State) (c : Cmd) : Bool :=
  (match c.phase with
   | .waiting => (s.waitKind c).isNone
   | .ready => true
   | _ => false) &&
  s.handedOver c &&
  !(s.graft.draining && c.pkt.header.op.toNat / 256 == 2) &&
  (match c.src with
   | .mgmt _ => s.kelri.pf.valid || s.mainInReset || isAuxCmd c.pkt.header.op.toNat c.pkt.word
   | _ => !(s.queue c.src).cqFull)

/-- Run a command that may go: an M command that needs the main side while it is in reset completes with TARGET_RESET
(R192). -/
def State.runCmd (s : State) (sp : OpSpec) (body : Body) (c : Cmd) : State :=
  match c.src with
  | .mgmt _ =>
    if s.mainInReset && !isAuxCmd c.pkt.header.op.toNat c.pkt.word then s.complete c.src c.id .targetReset []
    else s.dispatchCmd sp body c
  | _ => s.dispatchCmd sp body c

/-! ### Fetching -/

/-- A queue whose slots the part fetches: its views VALID, enabled, not stopped, fewer than 64 commands fetched and not completed
(R193, R199, R200, R204); a slot asked of the host has its place among the 64. [log 23 DEDUCED] -/
def State.fetchable (s : State) (src : Source) : Bool :=
  let held := ((s.cmdsOf src).filter (fun c => !c.phase.isDone)).length + (if (s.queue src).fetching.isSome then 1 else 0)
  let runs := (s.queue src).enable && (s.queue src).stop == .none && decide (held < 64)
  match src with
  | .mgmt _ => s.mgmt.firmware && (s.cmdsOf src).isEmpty
  | .cp _ => s.kelri.pf.valid && runs
  | .part p _ => s.kelri.pf.valid && (Tab.get s.kelri.vf {} p.val).valid && runs

/-- The sequencer that serves a caller (R195). -/
def csqOf : Source → Nat
  | .part _ q => q.val % 4
  | .cp k => k.val % 4
  | .mgmt _ => 0

/-- Nothing that awaits dispatch on the caller's sequencer: a packet presented now overtakes nothing (R208 to R211). -/
def State.seqFree (s : State) (src : Source) : Bool :=
  s.q.cmds.all (fun c => csqOf c.src != csqOf src || !c.phase.undispatched) &&
  List.all s.q.tasks (fun (y : Nat × Task) => y.1 % 4 != csqOf src || y.2.step.isNone)

/-- Put a packet into the list of commands in flight, with the CHAIN link its predecessor gives it (R162). -/
def State.accept (s : State) (src : Source) (p : Packet) (readable : Bool) : Nat × State :=
  let q := s.queue src
  let link : ChainLink := match q.last with
    | some l => if l.chain then (match l.outcome with
        | none => .after l.id
        | some true => .none
        | some false => .skip) else .none
    | none => .none
  let c : Cmd := { src := src, id := q.nextId, pkt := p, readable := readable,
                   chain := if readable then link else .none }
  (q.nextId, (s.setQueue src { q with
      nextId := q.nextId + 1
      last := some { id := q.nextId, chain := readable && p.header.chain, outcome := none } }).setCmds (s.q.cmds ++ [c]))

/-- The stage-1 outcome of an admitted command of a known opcode: RING_JUMP inside jumped slots and another partition's
number are NOT_PERMITTED (Table 5.5, R166). -/
def stage1Of (sp : OpSpec) (src : Source) (p : Packet) (inJump : Bool) : Option (Status × Nat) :=
  let extra : List (Status × Nat) :=
    if (sp.code = 0x0004 && inJump) then [(.notPermitted, 0x1F)] else []
  pickFail (headerFails sp src p ++ unusedFails sp p ++ indirectFails p ++ directFails sp src p ++ extra)

/-- Fetch a packet: stage 1, or SKIPPED after its header where a predecessor's CHAIN has already failed (R162). [log 36 DEDUCED] -/
def State.fetchPacket (s : State) (sp? : Option OpSpec) (src : Source) (p : Packet) (inJump : Bool) : Nat × State :=
  let (id, s) := s.accept src p true
  let link := ((s.cmd? src id).map (·.chain)).getD .none
  match sp? with
  | none => (id, s.complete src id .badOpcode [])
  | some sp =>
    if link = .skip then
      match pickFail (headerFails sp src p) with
      | some (st, n) => (id, s.complete src id st (rejectResults st n))
      | none => (id, s.complete src id .skipped [])
    else match stage1Of sp src p inJump with
      | some (st, n) => (id, s.complete src id st (rejectResults st n))
      | none => (id, s)

/-! ### Completion records (Table 5.4, R205, R206, R935) -/

/-- The 32 bytes of a record. -/
def recordBytes (tag op st time : Nat) (res : List W32) : Bytes :=
  leBytes 4 tag ++ leBytes 2 st ++ leBytes 2 op ++ leBytes 8 time ++ fit 16 (bytesOf res)

def Cmd.record (c : Cmd) (st : Status) (res : List W32) (time : Nat) : Bytes :=
  if c.readable then recordBytes c.pkt.header.tag.toNat c.pkt.header.op.toNat st.code time res
  else recordBytes 0xFFFFFFFF 0xFFFF st.code time res

def srcFn : Source → Fn
  | .part p _ => .vf p
  | _ => .pf

/-- Release a queue's FENCE_OWN lease (R934). -/
def State.releaseFenceOwn (s : State) (src : Source) : State :=
  match (s.queue src).fenceOwn, srcAgent src with
  | some f, some a =>
    let k := fenceKey (srcPart src) f
    if s.fenceOwner k = some a then s.dropLease 4 k else s
  | _, _ => s

/-- A disabled queue that has drained enters STOPPED (R200, R934). -/
def State.drained (s : State) (src : Source) : State :=
  if (s.queue src).draining && (s.cmdsOf src).isEmpty then
    (s.releaseFenceOwn src).modQueue src (fun q => { q with draining := false, stop := .disabled, jump := none })
  else s

/-- Stop a queue with RECORD_FAULT; the lost record's TAG is in ERRLOG_3's SYNDROME, with ADDR 0 (R191, R235). A queue that drains after its
ENABLE was cleared goes on draining. [log 41 DEDUCED, 142 DESIGN CHOICE] -/
def State.recordFaultStop (s : State) (src : Source) (tag : W32) : State :=
  (s.modQueue src (fun q => if q.draining then q else { q with stop := .recordFault })).logErr 3 .fe (srcPartByte src) .contained .queueFault 0 tag

/-- Interrupt of a queue's completion: PT_INT_STATUS bit q and the queue's vector, or CP_HIF_INT_QUEUE (R879, R898). -/
def State.queueInterrupt (s : State) (src : Source) : State :=
  match src with
  | .part p q => s.raiseVf p q.val (s.queue src).vector
  | .cp k =>
    { s with hif := { s.hif with intQueue := s.hif.intQueue ||| BitVec.ofNat 16 (2 ^ k.val) } }.raiseVector .pf (s.queue src).vector
  | .mgmt _ => s

/-- A completion counts once for its agent's progress, whether or not its record can be written then (R222). [log 22 DESIGN CHOICE] -/
def State.countDone (s : State) (c : Cmd) : State :=
  match s.cmd? c.src c.id with
  | some d => if d.counted then s else (s.modCmd c.src c.id (fun d => { d with counted := true })).progressSrc c.src 1
  | none => s

/-- After a record: the local signal unless it was refused, the interrupt, the agent's progress; the command leaves the part (R159, R216,
R222). -/
def State.afterRecord (s : State) (c : Cmd) : State :=
  let s := match c.localSignal with
    | some k => if c.sigRefused then s else (s.signalFence k .add 1 (srcAgent c.src)).2
    | none => s
  let s := if c.readable && c.pkt.header.interrupt then s.queueInterrupt c.src else s
  ((s.countDone c).removeCmd c.src c.id).drained c.src

/-- CQ_TAIL of a queue advances, and wakes the tasks that sleep on it (R205, R219). -/
def State.bumpTail (s : State) (src : Source) : State :=
  let wakes (n : Nat) (t : Task) : Task :=
    match src with
    | .part p q => if n / 8 == p.val && t.state == .waiting && t.wait.records.contains q.val then t.wake else t
    | _ => t
  (s.modQueue src (fun q => { q with cqTail := q.cqTail + 1 })).wakeTasks wakes

/-- Write a queue's record into its completion ring: `none` where it cannot be written. -/
def State.putRecord (s : State) (src : Source) (b : Bytes) : Option State :=
  let q := s.queue src
  let a := q.cqBase.toNat + 32 * (q.cqTail.toNat % 2 ^ (q.cqLog2 - 5))
  match q.cqLoc with
  | .host => some ((s.toHost (.write (srcFn src) a b false)).bumpTail src)
  | .device =>
    match s.claim src a 32 true with
    | (.error _, _) => none
    | (.ok ps, s') => some ((s'.writeRange ps a b).bumpTail src)

/-- A refused record leaves its translation fault behind (R657). [log 44 DEDUCED] -/
def State.recordRefusal (s : State) (src : Source) : State :=
  let q := s.queue src
  match q.cqLoc with
  | .host => s
  | .device => (s.claim src (q.cqBase.toNat + 32 * (q.cqTail.toNat % 2 ^ (q.cqLog2 - 5))) 32 true).2

/-- The completed command of a caller that is next in completion order. [log 44 DEDUCED] -/
def State.nextDone (s : State) (src : Source) : Option Cmd :=
  (s.cmdsOf src).foldl (fun (b : Option Cmd) c =>
    match c.phase, b with
    | .done o _ _ _, some d => (match d.phase with
        | .done o' _ _ _ => if o < o' then some c else b
        | _ => some c)
    | .done _ _ _ _, none => some c
    | _, _ => b) none

/-- Write the record of the next completed command of a queue, with what follows it. A record that cannot be written
stops the queue and is lost; a stopped or full queue holds its records. [log 44 DEDUCED] -/
def State.writeNextRecord (s : State) (src : Source) (c : Cmd) (st : Status) (res : List W32) (time : Nat) : State :=
  let q := s.queue src
  if q.cqFull || q.stop == .recordFault then s
  else
    let st' := if c.sigRefused then st else s.signalStatus c st
    match s.putRecord src (c.record st' res time) with
    | some s' => s'.afterRecord c
    | none =>
      let tag := if c.readable then c.pkt.header.tag else 0xFFFFFFFF
      ((((s.countDone c).recordRefusal src).recordFaultStop src tag).removeCmd src c.id).drained src

/-- Keep the record of an M command under its ticket; a command that was answered PENDING latches RESULT (R790, R792). -/
def State.keepResult (s : State) (t : Fin 4) (c : Cmd) (st : Status) (res : List W32) (time : Nat) : State :=
  let s := match Tab.find? s.mgmt.tickets t.val with
    | some k =>
      let k' : Ticket := { k with state := .done (c.record st res time) s.now }
      { s with mgmt := { s.mgmt with tickets := Tab.insert s.mgmt.tickets t.val k' } }
    | none => s
  s.removeCmd (.mgmt t) c.id

/-- Complete every command whose work `f` gives a status and results. -/
def State.completeWork (s : State) (f : Work → Option (Status × List Nat)) : State :=
  s.q.cmds.foldl (fun s c => match c.phase with
    | .executing w => (match f w with
      | some (st, res) => s.complete c.src c.id st (res.map w32)
      | none => s)
    | _ => s) s

end Sys2Proof.Machine
end

