-- ==== Sys2Proof/Machine/Slots.lean ====
section
/-!
DEFINITION. Dispatch slots (R208 to R211): the work that is ready on a sequencer, queue commands and the steps of resident tasks alike, the
one that a slot takes, and the window; and what becomes of a command packet that is presented.
-/

namespace Sys2Proof.Machine
open Sys2Proof

/-- What a dispatch slot can go to: a command of a queue, or one step of a resident task. -/
inductive Ready where
  | cmd (c : Cmd)
  | task (t : TaskId)
deriving DecidableEq, Repr

/-- Log 43 DEDUCED. -/
def isControl : Source → Bool
  | .part _ _ => false
  | _ => true

/-- The partition a caller counts under in R210, 64 for the control plane, and its agent number there; M commands count as one agent
after the control plane's queues. [log 43 DEDUCED] -/
def robinPart : Source → Nat
  | .part p _ => p.val
  | _ => 64

/-- Log 43 DEDUCED. -/
def robinAgent : Source → Nat
  | .part _ q => q.val
  | .cp k => k.val
  | .mgmt _ => 16

def Ready.part : Ready → Nat
  | .cmd c => robinPart c.src
  | .task t => t.part.val

/-- A partition's agents are its queues, 0 to 15, and its tasks, 16 to 23. -/
def Ready.agent : Ready → Nat
  | .cmd c => robinAgent c.src
  | .task t => 16 + t.slot.val

/-- Round-robin across partitions and then across the ready queues and tasks of one; of one queue's commands, the one fetched first (R210).
[log 43 DEDUCED] -/
def pickRobin (z : Robin) (l : List Ready) : Option Ready :=
  let has (p : Nat) : Bool := l.any (fun x => x.part == p)
  match nextRobin ((List.range 65).filter has) z.lastPart with
  | none => none
  | some p =>
    let mine := l.filter (fun x => x.part == p)
    let ready (a : Nat) : Bool := mine.any (fun x => x.agent == a)
    match nextRobin ((List.range 24).filter ready) (Tab.get z.lastAgent 99 p) with
    | none => none
    | some a => mine.find? (fun x => x.agent == a)

/-- What a dispatch slot takes, and the class it takes it for: 0 REALTIME, 1 control plane, 2 NORMAL work, in which every class whose
reservation is used up competes (R208, R209). -/
def pickSlot (z : Sequencer) (reserve : Nat) (rt cp all : List Ready) : Option (Ready × Nat) :=
  let of (k : Nat) (l : List Ready) : Option (Ready × Nat) := (pickRobin (Tab.get z.robins {} k) l).map (fun x => (x, k))
  if !rt.isEmpty && z.rtUsed < reserve then of 0 rt
  else if !cp.isEmpty && z.cpUsed < 8 then of 1 cp
  else of 2 all

/-- A step of a running task that awaits its slot. -/
def Task.stepReady (t : Task) : Bool := t.state == .running && t.step.isSome && t.fetching.isNone

/-- The resident tasks of sequencer `csq` with a step ready (R219). -/
def State.readyTasks (s : State) (csq : Nat) : List Ready :=
  List.filterMap (fun (y : Nat × Task) =>
    if y.1 % 4 == csq && y.2.stepReady then some (.task (taskOfNum y.1)) else none) s.q.tasks

/-- An M command that the AUX domain executes: it needs neither FE nor a dispatch slot (R192, R236). [log 43 DEDUCED] -/
def Cmd.inAux (c : Cmd) : Bool :=
  match c.src with
  | .mgmt _ => isAuxCmd c.pkt.header.op.toNat c.pkt.word
  | _ => false

/-- The commands of sequencer `csq` that may be dispatched. -/
def State.readyCmds (s : State) (csq : Nat) : List Cmd :=
  s.q.cmds.filter (fun c => csqOf c.src == csq && c.mirrored.isNone && !c.inAux && s.mayDispatch c)

/-- An M command of the AUX domain that may go. -/
def State.readyAux (s : State) : Option Cmd := s.q.cmds.find? (fun c => c.inAux && s.mayDispatch c)

/-- What the next slot of a sequencer goes to, and for which class. -/
def State.slotChoice (s : State) (csq : Nat) : Option (Ready × Nat) :=
  let all := s.readyCmds csq
  pickSlot (Tab.get s.q.seqs {} csq) s.q.rtReserve ((all.filter (fun c => !isControl c.src && (s.queue c.src).realtime)).map .cmd)
    ((all.filter (fun c => isControl c.src)).map .cmd) (all.map .cmd ++ s.readyTasks csq)

/-- A queue takes the class it was given (R233). -/
def Queue.takeClass (q : Queue) : Queue := { q with realtime := q.classNext.getD q.realtime, classNext := none }

/-- A dispatch slot of a sequencer goes; its window restarts after 64, when changed queue classes take effect (R208, R233). -/
def Queues.passSlot (b : Queues) (csq rt cp : Nat) : Queues :=
  let z := Tab.get b.seqs {} csq
  { b with
    seqs := Tab.set b.seqs {} csq
      (if z.slot + 1 < 64 then { z with slot := z.slot + 1, rtUsed := z.rtUsed + rt, cpUsed := z.cpUsed + cp }
        else { z with slot := 0, rtUsed := 0, cpUsed := 0 })
    queues := if z.slot + 1 < 64 then b.queues
      else Tab.map (fun n q => if n < 1024 && n % 4 = csq then q.takeClass else q) b.queues }

/-- A slot goes to an agent of a partition for class `k`: the class's round-robin moves on, and the window (R208, R210). -/
def Queues.giveSlot (b : Queues) (csq part agent k : Nat) : Queues :=
  let z := Tab.get b.seqs {} csq
  let r := Tab.get z.robins {} k
  let r' : Robin := { lastPart := part, lastAgent := Tab.insert r.lastAgent part agent }
  ({ b with seqs := Tab.set b.seqs {} csq { z with robins := Tab.set z.robins {} k r' } }).passSlot csq (if k = 0 then 1 else 0) (if k = 1 then 1 else 0)

def State.passSlot (s : State) (csq rt cp : Nat) : State := { s with q := s.q.passSlot csq rt cp }

def State.giveSlot (s : State) (csq : Nat) (x : Ready) (k : Nat) : State := { s with q := s.q.giveSlot csq x.part x.agent k }

/-- The class for which the sequencer gives a slot to a command of `src` that nothing else competes with (R208, R209). -/
def State.slotClass (s : State) (src : Source) : Nat :=
  let z := Tab.get s.q.seqs {} (csqOf src)
  if !isControl src && (s.queue src).realtime && z.rtUsed < s.q.rtReserve then 0
  else if isControl src && z.cpUsed < 8 then 1
  else 2

/-- A command of `src` takes a slot for which nothing else competes. -/
def State.takeDispatch (s : State) (src : Source) : State :=
  { s with q := s.q.giveSlot (csqOf src) (robinPart src) (robinAgent src) (s.slotClass src) }

/-- A command packet of the row's opcode is presented by `src`: it is fetched, and takes a dispatch slot in the same step when
nothing keeps it waiting and no other work of its sequencer awaits one (R208 to R210). An M command of the AUX domain takes none and waits
for none. Nothing happens where the part fetches nothing from that caller. [log 23 DEDUCED, 43 DEDUCED] -/
def State.present (s : State) (sp : OpSpec) (body : Body) (src : Source) (p : Packet) : State :=
  if !s.fetchable src then s
  else
    let free := s.seqFree src
    let (id, s) := s.fetchPacket (some sp) src (p.withOp sp.code) (s.queue src).jump.isSome
    match s.cmd? src id with
    | none => s
    | some c =>
      if !s.mayDispatch c then s
      else if c.inAux then s.runCmd sp body c
      else if free then (s.takeDispatch src).runCmd sp body c
      else s

end Sys2Proof.Machine
end

