-- ==== Sys2Proof/Machine/QueueCmds.lean ====
section
/-!
DEFINITION. The commands of Table 5.5 (class 0x00) and DIAG_ECHO: queue control, fences, resident tasks.
-/

namespace Sys2Proof.Machine
open Sys2Proof

/-- Present a command packet of a row (R167) and answer the next state. [log 23 DEDUCED] -/
def runRow (sp : OpSpec) (body : Body) (src : Source) (pkt : Packet) (s : State) : Host.Outcome State Fault Refusal :=
  s.conclude (s.present sp body src pkt)

/-! ### NOP, DIAG_ECHO -/

def specNop : OpSpec := { code := 0x0000, callP := true, callC := true, callM := true }

def bodyNop : Body := fun _ s => okRes [] s

/-- NOP (Table 5.5). -/
def execNop (src : Source) (pkt : Packet) (s : State) : Host.Outcome State Fault Refusal := runRow specNop bodyNop src pkt s

def specDiagEcho : OpSpec := { code := 0x0F01, callP := true, callC := true, callM := true, used := [0, 1, 2, 3] }

/-- RESULT_0 to RESULT_3 are P0 to P3 (Table 5.17). -/
def bodyDiagEcho : Body := fun c s => okRes [c.w 0, c.w 1, c.w 2, c.w 3] s

def execDiagEcho (src : Source) (pkt : Packet) (s : State) : Host.Outcome State Fault Refusal :=
  runRow specDiagEcho bodyDiagEcho src pkt s

/-! ### Fences -/

def specFenceWait : OpSpec :=
  { code := 0x0001, callP := true, callC := true, used := [0, 2, 3], checks := [.mask 0 0xFFF] }

/-- FENCE_WAIT completes once its fence is at least the threshold. -/
def bodyFenceWait : Body := fun c s =>
  let k := fenceKey (srcPart c.src) (bits (c.w 0) 11 0)
  if pair c.w 2 ≤ (s.fence k).toNat then okRes [] s else (.run (.fenceWait k (pair c.w 2)), s)

def execFenceWait (src : Source) (pkt : Packet) (s : State) : Host.Outcome State Fault Refusal :=
  runRow specFenceWait bodyFenceWait src pkt s

def specFenceSignal : OpSpec :=
  { code := 0x0002, callP := true, callC := true, used := [0, 2, 3], checks := [.mask 0 0x10FFF] }

def opOfBit (b : Bool) : FenceOp := if b then .max else .add

/-- FENCE_SIGNAL: ADD or MAX on a fence of the caller (R213); ADD past 2^64 − 1 is RANGE, a fence another agent owns
NOT_PERMITTED (R216). The signal is its execution, so R170 names no word. [log 18 DEDUCED] -/
def bodyFenceSignal : Body := fun c s =>
  let k := fenceKey (srcPart c.src) (bits (c.w 0) 11 0)
  match s.signalFence k (opOfBit (bit (c.w 0) 16)) (BitVec.ofNat 64 (pair c.w 2)) (srcAgent c.src) with
  | (.ok, s') => okRes [] s'
  | (st, s') => fail st s'

def execFenceSignal (src : Source) (pkt : Packet) (s : State) : Host.Outcome State Fault Refusal :=
  runRow specFenceSignal bodyFenceSignal src pkt s

def specSignalRemote : OpSpec :=
  { code := 0x0003, callP := true, callC := true, used := [0, 2, 3], checks := [.mask 0 0x3FFFFFFF] }

/-- SIGNAL_REMOTE: a SIGNAL packet through the target's window, or the same act on this device (R578). A control-plane
queue is admitted by no window (R596). [log 24 DEDUCED] -/
def bodySignalRemote : Body := fun c s =>
  let fence := bits (c.w 0) 11 0
  let win := bits (c.w 0) 19 12
  let d := bits (c.w 0) 28 20
  let op := opOfBit (bit (c.w 0) 29)
  match srcPart c.src with
  | none => fail .notPermitted s
  | some p =>
    if s.spetar.fid = some d then
      match s.windowSignal d p.val (s.isCold p) win fence op (BitVec.ofNat 64 (pair c.w 2)) with
      | (.ok, s') => okRes [] s'
      | (st, s') => fail st s'
    else if !s.canSend d then fail .linkDown s
    else
      (.run (.remote 1 0 0 none), s.sendRequests d [signalRequest s c.src c.id d win fence op (pair c.w 2) (.data c.src c.id)])

def execSignalRemote (src : Source) (pkt : Packet) (s : State) : Host.Outcome State Fault Refusal :=
  runRow specSignalRemote bodySignalRemote src pkt s

/-! ### RING_JUMP, BARRIER -/

def specRingJump : OpSpec :=
  { code := 0x0004, callP := true, callC := true, used := [0, 2, 3],
    checks := [.word 0 .range (fun v => v == 0 || v > 2 ^ 20), .addr 2 64, .range48 2 [0] (fun w => 64 * w 0)] }

/-- RING_JUMP: the queue's next P0 slots are fetched from the address; fetch then returns to the ring. A control-plane queue's range meets
the checks of R164 here; a partition's is translated where its slots are fetched (Table 6.5). [log 36 DEDUCED] -/
def bodyRingJump : Body := fun c s =>
  let jump (s : State) : BodyOut × State :=
    okRes [] (s.modQueue c.src (fun q => { q with jump := some { addr := pair c.w 2, left := c.w 0 } }))
  match srcPart c.src with
  | some _ => jump s
  | none => c.claim s 2 (pair c.w 2) (64 * c.w 0) false (fun _ s => jump s)

def execRingJump (src : Source) (pkt : Packet) (s : State) : Host.Outcome State Fault Refusal :=
  runRow specRingJump bodyRingJump src pkt s

def specBarrier : OpSpec := { code := 0x0008, callP := true, callC := true, used := [0], checks := [.mask 0 0xFFFF] }

/-- The caller's own queues that a 16-bit mask names. -/
def ownQueues (src : Source) (mask : Nat) : List Source :=
  (List.range 16).filterMap (fun n =>
    if bit mask n then (match src with
      | .part p _ => some (.part p (Fin.ofNat 16 n))
      | .cp _ => some (.cp (Fin.ofNat 16 n))
      | .mgmt _ => none)
    else none)

/-- Commands in flight that were fetched before the named one: the list keeps fetch order. -/
def State.fetchedBefore (s : State) (src : Source) (id : Nat) : List Cmd :=
  s.q.cmds.takeWhile (fun c => !(c.src == src && c.id == id))

/-- Whether some command of the listed queues fetched before the named one has not completed. [log 38 DEDUCED] -/
def State.barrierHolds (s : State) (src : Source) (id : Nat) (qs : List Source) : Bool :=
  (s.fetchedBefore src id).any (fun c => qs.contains c.src && !c.phase.isDone)

/-- BARRIER completes when every command fetched from the named queues before it has completed. -/
def bodyBarrier : Body := fun c s =>
  let qs := ownQueues c.src (c.w 0)
  if s.barrierHolds c.src c.id qs then (.run (.barrier qs), s) else okRes [] s

def execBarrier (src : Source) (pkt : Packet) (s : State) : Host.Outcome State Fault Refusal :=
  runRow specBarrier bodyBarrier src pkt s

/-! ### Resident tasks (R219 to R221, R472, R474) -/

/-- Whether a unit holds a descriptor in use. -/
def State.unitInUse (s : State) (u : Nat) : Bool :=
  List.any s.plot.tiles (fun (y : Nat × Tile) => y.1 / 1024 == u)

/-- The units of a partition, ascending. -/
def State.unitsOf (s : State) (p : Fin 64) : List Nat :=
  List.filterMap (fun (y : Nat × Nat) => if y.2 = p.val then some y.1 else none) s.plot.units

/-- The four units a starting task takes: the partition's highest without descriptor or task memory (R474). -/
def State.taskUnitsFor (s : State) (p : Fin 64) : List Nat :=
  (((s.unitsOf p).filter (fun u => !s.unitInUse u && (Tab.find? s.plot.taskUnits u).isNone)).reverse).take 4

def taskKey (t : TaskId) : Nat := 8 * t.part.val + t.slot.val

/-- Give back a stopped task's units. -/
def State.returnTaskUnits (s : State) (t : TaskId) : State :=
  { s with plot := { s.plot with taskUnits := Tab.filter (fun _ v => v != taskKey t) s.plot.taskUnits } }

/-- A FENCE_OWN lease that task `t` holds. -/
def fenceHeldBy (t : TaskId) (k : Nat) (l : Lease) : Bool :=
  match l.holder with
  | .agent a _ => decide (k / 2 ^ 20 = 4) && a == .task t
  | _ => false

/-- Drop every FENCE_OWN lease a task holds. -/
def State.dropTaskFences (s : State) (t : TaskId) : State :=
  { s with q := { s.q with leases := Tab.filter (fun k l => !fenceHeldBy t k l) s.q.leases } }

/-- A task stops: its leases are released, its units returned and its epoch bumped (R221). A RESIDENT_POST that waits for its inbox goes on
waiting. [log 143 DESIGN CHOICE] -/
def State.stopTask (s : State) (t : TaskId) (st : TaskState) : State :=
  let s := (s.dropTaskFences t).returnTaskUnits t
  (s.setTask t { s.taskOf t with state := st, wait := {}, step := none, fetching := none }).bumpAgent (.task t)

def taskRunning (t : Task) : Bool := t.state == .running || t.state == .waiting

def specResidentStart : OpSpec :=
  { code := 0x0005, callP := true, used := [0, 1, 2, 3, 4],
    checks := [.mask 0 7, .word 1 .badParam (fun v => v % 4 != 0), .word 1 .range (fun v => v < 4 || v > 2 ^ 20), .addr 2 64,
      .range48 2 [1] (fun w => w 1), .mask 4 0xFFFF] }

/-- RESIDENT_START: the image's SHA-384 identifies the task, whose first 16 bytes are the results; four units become task
memory (R472). [log 35 DEDUCED] -/
def bodyResidentStart : Body := fun c s =>
  match srcPart c.src with
  | none => fail .notPermitted s
  | some p =>
    let t : TaskId := { part := p, slot := Fin.ofNat 8 (bits (c.w 0) 2 0) }
    if taskRunning (s.taskOf t) then fail .notPermitted s
    else
      let us := s.taskUnitsFor p
      if us.length < 4 then failAt .range 0 s
      else c.claim s 2 (pair c.w 2) (c.w 1) false (fun ps s =>
        c.read s ps (pair c.w 2) (c.w 1) (fun img s =>
          let d := sha384 img
          let old := s.taskOf t
          let s := s.setTask t { state := .running, digest := d, served := BitVec.ofNat 16 (c.w 4), epoch := old.epoch }
          let s := { s with plot := { s.plot with taskUnits := us.foldl (fun tb u => Tab.insert tb u (taskKey t)) s.plot.taskUnits } }
          (.done .ok (wordsOf (d.take 16)), s)))

def execResidentStart (src : Source) (pkt : Packet) (s : State) : Host.Outcome State Fault Refusal :=
  runRow specResidentStart bodyResidentStart src pkt s

def specResidentPost : OpSpec :=
  { code := 0x0006, callP := true, used := List.range 12,
    checks := [.mask 0 0xF07, .word 0 .range (fun v => bits v 11 8 == 0 || bits v 11 8 > 11)] }

/-- A task asleep on its inbox wakes. -/
def wakeOnInbox (t : Task) : Task := if t.state = .waiting && t.wait.inbox then t.wake else t

/-- RESIDENT_POST: the message joins the inbox of 64, or the command stays executing until there is room (R220); a task asleep on its inbox
has thereby completed its WAIT (R222). -/
def bodyResidentPost : Body := fun c s =>
  match srcPart c.src with
  | none => fail .notPermitted s
  | some p =>
    let t : TaskId := { part := p, slot := Fin.ofNat 8 (bits (c.w 0) 2 0) }
    let r := s.taskOf t
    let msg : List W32 := (List.range (bits (c.w 0) 11 8)).map (fun n => w32 (c.w (n + 1)))
    if !taskRunning r then fail .notPermitted s
    else if r.inbox.length < 64 then
      let s := s.setTask t (wakeOnInbox { r with inbox := r.inbox ++ [msg] })
      okRes [] (if r.state = .waiting && r.wait.inbox then s.progressBy (.task t) 1 else s)
    else (.run (.post t msg), s)

def execResidentPost (src : Source) (pkt : Packet) (s : State) : Host.Outcome State Fault Refusal :=
  runRow specResidentPost bodyResidentPost src pkt s

end Sys2Proof.Machine
end

