-- ==== Sys2Proof/Machine/MemCmds.lean ====
section
/-!
DEFINITION. The commands of Table 5.6 (class 0x01): COPY, FILL, SCRUB, HOST_PULL, HOST_PUSH, and the host reads they make.
-/

namespace Sys2Proof.Machine
open Sys2Proof

/-- Count copied bytes for a partition's profile; a cold-frame partition's counter counts nothing (R669). -/
def State.profDma (s : State) (src : Source) (n : Nat) : State :=
  match srcPart src with
  | none => s
  | some p => s.modPartition p (fun r => if r.coldFrame then r else { r with profDma := satAdd64 r.profDma n })

def mib : Nat := 2 ^ 20

/-- A 64-bit byte count from 1 to `most`. -/
def bytesSpan (n most : Nat) : Check := .pair64 n .range (fun v => v == 0 || v > most)

def specCopy : OpSpec :=
  { code := 0x0100, callP := true, callC := true, used := [0, 1, 2, 3, 4, 5],
    checks := [bytesSpan 0 (2 ^ 40), .addr 2 1, .addr 4 1, .range48 2 [0, 1] (fun w => pair w 0), .range48 4 [0, 1] (fun w => pair w 0),
      { words := [0, 1, 2, 3, 4, 5], name := 2, status := .badParam,
        fails := fun w => pair w 2 < pair w 4 + pair w 0 && pair w 4 < pair w 2 + pair w 0 && pair w 0 != 0 }] }

/-- The physical addresses that a claimed range covers, as stretches; whether one holds an address. -/
def inSegs (l : List (Nat × Nat)) (a : Nat) : Bool := l.any (fun (b, n) => decide (b ≤ a) && decide (a < b + n))

/-- The bytes COPY leaves at its destination: each its source byte, but undefined where the destination's physical byte
lies in the source range too (R936). [log 31 DEDUCED] -/
def copyBytes (free : Nat → Byte) (srcSegs : List (Nat × Nat)) : List (Nat × Nat) → Bytes → Nat → Bytes
  | [], _, _ => []
  | (a, n) :: t, d, k =>
    (List.range n).map (fun x => if inSegs srcSegs (a + x) then free (k + x) else d.getD x 0) ++
      copyBytes free srcSegs t (d.drop n) (k + n)

/-- Log 31 DEDUCED. -/
def bodyCopy : Body := fun c s =>
  let n := pair c.w 0
  c.claim s 2 (pair c.w 2) n true (fun dp s =>
    c.claim s 4 (pair c.w 4) n false (fun sp s =>
      c.read s sp (pair c.w 4) n (fun d s =>
        let d' := copyBytes (fun k => Config.freeByte (s.freeCtr + k)) (segments sp (pair c.w 4) n) (segments dp (pair c.w 2) n) d 0
        let s := { s with freeCtr := s.freeCtr + n }
        okRes [] (((s.writeRange dp (pair c.w 2) d').profDma c.src n).progressSrc c.src (n / mib)))))

def execCopy (src : Source) (pkt : Packet) (s : State) : Host.Outcome State Fault Refusal := runRow specCopy bodyCopy src pkt s

def specFill : OpSpec :=
  { code := 0x0101, callP := true, callC := true, used := [0, 1, 2, 3, 4],
    checks := [.pair64 0 .range (fun v => v == 0), .pair64 0 .badParam (fun v => v % 4 != 0), .addr 2 4, .range48 2 [0, 1] (fun w => pair w 0)] }

/-- `n` repetitions of a 32-bit pattern. -/
def fillBytes (pattern : Nat) : Nat → Bytes
  | 0 => []
  | n + 1 => leBytes 4 pattern ++ fillBytes pattern n

def bodyFill : Body := fun c s =>
  c.claim s 2 (pair c.w 2) (pair c.w 0) true (fun ps s =>
    okRes [] (((s.writeRange ps (pair c.w 2) (fillBytes (c.w 4) (pair c.w 0 / 4))).profDma c.src (pair c.w 0)).progressSrc c.src (pair c.w 0 / mib)))

def execFill (src : Source) (pkt : Packet) (s : State) : Host.Outcome State Fault Refusal := runRow specFill bodyFill src pkt s

def specScrub : OpSpec :=
  { code := 0x0102, callP := true, callC := true, used := [0, 1, 2, 3],
    checks := [.pair64 0 .range (fun v => v == 0), .pair64 0 .badParam (fun v => v % 65536 != 0), .addr 2 65536,
      .range48 2 [0, 1] (fun w => pair w 0)] }

/-- SCRUB writes zeros over its range. -/
def bodyScrub : Body := fun c s =>
  c.claim s 2 (pair c.w 2) (pair c.w 0) true (fun ps s =>
    okRes [] ((s.zeroRange ps (pair c.w 2) (pair c.w 0)).progressSrc c.src (pair c.w 0 / mib)))

def execScrub (src : Source) (pkt : Packet) (s : State) : Host.Outcome State Fault Refusal := runRow specScrub bodyScrub src pkt s

/-! ### Host reads and writes (R138) -/

/-- The length of the next request from `a`, within 4,096-byte boundaries and `most`. -/
def nextCut (a left most : Nat) : Nat := min left (min (4096 - a % 4096) most)

/-- A function uses 10-bit tags: the PF as Device Control 2 sets it, the VFs as SR-IOV Control does. -/
def Hif.tenBit (h : Hif) : Fn → Bool
  | .pf => h.tag10
  | .vf _ => h.pcie.sriovControl.getLsbD 5

/-- The first tag a function may use and how many it has: 256 to 1,023 with 10-bit tags, else 256 with extended tags, else 32 (Table 4.2).
[log 111 PRESUMED] -/
def Hif.tagRange (h : Hif) (f : Fn) : Nat × Nat := if h.tenBit f then (256, 768) else if h.extTag then (0, 256) else (0, 32)

/-- The key of a function's read under tag `t`. -/
def readKey (f : Fn) (t : Nat) : Nat := 1024 * fnNum f + t

/-- The key of the next read of a function: its lowest tag that no read has, else the lowest one whose read has timed out. [log 111 PRESUMED] -/
def State.nextRead (s : State) (f : Fn) : Nat :=
  let (base, n) := s.hif.tagRange f
  let keys := (List.range n).map (fun t => readKey f (base + t))
  match keys.find? (fun k => (Tab.find? s.hif.reads k).isNone) with
  | some k => k
  | none => (keys.find? (fun k => (Tab.find? s.hif.reads k).any (fun (r : HostRead) => r.expired))).getD (readKey f base)

/-- Issue one host read. -/
def State.issueRead (s : State) (f : Fn) (a n : Nat) (why : ReadPurpose) : State :=
  let r : HostRead := { fn := f, addr := a, len := n, issued := s.now, purpose := why, tag := s.sourceTag .fe }
  let k := s.nextRead f
  { s with hif := { s.hif with reads := Tab.insert s.hif.reads k r } }.toHost (.readReq f (k % 1024) a n)

/-- How many reads a function may still issue: 768 are outstanding at once across all functions (R138), and one for each of its tags. -/
def State.readRoom (s : State) (f : Fn) : Nat :=
  let live := List.filter (fun (y : Nat × HostRead) => !y.2.expired) s.hif.reads
  min (768 - live.length) ((s.hif.tagRange f).2 - (List.filter (fun (y : Nat × HostRead) => y.2.fn == f) live).length)

/-- Issue reads of a HOST_PULL while fewer than 768 are outstanding. -/
def pullIssue (src : Source) (id total : Nat) : Nat → Nat → Nat → Nat → State → Nat × Nat × Nat × State
  | 0, host, left, out, s => (host, left, out, s)
  | fuel + 1, host, left, out, s =>
    if left = 0 || s.readRoom (srcFn src) = 0 then (host, left, out, s)
    else
      let n := nextCut host left s.hif.maxReadReq
      pullIssue src id total fuel (host + n) (left - n) (out + 1) (s.issueRead (srcFn src) host n (.pull src id (total - left)))

def specHostPull : OpSpec :=
  { code := 0x0103, callP := true, callC := true, used := [0, 1, 2, 3, 4, 5],
    checks := [bytesSpan 0 (2 ^ 32), .addr 2 1, .range48 2 [0, 1] (fun w => pair w 0)] }

/-- HOST_PULL reads host memory in ascending order; it executes until every byte has arrived. -/
def bodyHostPull : Body := fun c s =>
  c.claim s 2 (pair c.w 2) (pair c.w 0) true (fun ps s =>
    let (h, l, o, s) := pullIssue c.src c.id (pair c.w 0) 768 (pair c.w 4) (pair c.w 0) 0 s
    (.run (.hostPull h l ps (pair c.w 2) [] o), s))

def execHostPull (src : Source) (pkt : Packet) (s : State) : Host.Outcome State Fault Refusal :=
  runRow specHostPull bodyHostPull src pkt s

/-- Write host memory, split at the max payload size and at 4,096-byte boundaries; bulk data carries Relaxed Ordering when
enabled (R138, Table 4.2). -/
def State.hostWriteAux (s : State) (f : Fn) : Nat → Nat → Bytes → State
  | 0, _, _ => s
  | fuel + 1, a, d =>
    match d with
    | [] => s
    | _ =>
      let n := nextCut a d.length s.hif.maxPayload
      (s.toHost (.write f a (d.take n) s.hif.relaxedOrdering)).hostWriteAux f fuel (a + n) (d.drop n)

def State.hostWrite (s : State) (f : Fn) (a : Nat) (d : Bytes) : State := s.hostWriteAux f d.length a d

def specHostPush : OpSpec :=
  { code := 0x0104, callP := true, callC := true, used := [0, 1, 2, 3, 4, 5],
    checks := [bytesSpan 0 (2 ^ 32), .addr 2 1, .range48 2 [0, 1] (fun w => pair w 0)] }

def bodyHostPush : Body := fun c s =>
  c.claim s 2 (pair c.w 2) (pair c.w 0) false (fun ps s =>
    c.read s ps (pair c.w 2) (pair c.w 0) (fun d s =>
      okRes [] (((s.hostWrite (srcFn c.src) (pair c.w 4) d).profDma c.src (pair c.w 0)).progressSrc c.src (pair c.w 0 / mib))))

def execHostPush (src : Source) (pkt : Packet) (s : State) : Host.Outcome State Fault Refusal :=
  runRow specHostPush bodyHostPush src pkt s

end Sys2Proof.Machine
end

