-- ==== Sys2Proof/Machine/Aer.lean ====
section
/-!
DEFINITION. Advanced Error Reporting of the PCIe functions (R130, R149): the class of each error, the registers that log it, the message that
reports it; and the functions whose memory space answers.
-/

namespace Sys2Proof.Machine
open Sys2Proof

/-- Errors of the link itself, logged in the PF only (Table 4.9). -/
def AerError.ofLink : AerError → Bool
  | .completionTimeout => false
  | .unexpectedCompletion => false
  | .poisonedTlp => false
  | .unsupportedRequest => false
  | _ => true

/-- The class of an error (Table 4.9). -/
inductive AerClass where
  | correctable | nonFatal | advisory | fatal
deriving DecidableEq, Repr

/-- Table 4.9. -/
def AerError.cls : AerError → AerClass
  | .receiver => .correctable
  | .badFlit => .correctable
  | .badDllp => .correctable
  | .replayTimeout => .correctable
  | .replayRollover => .correctable
  | .completionTimeout => .nonFatal
  | .unsupportedRequest => .nonFatal
  | .unexpectedCompletion => .advisory
  | .poisonedTlp => .advisory
  | .internal => .fatal
  | .dataLinkProtocol => .fatal
  | .malformedTlp => .fatal
  | .receiverOverflow => .fatal
  | .flowControlProtocol => .fatal
  | .surpriseDown => .fatal

/-- The bit of an error in the status register of its class. [log 111 PRESUMED] -/
def AerError.bitNo : AerError → Nat
  | .receiver => 0
  | .badFlit => 6
  | .badDllp => 7
  | .replayRollover => 8
  | .replayTimeout => 12
  | .dataLinkProtocol => 4
  | .surpriseDown => 5
  | .poisonedTlp => 12
  | .flowControlProtocol => 13
  | .completionTimeout => 14
  | .unexpectedCompletion => 16
  | .receiverOverflow => 17
  | .malformedTlp => 18
  | .unsupportedRequest => 20
  | .internal => 22

/-- Where an error is classed when the host has set the severity register: Table 4.9's classes are its reset value. -/
def State.aerClass (s : State) (e : AerError) : AerClass :=
  if AerError.cls e = .correctable then .correctable
  else if s.hif.pcie.severity.getLsbD (AerError.bitNo e) then .fatal
  else if AerError.cls e = .advisory then .advisory
  else .nonFatal

/-- An error of class `c` sets its bit in the status register, an advisory one also bit 13 of the correctable register, and the bits of Device
Status that it asks for. [log 111 PRESUMED] -/
def AerLog.add (l : AerLog) (e : AerError) (c : AerClass) : AerLog :=
  let b : W32 := BitVec.ofNat 32 (2 ^ AerError.bitNo e)
  let seen : BitVec 4 := match c with
    | .correctable => 1
    | .advisory => 1
    | .nonFatal => 2
    | .fatal => 4
  { errors := l.errors ++ [e]
    uncorrectable := if AerError.cls e = .correctable then l.uncorrectable else l.uncorrectable ||| b
    correctable := match c with
      | .correctable => l.correctable ||| b
      | .advisory => l.correctable ||| BitVec.ofNat 32 (2 ^ 13)
      | _ => l.correctable
    detected := l.detected ||| seen ||| (if e = .unsupportedRequest then 8 else 0) }

/-- The message that reports an error: none where its mask is set or Device Control does not enable it. A surprise down finds no link to carry
one. [log 111 PRESUMED] -/
def State.aerMessage (s : State) (e : AerError) : Option ErrMsg :=
  let bit := AerError.bitNo e
  let en (n : Nat) : Bool := s.hif.errEnables.getLsbD n
  if e = .surpriseDown then none
  else match s.aerClass e with
    | .correctable => if en 0 && !s.hif.pcie.corMask.getLsbD bit then some .correctable else none
    | .advisory => if en 0 && !s.hif.pcie.corMask.getLsbD 13 then some .correctable else none
    | .nonFatal =>
      if en 1 && (e != .unsupportedRequest || en 3) && !s.hif.pcie.uncMask.getLsbD bit then some .nonFatal else none
    | .fatal =>
      if en 2 && (e != .unsupportedRequest || en 3) && !s.hif.pcie.uncMask.getLsbD bit then some .fatal else none

/-- Log an AER error in its function and report it; it resets nothing (R130, R149). -/
def State.logAer (s : State) (f : Fn) (e : AerError) : State :=
  let g : Fn := if AerError.ofLink e then .pf else f
  let l := Tab.get s.hif.aer {} (fnNum g)
  let l' : AerLog := l.add e (s.aerClass e)
  let t : State := { s with hif := { s.hif with aer := Tab.set s.hif.aer {} (fnNum g) l' } }
  match s.aerMessage e with
  | some m => t.toHost (.errMsg g m)
  | none => t

/-! ### Functions whose memory space answers (R134, R144, R150) -/

/-- The main side is out of reset, the PF is not in D3hot, a VF is present. -/
def State.barAnswers (s : State) (f : Fn) : Bool :=
  !s.power.mainHeld && (match f with
    | .pf => !s.hif.d3hot
    | .vf p => s.vfPresent p)

/-- An access that no function answers: an unsupported request, logged in the PF; while PERST_N is asserted the part answers nothing at all. -/
def State.unanswered (s : State) : State := if s.power.mainHeld then s else s.logAer .pf .unsupportedRequest

end Sys2Proof.Machine
end

