-- ==== Sys2Proof/Machine/Curve.lean ====
section
/-!
DEFINITION. X25519 (RFC 7748), arithmetic modulo a prime, Shamir interpolation over GF(2^255 − 19), and primality.
-/

namespace Sys2Proof.Machine
open Sys2Proof

def p25519 : Nat := 2 ^ 255 - 19

/-- `b ^ e mod m` by squaring; `fuel` bounds the bits of the exponent. -/
def powModAux (m : Nat) : Nat → Nat → Nat → Nat → Nat
  | 0, _, _, acc => acc
  | fuel + 1, b, e, acc =>
    if e = 0 then acc else powModAux m fuel (b * b % m) (e / 2) (if e % 2 = 1 then acc * b % m else acc)

def powMod (m b e : Nat) : Nat := powModAux m (e.log2 + 1) (b % m) e (1 % m)

/-- The inverse modulo a prime. -/
def invMod (m b : Nat) : Nat := powMod m b (m - 2)

def subMod (m a b : Nat) : Nat := (a % m + m - b % m) % m

structure Ladder where
  x2 : Nat
  z2 : Nat
  x3 : Nat
  z3 : Nat
  swap : Bool

/-- One step of the Montgomery ladder for bit `kt`. -/
def ladderStep (x1 : Nat) (l : Ladder) (kt : Bool) : Ladder :=
  let m := p25519
  let sw := l.swap != kt
  let x2 := if sw then l.x3 else l.x2
  let x3 := if sw then l.x2 else l.x3
  let z2 := if sw then l.z3 else l.z2
  let z3 := if sw then l.z2 else l.z3
  let a := (x2 + z2) % m
  let aa := a * a % m
  let b := subMod m x2 z2
  let bb := b * b % m
  let e := subMod m aa bb
  let c := (x3 + z3) % m
  let d := subMod m x3 z3
  let da := d * a % m
  let cb := c * b % m
  let u := (da + cb) % m
  let v := subMod m da cb
  { x3 := u * u % m, z3 := x1 * (v * v % m) % m, x2 := aa * bb % m, z2 := e * ((aa + 121665 * e) % m) % m, swap := kt }

/-- X25519 of a 32-byte scalar and a 32-byte u-coordinate. -/
def x25519 (k u : Bytes) : Bytes :=
  let n := leNat (fit 32 k)
  let n := n / 8 * 8 % 2 ^ 254 + 2 ^ 254
  let x1 := leNat (fit 32 u) % 2 ^ 255 % p25519
  let l := (List.range 255).foldl (fun l i => ladderStep x1 l (bit n (254 - i)))
    { x2 := 1, z2 := 0, x3 := x1, z3 := 1, swap := false }
  let x := if l.swap then l.x3 else l.x2
  let z := if l.swap then l.z3 else l.z2
  leBytes 32 (x * invMod p25519 z % p25519)

def basePoint : Bytes := 9 :: zeros 31

/-- The public key of a private key. -/
def x25519Pub (k : Bytes) : Bytes := x25519 k basePoint

/-- Lagrange interpolation at 0 over GF(m) from points (x, y). -/
def interpolateZero (m : Nat) (pts : List (Nat × Nat)) : Nat :=
  (pts.foldl (fun acc (x, y) =>
    let nd := pts.foldl (fun (nd : Nat × Nat) (q : Nat × Nat) =>
      if q.1 = x then nd else (nd.1 * q.1 % m, nd.2 * subMod m q.1 x % m)) (1, 1)
    (acc + y * nd.1 % m * invMod m nd.2) % m) 0) % m

/-- Trial division up to the square root, for the moduli of the spec, all below 2^16. -/
def isPrime (n : Nat) : Bool := decide (2 ≤ n) && (List.range 256).all (fun k => k < 2 || n ≤ k || n % k != 0)

end Sys2Proof.Machine
end

