-- ==== Sys2Proof/Machine/Tree.lean ====
section
/-!
DEFINITION. The tree over a participant set (R505), and the formed Trellises by their key.
-/

namespace Sys2Proof.Machine
open Sys2Proof

/-! ### The tree (R505) -/

/-- The heads of the groups of `x`, ascending. -/
def headsOf (x : List Nat) : List Nat := x.filter (fun f => !x.any (fun g => decide (g < f) && groupOf g == groupOf f))

/-- The parent of a participant; none for the root. -/
def treeParent (x : List Nat) (f : Nat) : Option Nat :=
  let hs := headsOf x
  match hs.findIdx? (· == f) with
  | some 0 => none
  | some r => hs[(r - 1) / 8]?
  | none => hs.find? (fun h => groupOf h == groupOf f)

def treeChildren (x : List Nat) (f : Nat) : List Nat := x.filter (fun c => treeParent x c == some f)

/-- Steps from the root. -/
def treeDepthOf (x : List Nat) (f : Nat) : Nat → Nat
  | 0 => 0
  | fuel + 1 => match treeParent x f with
    | none => 0
    | some p => treeDepthOf x p fuel + 1

def treeDepth (x : List Nat) : Nat := x.foldl (fun d f => max d (treeDepthOf x f 4)) 0

/-- The nodes above one, from its parent to the root. -/
def treeAbove (x : List Nat) (f : Nat) : Nat → List Nat
  | 0 => []
  | fuel + 1 => match treeParent x f with
    | none => []
    | some p => p :: treeAbove x p fuel

/-- A node's neighbours in the tree. -/
def treePeers (x : List Nat) (f : Nat) : List Nat := (treeParent x f).toList ++ treeChildren x f

/-! ### Formed Trellises -/

def tkey (p : Fin 64) (id : Nat) : Nat := 256 * p.val + id

def State.formed? (s : State) (k : Nat) : Option Formed := Tab.find? s.trellis.formed k

def State.setFormed (s : State) (k : Nat) (f : Formed) : State :=
  { s with trellis := { s.trellis with formed := Tab.insert s.trellis.formed k f } }

/-- The key of the Trellis that a message names. -/
def treeKey (x : TreeId) : Nat := 256 * (x.part % 64) + x.tid

/-- What a message of Trellis `k` carries to name it (R502). -/
def State.treeOf (s : State) (k : Nat) : TreeId := { part := k / 256, tid := k % 256, crc := ((s.formed? k).map (fun (f : Formed) => f.crc)).getD 0 }

/-- What a message of a round's stages carries (R502). -/
def State.treeId (s : State) (r : Round) : TreeId := s.treeOf (tkey r.part r.policy.trellis)

end Sys2Proof.Machine
end

