-- ==== Sys2Proof/Machine/RoundOps.lean ====
section
/-!
DEFINITION. Rounds: moduli and residues, the round table, state changes, round-private memory, abort and close (ch. 1,
ch. 8).
-/

namespace Sys2Proof.Machine
open Sys2Proof

/-! ### Moduli (Tables 5.9, 7.5, 8.2, 9.4) -/

def Modulus.value : Modulus → Nat
  | .m16 => 2 ^ 16
  | .m32 => 2 ^ 32
  | .m64 => 2 ^ 64
  | .p61 => 2 ^ 61 - 1
  | .prime p => p

/-- Residue width in bytes (Table 7.5). -/
def Modulus.width : Modulus → Nat
  | .m16 => 2
  | .m32 => 4
  | .m64 => 8
  | .p61 => 8
  | .prime _ => 2

/-- Keystream bytes per element (Table 9.4). -/
def Modulus.streamBytes : Modulus → Nat
  | .m16 => 2
  | .m32 => 4
  | .m64 => 8
  | .p61 => 16
  | .prime _ => 8

def Modulus.code : Modulus → Nat
  | .m16 => 0
  | .m32 => 1
  | .m64 => 2
  | .p61 => 3
  | .prime _ => 4

/-- The modulus a code and p name (Table 5.9). -/
def modulusOf (code p : Nat) : Option Modulus :=
  match code with
  | 0 => some .m16
  | 1 => some .m32
  | 2 => some .m64
  | 3 => some .p61
  | 4 => some (.prime p)
  | _ => none

/-- A prime that code 4 takes. -/
def goodPrime (p : Nat) : Bool := decide (2 ^ 8 < p) && decide (p < 2 ^ 16) && isPrime p

/-- ADD of Table 8.2. -/
def bedAdd (m : Modulus) (a b : Nat) : Nat := (a + b) % m.value

/-- SUB of Table 8.2. -/
def bedSub (m : Modulus) (a b : Nat) : Nat := (a + (m.value - b)) % m.value

/-- Elements of a strip (R273). -/
def Modulus.strip (m : Modulus) : Nat := 2 ^ 20 / m.width

def stripsOf (m : Modulus) (len : Nat) : Nat := ceilDiv len m.strip

def alignUp64 (n : Nat) : Nat := alignUp n 64

/-! ### The round table -/

def State.round? (s : State) (e : Nat) : Option Round := Tab.find? s.rounds.table e

def State.setRound (s : State) (e : Nat) (r : Round) : State :=
  { s with rounds := { s.rounds with table := Tab.insert s.rounds.table e r } }

def State.modRound (s : State) (e : Nat) (f : Round → Round) : State :=
  match s.round? e with
  | some r => s.setRound e (f r)
  | none => s

/-- The entry of a partition's round that is not CLOSED and not a shadow. -/
def State.roundEntry (s : State) (p : Fin 64) (id : Nat) : Option Nat :=
  List.findSome? (fun (y : Nat × Round) => if y.2.part = p && y.2.id.toNat = id && !y.2.shadow then some y.1 else none) s.rounds.table

/-- The round a message names on this device. -/
def State.msgRound (s : State) (part : Nat) (id : W32) : Option Nat := s.roundEntry (Fin.ofNat 64 part) id.toNat

/-- A message of a round is acted on where this device holds the round (R625 in a mirrored one). -/
def State.onNamed (s : State) (part : Nat) (id : W32) (act : Nat → State) : State :=
  match s.msgRound part id with
  | some e => act e
  | none => s

/-- The entries of a partition's rounds. -/
def State.roundsOf (s : State) (p : Fin 64) : List Nat :=
  List.filterMap (fun (y : Nat × Round) => if y.2.part = p then some y.1 else none) s.rounds.table

def RoundState.isAborted : RoundState → Bool
  | .aborted _ => true
  | _ => false

/-- The cause of an abort, OK for any other state. -/
def RoundState.cause : RoundState → Status
  | .aborted c => c
  | _ => .ok

/-- Rank along Table 1.2. -/
def RoundState.rank : RoundState → Nat
  | .opened => 0
  | .ingesting => 1
  | .harvested => 2
  | .revealing => 3
  | .unmasked => 4
  | .sealed => 5
  | .released => 6
  | .aborted _ => 7

/-- From REVEALING onward, not aborted. -/
def RoundState.late (x : RoundState) : Bool := decide (3 ≤ x.rank) && decide (x.rank ≤ 6)

/-- Move a round to a state: PT_INT_STATUS.ROUND_STATE with vector 0, and the round's bit of PT_INT_ROUNDS (Table 27.7).
A shadow signals nothing. -/
def State.changeRound (s : State) (e : Nat) (st : RoundState) : State :=
  match s.round? e with
  | none => s
  | some r =>
    let s := s.setRound e { r with state := st }
    if r.shadow then s
    else
      let old := Tab.get s.hif.vfIntRounds 0 r.part.val
      { s with hif := { s.hif with vfIntRounds := Tab.set s.hif.vfIntRounds 0 r.part.val (old ||| BitVec.ofNat 16 (2 ^ r.position)) } }.raiseVf r.part 16 0

/-! ### Participants -/

def State.ownFid (s : State) : Nat := s.spetar.fid.getD 0

/-- The participants a round goes on with: the RESULT mask once harvest has one. -/
def Round.live (r : Round) : List Nat := if r.harvest.stage = .done then r.harvest.mask else r.participants

/-- The fabric ID this device has in a round; a round on one device keeps the one it was opened under. -/
def State.selfIn (s : State) (r : Round) : Nat := r.self.getD (if r.policy.fabric then s.ownFid else r.leader)

/-- The fabric ID of the seal token's holder as results and registers give it: this device's own for a round on one device (R366). -/
def State.tokenFid (s : State) (r : Round) : Nat := if r.policy.fabric then r.holderFid else s.ownFid

def State.peersOf (s : State) (r : Round) : List Nat := r.live.filter (· != s.selfIn r)

/-- The participant a message comes from, as the round lists it; none for one that was substituted (R630). [log 72 DEDUCED] -/
def Round.origin (r : Round) (f : Nat) : Option Nat :=
  if (Tab.find? r.replaced f).isSome then none
  else some ((List.findSome? (fun (y : Nat × Nat) => if y.2 = f then some y.1 else none) r.replaced).getD f)

/-- A round message arrives. On a mirrored round the primary forwards it and acts once the secondary has it (R625). -/
def State.onMessage (s : State) (e origin : Nat) (m : RoundMsg) (act : Nat → State) : State :=
  match s.round? e with
  | none => s
  | some r =>
    match r.origin origin with
    | none => s
    | some o =>
      if s.mirroring e then s.sendMirror (.message r.part.val r.id o m) (.message e o m) else act o

/-- The live participant next above `f` in ascending fabric ID, wrapping to the lowest (R36, R372). -/
def nextAbove (live : List Nat) (f : Nat) : Option Nat :=
  match live.filter (fun x => decide (f < x)) with
  | x :: _ => some x
  | [] => live.head?

/-- The seal token leaves a lost holder (R372, R631). -/
def Round.moveToken (r : Round) (lost : Nat) : Round :=
  if r.tokenHolder != lost then r
  else { r with tokenHolder := (nextAbove (r.live.filter (· != lost)) lost).getD lost, tokenEpoch := nextEpoch r.tokenEpoch }

/-- A token holder found absent loses the token (Table 1.5). -/
def Round.keepToken (r : Round) : Round := if r.live.contains r.tokenHolder then r else r.moveToken r.tokenHolder

/-- The home of a client (R330): of two maps that list it, the lower fabric ID's. [log 57 DEDUCED, 169 DESIGN CHOICE] -/
def Round.home (r : Round) (c : Nat) : Option Nat :=
  List.findSome? (fun (y : Nat × List Nat) => if y.2.contains c then some y.1 else none) r.homes

/-- The reconstructing device of a client: its home, or the adopter of R36. -/
def Round.reconDev (r : Round) (c : Nat) : Option Nat :=
  match r.home c with
  | none => none
  | some h => if r.harvest.mask.contains h then some h else nextAbove r.harvest.mask h

/-- Every client of the home map, ascending. -/
def Round.clients (r : Round) : List Nat := (r.homes.flatMap (fun (_, l) => l)).foldl (fun acc c => insertNat c acc) []

/-- The clients homed on or adopted by a device. -/
def Round.clientsOf (r : Round) (d : Nat) : List Nat := r.clients.filter (fun c => r.reconDev c == some d)

def Round.survived (r : Round) (c : Nat) : Bool := r.harvest.survivors.contains c

/-- The segment set of a record that lists `l`, every segment where the list is empty (Table 10.5). -/
def Round.segSet (r : Round) (l : List Nat) : List Nat := if l.isEmpty then List.range r.segs.length else l

/-! ### Round-private memory (R45, R651) -/

/-- Take `n` more bytes of round-private memory, in DEVICE chunks of the partition's quota. [log 52 DESIGN CHOICE] -/
def State.roundAlloc (s : State) (e n : Nat) : Option State :=
  match s.round? e with
  | none => none
  | some r =>
    let need := ceilDiv (r.bytesUsed + n) chunkBytes - r.chunks.length
    match s.allocChunks r.part need with
    | none => none
    | some (cs, s') => some (s'.setRound e { r with bytesUsed := r.bytesUsed + n, chunks := r.chunks ++ cs })

/-! ### Revision interval (R281) -/

/-- The revision interval in force, in ns. [log 149 DEDUCED] -/
def State.reviseNs (s : State) : Nat := (if s.now < s.rounds.reviseFrom then s.rounds.reviseOld else s.rounds.reviseMs) * 1000000

/-- The replica target in force. [log 149 DEDUCED] -/
def State.hotInForce (s : State) : Nat := if s.now < s.rounds.hotFrom then s.rounds.hotOld else s.rounds.hotTarget

/-- The next multiple of the interval in force. -/
def State.nextBoundary (s : State) : Nat := (s.now / s.reviseNs + 1) * s.reviseNs

/-- The boundary that falls in this cycle and is still to be revised at. [log 149 DEDUCED] -/
def State.boundaryNow (s : State) : Option Nat :=
  let b := s.now / s.reviseNs * s.reviseNs
  if s.rounds.revisedAt < b && s.now < b + 3 then some b else none

/-! ### Descriptors -/

/-- Bytes of staging a bundle takes (R252). -/
def stagingOf (bytes : Nat) : Nat := alignUp bytes 65536

/-- The ring slot address of descriptor `n` (R240). -/
def Ring.slotAddr (g : Ring) (n : Nat) : Nat := g.base.toNat + 64 * (1 + n % (2 ^ (g.log2 - 6) - 1))

/-- Write bytes into a ring through its held translation. -/
def State.writeRing (s : State) (g : Ring) (a : Nat) (d : Bytes) : State :=
  let page := g.pages.getD ((a - g.base.toNat / pageBytes * pageBytes) / pageBytes) 0
  s.writePhys (page + a % pageBytes) d

def State.readRing (s : State) (g : Ring) (a n : Nat) : Except Status Bytes × State :=
  let ph := g.pages.getD ((a - g.base.toNat / pageBytes * pageBytes) / pageBytes) 0 + a % pageBytes
  match s.consumeLines 0xFF (linesOf ph n) with
  | (some st, s') => (.error st, s')
  | (none, s') => (.ok (memRead s'.part.mem ph n), s')

/-- Where an outcome counts in the control block (Table 7.2). -/
def Ring.count (g : Ring) (st : Status) : Ring :=
  match st with
  | .ok => { g with committed := g.committed + 1 }
  | .late => { g with lateCount := g.lateCount + 1 }
  | .duplicate => { g with duplicates := g.duplicates + 1 }
  | .notInCohort => { g with notInCohort := g.notInCohort + 1 }
  | .badParam => { g with malformed := g.malformed + 1 }
  | .range => { g with malformed := g.malformed + 1 }
  | _ => { g with faulted := g.faulted + 1 }

/-- Bytes 0x20 to 0x3F of a retired descriptor (Table 7.3). -/
def descOutcome (d : Desc) (st : Status) (test now : Nat) : Bytes :=
  leBytes 8 d.stamp ++ leBytes 2 st.code ++ leBytes 1 test ++ [0] ++ leBytes 4 d.n ++ leBytes 8 now ++ zeros 8

/-- The descriptors from the retire point on whose outcomes are decided. -/
def decidedRun : Nat → List Desc → Nat
  | _, [] => 0
  | n, d :: t => if d.n = n then (match d.state with
      | .decided _ _ => decidedRun (n + 1) t + 1
      | _ => 0) else 0

/-- The counts of the control block, one for each of its eight words (Table 7.2). -/
def Ring.counts (g : Ring) : List Nat :=
  [g.retired % 2 ^ 32, g.offered, g.committed, g.lateCount, g.duplicates, g.notInCohort, g.malformed, g.faulted]

/-- Write the words of the control block whose counts changed since they were last written; RETIRED's word keeps the half that software
wrote (R257). [log 150 DEDUCED] -/
def State.writeCounts (s : State) (g : Ring) : State :=
  (List.range 8).foldl (fun s k =>
    let v := g.counts.getD k 0
    if v = g.shown.getD k 0 then s
    else if k = 0 then s.writeRing g (g.base.toNat + 4) (leBytes 4 v)
    else s.writeRing g (g.base.toNat + 8 * k) (leBytes 8 v)) s

/-- Decide a descriptor: its outcome is written into its slot, RETIRED advances over contiguous decided ones, the counts
are written and DONE_FENCE is signalled for the queue that bound the ring (R257, R258). -/
def State.retireAt (s : State) (e n : Nat) (st : Status) (test now : Nat) : State :=
  match s.round? e with
  | none => s
  | some r =>
    match r.ring with
    | none => s
    | some g =>
      match g.descs.find? (fun d => d.n == n) with
      | none => s
      | some d =>
        let descs := g.descs.map (fun x => if x.n = n then { x with state := .decided st test } else x)
        let adv := decidedRun g.retired descs
        let left := if st = Status.ok then g.staged else Tab.erase g.staged n
        let g' := { (g.count st) with descs := descs.drop adv, retired := g.retired + adv, staged := left }
        let s := s.setRound e { r with ring := some { g' with shown := g'.counts } }
        let s := s.writeRing g' (g'.slotAddr n + 32) (descOutcome d st test now)
        let s := s.writeCounts g'
        let back := Tab.get g.staged 0 n
        let s := if st = Status.ok then s else { s with rounds := { s.rounds with stagingUsed := s.rounds.stagingUsed - back } }
        let s := s.progressSrc g.agent 1
        if g.doneEn && adv ≠ 0 then
          (s.signalFence (fenceKey (some r.part) g.doneFence) .add (BitVec.ofNat 64 adv) (srcAgent g.agent)).2
        else s

/-- Log 54 DEDUCED. -/
def State.retire (s : State) (e n : Nat) (st : Status) (test : Nat) : State := s.retireAt e n st test s.now

/-- Abandon the host reads of a bundle (R250). -/
def State.abandonReads (s : State) (e n : Nat) : State :=
  let mark (_ : Nat) (h : HostRead) : HostRead :=
    match h.purpose with
    | .bundle e' n' _ => if e' = e && n' = n then { h with abandoned := true } else h
    | _ => h
  { s with hif := { s.hif with reads := Tab.map mark s.hif.reads } }

/-- Reject a bundle (R249, R250). -/
def State.reject (s : State) (e n : Nat) (st : Status) (test : Nat) : State := (s.abandonReads e n).retire e n st test

/-- Descriptors not yet decided, ascending. -/
def Ring.undecided (g : Ring) : List Nat :=
  g.descs.filterMap (fun d => match d.state with
    | .decided _ _ => none
    | _ => some d.n)

/-! ### Staging and strips of a round -/

/-- Staging bytes a round still holds: bundles staging, and committed ones with additions outstanding. -/
def Round.stagingHeld (r : Round) : Nat :=
  match r.ring with
  | none => 0
  | some g => g.staged.foldl (fun n y => n + y.2) 0

def State.freeStaging (s : State) (n : Nat) : State :=
  { s with rounds := { s.rounds with stagingUsed := s.rounds.stagingUsed - n } }

def State.bed (s : State) (k : Nat) : BedSower := Tab.get s.rounds.beds {} k

def State.setBed (s : State) (k : Nat) (b : BedSower) : State :=
  { s with rounds := { s.rounds with beds := Tab.set s.rounds.beds {} k b } }

/-- A strip operation ends: its leases go, its Sower contexts are zeroed, and an EXPAND that waits for the Sower goes on (R262, R275, R292,
R315, R322). -/
def State.dropStrip (s : State) (k : Nat) : State :=
  let t := ((s.setBed k { s.bed k with op := none, running := {}, loading := {} }).dropLease 3 k).dropLease 2 k
  if (s.lease? 2 k).isSome then t.handOver (.sow (Fin.ofNat 32 k)) else t

/-- End every strip operation of a round. -/
def State.dropStrips (s : State) (e : Nat) : State :=
  (List.range 32).foldl (fun s k => match (s.bed k).op with
    | some o => if o.entry = e then s.dropStrip k else s
    | none => s) s

/-! ### Gate slots -/

def State.freeSlot (s : State) (k : Nat) : State :=
  { s with rounds := { s.rounds with gate := Tab.erase s.rounds.gate k, gateHeld := s.rounds.gateHeld.filter (· != k) } }

/-- End the exports of a round with ABORTED: a command at a strip boundary stops there, its segment stays marked
(R389). -/
def State.stopExports (s : State) (e : Nat) : State :=
  (List.range 8).foldl (fun s k => match Tab.find? s.rounds.gate k with
    | some g => if g.entry = e then (s.freeSlot k).complete g.src g.cmd .aborted [] else s
    | none => s) s

/-! ### Work that waits on a round -/

/-- The status with which work on round `e` ends when the round becomes ABORTED (R53, R324, R390); `none` where the round is
another. -/
def Work.abortStatus (w : Work) (e : Nat) (cause : Status) : Option Status :=
  match w with
  | .harvest r => if r = e then some cause else none
  | .shares r _ _ _ _ _ _ _ => if r = e then some cause else none
  | .combine r _ => if r = e then some cause else none
  | .unmask r => if r = e then some .aborted else none
  | .coded r _ => if r = e then some cause else none
  | .seal r => if r = e then some .aborted else none
  | _ => none

/-- Counts a HARVEST returns (R31). -/
def Round.harvestResults (r : Round) : List Nat := [r.harvest.survivors.length, r.harvest.dropped, r.harvest.absent]

/-- Withdraw the jobs of a round's coded decode: their tiles leave the Work list and the Plots that ran them. -/
def State.dropCodedJobs (s : State) (e : Nat) : State :=
  let jobs := List.filterMap (fun (y : Nat × Job) => if y.2.kind = .coded e then some y.1 else none) s.plot.jobs
  let ds := List.filterMap (fun (y : Nat × Tile) => if jobs.contains y.2.job then some y.1 else none) s.plot.tiles
  let stop (_ : Nat) (x : Plot) : Plot :=
    if x.claimed.any ds.contains then { x with claimed := none, acc := [], flags := 0, bad := none, opHeld := none } else x
  { s with
    q := { s.q with leases := Tab.filter (fun k _ => !(ds.contains k)) s.q.leases }
    plot := { s.plot with
      jobs := Tab.filter (fun k _ => !jobs.contains k) s.plot.jobs
      tiles := Tab.filter (fun k _ => !ds.contains k) s.plot.tiles
      plots := Tab.map stop s.plot.plots } }

/-! ### Trellis sums of a round -/

/-- The key of a sum that seals round `id`, under any epoch. -/
def sealsRound (id : W32) : SumKey → Bool
  | .seal x _ => x == id
  | .reduce _ => false

/-- Remove a round's seal sum from its Trellis, with the marks and credits that came for it. -/
def State.dropStages (s : State) (r : Round) : State :=
  { s with trellis := { s.trellis with
      formed := Tab.modify s.trellis.formed { list := [], crc := 0 } (256 * r.part.val + r.policy.trellis)
        (fun f => { f with
          sums := f.sums.filter (fun x => !sealsRound r.id x.key)
          marks := f.marks.filter (fun x => !sealsRound r.id x.1)
          early := f.early.filter (fun x => !sealsRound r.id x.1) }) } }

/-! ### Abort and close -/

/-- What ends with a round that aborts: descriptors retire with ABORTED, staged data and queued items are discarded,
exports stop, commands that wait on it complete (R53, R262, R324, R389, R390). [log 47 DEDUCED] -/
def State.endRoundWork (s : State) (e : Nat) (cause : Status) : State :=
  match s.round? e with
  | none => s
  | some r =>
    let ns := (r.ring.map Ring.undecided).getD []
    let s := ns.foldl (fun s n => s.reject e n .aborted 0) s
    let s := s.freeStaging (((s.round? e).map Round.stagingHeld).getD 0)
    let s := s.modRound e (fun r => { r with
      strips := [], unmasking := false, decoding := false, alarmAt := none, barrier := none, early := []
      ring := r.ring.map (fun g => { g with staged := [], additions := [] }) })
    let s := ((s.dropStrips e).stopExports e).dropCodedJobs e
    let s := (s.dropStages r).dropLease 7 e
    s.completeWork (fun w => (w.abortStatus e cause).map (fun st => (st, match w with
      | .harvest _ => r.harvestResults
      | _ => [])))

/-- Tell the other participants of a fabric round that this one aborts: LEAVE goes to the tree neighbours of its stage (R50, R516), and from
REVEALING on the abort to every other participant (R44). [log 59 DEDUCED] -/
def State.tellAbort (s : State) (e : Nat) (r : Round) (cause : Status) : State :=
  if !r.policy.fabric || r.shadow then s
  else
    let near := treePeers r.live (s.selfIn r)
    let s := s.sendRound e near (.leave (s.treeId r) r.id)
    if r.state.late then s.sendRound e ((s.peersOf r).filter (fun d => !near.contains d)) (.abort r.part.val r.id cause.code) else s

/-- Close a round: its chunks are scrubbed and return to the quota, its position and interrupt bit are freed (R42,
R652, Table 27.7). [log 46 DEDUCED] -/
def State.closeRound (s : State) (e : Nat) : State :=
  match s.round? e with
  | none => s
  | some r =>
    let s := (s.endMirror e).endRoundWork e .aborted
    let s := s.scrubAll r.part (((s.round? e).map (·.chunks)).getD r.chunks)
    let old := Tab.get s.hif.vfIntRounds 0 r.part.val
    let s := if r.shadow then s
      else { s with hif := { s.hif with vfIntRounds := Tab.set s.hif.vfIntRounds 0 r.part.val (old &&& ~~~(BitVec.ofNat 16 (2 ^ r.position))) } }
    { s with rounds := { s.rounds with table := Tab.erase s.rounds.table e } }

/-- The round a class 0x02 command names, as its words stand; a control-plane ROUND_ABORT names its partition too. -/
def State.roundOfCmd (s : State) (c : Cmd) : Option Nat :=
  let op := c.pkt.header.op.toNat
  let w (n : Nat) : Nat := c.words.getD n (c.pkt.word n)
  if !c.readable || op / 256 != 2 then none
  else match c.src with
    | .part p _ => s.roundNamed p (w 0)
    | .cp _ => if op = 0x020A then s.roundNamed (Fin.ofNat 64 (w 1)) (w 0) else none
    | .mgmt _ => none

/-- An ABORTED round closes once no dispatched command names it that is still to complete with its record (R42). [log 46 DEDUCED] -/
def State.closeIfAborted (s : State) (e : Nat) : State :=
  match s.round? e with
  | none => s
  | some r =>
    if r.state.isAborted && !s.q.cmds.any (fun c => !c.words.isEmpty && s.roundOfCmd c == some e) then s.closeRound e else s

/-- Every ABORTED round that may close closes. -/
def State.closeAborted (s : State) : State :=
  (List.map (fun (y : Nat × Round) => y.1) s.rounds.table).foldl (fun s e => s.closeIfAborted e) s

/-- A HARVEST, REVEAL_COMBINE or UNMASK that waits keeps the cause of an abort in its partition (R53, R187). -/
def Cmd.noteAbort (c : Cmd) (r : Round) (cause : Status) : Cmd :=
  let op := c.pkt.header.op.toNat
  let waits : Bool := match c.phase with
    | .waiting => true
    | .ready => true
    | .executing (.held _) => true
    | _ => false
  if waits && srcPart c.src == some r.part && (op == 0x0203 || op == 0x0205 || op == 0x0206) then
    { c with aborts := (r.id, cause, r.harvestResults) :: c.aborts }
  else c

/-- Make a round ABORTED (R43, Table 1.5); in RELEASED it cannot move there, and closes (R14, R43). `tell` is false where
the others know. [log 46 DEDUCED] -/
def State.abortRound (s : State) (e : Nat) (cause : Status) (tell : Bool) : State :=
  match s.round? e with
  | none => s
  | some r =>
    if r.state.isAborted then s
    else
      let s := (if tell then s.tellAbort e r cause else s).endMirror e
      if r.state = .released then s.closeRound e
      else
        let s := s.setCmds (s.q.cmds.map (fun c => c.noteAbort r cause))
        ((s.changeRound e (.aborted cause)).endRoundWork e cause).closeIfAborted e

/-- The key in `badData` of a round's stores of records, shares, seeds and latches. -/
def storesKey : Nat := 65536

/-- The key in `badData` of a round's contributor counts. -/
def countsKey : Nat := 65537

/-! ### What the token holder tells the others (R384, R385) -/

/-- The holder closes the round, or takes it to a new state, and tells the others (R384). [log 62 DEDUCED] -/
def State.tellState (s : State) (e : Nat) (closed : Bool) : State :=
  match s.round? e with
  | none => s
  | some r => if r.policy.fabric then s.sendRound e (s.peersOf r) (.stateChange r.part.val r.id closed r.tokenEpoch) else s

/-- A RELEASED round closes once every segment is marked and no RELEASE of it holds a slot (R385, R42). [log 62 DEDUCED] -/
def State.closeIfReleased (s : State) (e : Nat) : State :=
  match s.round? e with
  | none => s
  | some r =>
    let busy := List.any s.rounds.gate (fun y => y.2.entry == e)
    if r.state = .released && r.segs.all (·.marked) && !busy then (s.tellState e true).closeRound e else s

/-- Round-private memory that is read gives poison or an uncorrectable error: an entry, at the line met, and the round aborts
(Table 1.5, R394, R856). Where its arrays lie is left open, and so is the line. [log 28 DESIGN CHOICE] -/
def State.badRoundData (s : State) (e : Nat) (st : Status) : State :=
  let (x, s) := s.freeNat
  let a := 64 * (x % 2 ^ 32)
  let pb := ((s.round? e).map (fun r => partByte (some r.part))).getD 0xFF
  let cause : ErrCause := if st = .poisoned then .poisonConsumed else .memUce
  ((if st = .poisoned then s else s.countUce (a / chunkBytes)).logErr 2 (memcOf a) pb .contained cause a 0 st).abortRound e st true

/-- Rounds that use a Trellis of a partition. -/
def State.roundsOnTrellis (s : State) (p id : Nat) : List Nat :=
  List.filterMap (fun (y : Nat × Round) =>
    if y.2.part.val = p && y.2.policy.fabric && y.2.policy.trellis = id then some y.1 else none) s.rounds.table

/-! ### Leases of strips -/

def State.roundsWithStrip (s : State) (k : Nat) : Option Nat := (s.bed k).op.map (·.entry)

end Sys2Proof.Machine
end

