-- ==== Sys2Proof/Machine/Riddle.lean ====
section
/-!
DEFINITION. The Riddle: descriptors, staging, acceptance tests, commit (ch. 7).
-/

namespace Sys2Proof.Machine
open Sys2Proof

/-! ### Fetch (R241 to R245) -/

/-- Descriptors made available and not yet fetched: T − n in 32 bits (R241). -/
def State.descAvail (s : State) (r : Round) (g : Ring) : Nat :=
  let t := (s.fence (fenceKey (some r.part) g.tailFence) - g.base32).toNat
  (t % 2 ^ 32 + 2 ^ 32 - g.offered % 2 ^ 32) % 2 ^ 32

/-- A ring whose next descriptor may be fetched; a secondary fetches nothing for a shadow (R622). -/
def State.ringFetchable (s : State) (r : Round) : Bool :=
  match r.ring with
  | none => false
  | some g => !r.shadow && decide (0 < s.descAvail r g) && decide (g.offered < g.retired + (2 ^ (g.log2 - 6) - 1))

/-- Fetched descriptors held device-wide: not yet staging or decided (R244). -/
def State.heldDescs (s : State) : Nat :=
  s.rounds.table.foldl (fun n (_, r) => n + (((r.ring.map (·.descs)).getD []).filter (fun d => d.state == .held)).length) 0

/-- Rings in ascending entry that satisfy `p`. -/
def State.ringsWith (s : State) (p : Round → Bool) : List Nat :=
  List.filterMap (fun (y : Nat × Round) => if p y.2 then some y.1 else none) s.rounds.table

/-- The fields of the 64 descriptor bytes (Table 7.3). -/
def parseDesc (n stamp : Nat) (b : Bytes) : Desc :=
  { n := n, stamp := stamp, roundId := w32 (leNat (slice b 0 4)), client := leNat (slice b 4 3), bodyAddr := leNat (slice b 8 8)
    bodyBytes := leNat (slice b 16 4), segCount := leNat (slice b 20 4), state := .held }

/-- Whether a client lies in the window and the cohort. -/
def Round.inCohort (r : Round) (g : Ring) (c : Nat) : Bool :=
  decide (g.winLo ≤ c) && decide (c < g.winLo + g.winLen) && r.cohort.contains c

/-- Tests 1 to 5 of Table 7.6. -/
def fetchTest (r : Round) (g : Ring) (d : Desc) (b : Bytes) : Option (Status × Nat) :=
  if r.policy.deadline ≤ d.stamp then some (.late, 1)
  else if leNat (slice b 7 1) != 0 || leNat (slice b 24 8) != 0 || d.bodyAddr % 64 != 0 || d.bodyBytes % 64 != 0 then some (.badParam, 2)
  else if d.roundId != r.id then some (.badParam, 3)
  else if 2 ^ 30 < d.bodyBytes || d.segCount = 0 || r.segs.length < d.segCount then some (.range, 4)
  else if !r.inCohort g d.client then some (.notInCohort, 5)
  else none

/-- Fetch descriptor `offered` of the ring: stamped, tested, held or retired. [log 54 DEDUCED] -/
def State.fetchDesc (s : State) (e : Nat) (r : Round) (g : Ring) : State :=
  let n := g.offered
  let s := { s with rounds := { s.rounds with lastFetch := e } }
  let put (s : State) (d : Desc) : State :=
    (s.modRound e (fun r => { r with ring := r.ring.map (fun g => { g with offered := g.offered + 1, descs := g.descs ++ [d] }) })).progressSrc g.agent 1
  match s.readRing g (g.slotAddr n) 64 with
  | (.error st, s) => (put s (parseDesc n s.now (zeros 64))).retire e n st 0
  | (.ok b, s) =>
    let d := parseDesc n s.now b
    let s := put s d
    if r.state.isAborted then s.retire e n .aborted 0
    else match fetchTest r g d b with
      | some (st, t) => s.retire e n st t
      | none => s

/-- DESCRIPTOR_FETCH: the next ring in turn is `e` (R244). -/
def actDescriptorFetch (e : Fin 1024) (s : State) : State :=
  if s.heldDescs < 32768 && nextRobin (s.ringsWith s.ringFetchable) s.rounds.lastFetch == some e.val && s.running .fe then
    match s.round? e with
    | some r => (match r.ring with
      | some g => (s.fetchDesc e r g)
      | none => s)
    | none => s
  else s

def execDescriptorFetch (e : Fin 1024) (s : State) : Host.Outcome State Fault Refusal := s.conclude (actDescriptorFetch e s)

/-! ### Staging (R252) -/

/-- Issue body reads of a staging bundle while fewer than 768 are outstanding. -/
def bodyReads (p : Fin 64) (e n addr total : Nat) : Nat → Nat → State → Nat × State
  | 0, off, s => (off, s)
  | fuel + 1, off, s =>
    if total ≤ off || s.readRoom (.vf p) = 0 then (off, s)
    else
      let k := nextCut (addr + off) (total - off) s.hif.maxReadReq
      bodyReads p e n addr total fuel (off + k) (s.issueRead (.vf p) (addr + off) k (.bundle e n off))

/-- Change a descriptor of a ring. -/
def State.modDesc (s : State) (e n : Nat) (f : Desc → Desc) : State :=
  s.modRound e (fun r => { r with ring := r.ring.map (fun g => { g with descs := g.descs.map (fun d => if d.n = n then f d else d) }) })

def Ring.desc? (g : Ring) (n : Nat) : Option Desc := g.descs.find? (fun d => d.n == n)

def State.desc? (s : State) (e n : Nat) : Option Desc :=
  match s.round? e with
  | some r => (match r.ring with
    | some g => g.desc? n
    | none => none)
  | none => none

/-- Issue further reads of one bundle. -/
def State.continueReads (s : State) (e n : Nat) : State :=
  match s.round? e, s.desc? e n with
  | some r, some d =>
    (match d.state with
     | .staging got next =>
       let (next', s) := bodyReads r.part e n d.bodyAddr d.bodyBytes 768 next s
       s.modDesc e n (fun d => { d with state := .staging got next' })
     | _ => s)
  | _, _ => s

/-- A held descriptor that may be granted: no earlier bundle of its client is staging in the ring. -/
def Ring.grantable (g : Ring) (d : Desc) : Bool :=
  d.state == .held && !(g.descs.any (fun x => x.client == d.client && decide (x.n < d.n) && (match x.state with
    | .staging _ _ => true
    | .held => true
    | _ => false)))

/-- Bundles staging device-wide. -/
def State.stagingCount (s : State) : Nat :=
  s.rounds.table.foldl (fun n (_, r) => n + (((r.ring.map (·.descs)).getD []).filter (fun d => match d.state with
    | .staging _ _ => true
    | _ => false)).length) 0

def State.stagingFits (s : State) (d : Desc) : Bool :=
  decide (s.rounds.stagingUsed + stagingOf d.bodyBytes ≤ s.rounds.stagingGiB * 2 ^ 30) && decide (s.stagingCount < 512)

/-- The ring's next descriptor to be granted staging, which waits where the pool has no room for it (R252). -/
def State.nextGrant (s : State) (g : Ring) : Option Desc := (g.descs.find? g.grantable).filter s.stagingFits

def State.ringGrantable (s : State) (r : Round) : Bool :=
  match r.ring with
  | some g => (s.nextGrant g).isSome
  | none => false

def State.grant (s : State) (e : Nat) (r : Round) (d : Desc) : State :=
  let s := { s with rounds := { s.rounds with lastGrant := e } }
  if r.policy.deadline + 1000 * r.policy.harvestGraceUs < s.now then s.retire e d.n .late 14
  else if (Tab.find? r.contributions d.client).isSome then s.retire e d.n .duplicate 6
  else if d.bodyBytes = 0 then s.retire e d.n .badParam 11
  else
    let k := stagingOf d.bodyBytes
    let s := s.modDesc e d.n (fun d => { d with state := .staging [] 0 })
    let s := s.modRound e (fun r => { r with ring := r.ring.map (fun g => { g with staged := Tab.insert g.staged d.n k }) })
    let s := { s with rounds := { s.rounds with stagingUsed := s.rounds.stagingUsed + k } }
    let agent := ((r.ring.map (·.agent)).getD (.mgmt 0))
    (s.continueReads e d.n).progressSrc agent 1

/-- STAGING_GRANT: one bundle of ring `e`, when its turn has come (R252); test 6. A body of no bytes fails test 11 there. [log 53 DEDUCED] -/
def actStagingGrant (e : Fin 1024) (s : State) : State :=
  if nextRobin (s.ringsWith s.ringGrantable) s.rounds.lastGrant == some e.val && s.running .fe then
    match s.round? e with
    | some r => (match r.ring with
      | some g => (match s.nextGrant g with
        | some d => (s.grant e r d)
        | none => s)
      | none => s)
    | none => s
  else s

def execStagingGrant (e : Fin 1024) (s : State) : Host.Outcome State Fault Refusal := s.conclude (actStagingGrant e s)

/-! ### Body tests (R246 to R249) -/

/-- The bytes received so far from the start without a gap. [log 53 DEDUCED] -/
def contiguous (got : List (Nat × Bytes)) : Nat → Nat → Bytes
  | 0, _ => []
  | fuel + 1, off =>
    match got.find? (fun y => y.1 == off) with
    | some (_, d) => if d.isEmpty then [] else d ++ contiguous got fuel (off + d.length)
    | none => []

/-- The little-endian residues of a byte string. -/
def residues (w : Nat) (b : Bytes) : List Nat := (pieces w b).map leNat

/-- The parts of a body after header and table: each listed segment, then the coded block, as (offset, bytes, elements,
segment). -/
def bodyParts (m : Modulus) (segs : List Segment) : Nat → List Nat → List (Nat × Nat × Nat)
  | _, [] => []
  | off, i :: t =>
    let len := (segs.getD i { len := 0 }).len
    (off, len * m.width, i) :: bodyParts m segs (off + alignUp64 (len * m.width)) t

/-- The length R248 gives. -/
def bodyLength (m : Modulus) (segs : List Segment) (l : List Nat) (coded : Nat) : Nat :=
  64 + alignUp64 (2 * l.length) + (l.map (fun i => alignUp64 ((segs.getD i { len := 0 }).len * m.width))).foldl (· + ·) 0 + alignUp64 (2 * coded)

def codedLength (r : Round) : Nat := if r.policy.coded then 32 else 0

/-- Test 9 on the 64 header bytes (Table 7.4). [log 53 DEDUCED] -/
def headerTest (r : Round) (d : Desc) (m : Modulus) (b : Bytes) : Bool :=
  leNat (slice b 0 4) == 0x4B424E44 && leNat (slice b 4 4) == r.id.toNat && leNat (slice b 8 3) == d.client && leNat (slice b 11 1) == 0 &&
    leNat (slice b 12 4) == d.segCount && leNat (slice b 16 1) == m.code && leNat (slice b 17 3) == 0 && allZero (slice b 24 40)

/-- Test 12 on the whole residues and the padding received so far, in body order. [log 53 DEDUCED] -/
def residueTest (m : Modulus) (b : Bytes) : List (Nat × Nat × Nat) → Option (Status × Nat)
  | [] => none
  | (off, len, _) :: t =>
    let here := min len (b.length - off) / m.width * m.width
    if (residues m.width (slice b off here)).any (fun v => decide (m.value ≤ v)) then some (.range, 12)
    else if !allZero (slice b (off + len) (min (alignUp64 len - len) (b.length - (off + len)))) then some (.badParam, 12)
    else if b.length < off + alignUp64 len then none
    else residueTest m b t

/-- The segment table of a body. -/
def segTable (d : Desc) (b : Bytes) : List Nat := residues 2 (slice b 64 (2 * d.segCount))

/-- Where the residues end and the coded block begins. -/
def codedOffset (m : Modulus) (segs : List Segment) (l : List Nat) : Nat := bodyLength m segs l 0

/-- Test 10 on the entries of the segment table that are there; one that fails it both ways is BAD_PARAM. [log 53 DEDUCED, 159 DESIGN CHOICE] -/
def tableTest (r : Round) (l : List Nat) : Option (Status × Nat) :=
  if !rising l then some (.badParam, 10) else if l.any (fun i => decide (r.segs.length ≤ i)) then some (.range, 10) else none

/-- Tests 9 to 12 on what has been received, in body order; `none` where none has failed yet. A body that ends within its header or its
table is held to what is there, and fails test 11. [log 53 DEDUCED] -/
def bodyTest (r : Round) (d : Desc) (m : Modulus) (b : Bytes) : Option (Status × Nat) :=
  let tl := 64 + alignUp64 (2 * d.segCount)
  let whole := decide (b.length = d.bodyBytes)
  if b.length < 64 then (if whole then some (.badParam, 11) else none)
  else if !headerTest r d m b then some (.badParam, 9)
  else if b.length < tl then
    (if whole then some ((tableTest r (residues 2 (slice b 64 (min (2 * d.segCount) (b.length - 64))))).getD (.badParam, 11)) else none)
  else
    let l := segTable d b
    if !rising l || !allZero (slice b (64 + 2 * d.segCount) (tl - 64 - 2 * d.segCount)) then some (.badParam, 10)
    else if l.any (fun i => decide (r.segs.length ≤ i)) then some (.range, 10)
    else if d.bodyBytes != bodyLength m r.segs l (codedLength r) || leNat (slice b 20 4) != codedLength r then some (.badParam, 11)
    else
      let parts := bodyParts m r.segs tl l
      residueTest m b (parts ++ (if r.policy.coded then [(codedOffset m r.segs l, 64, 0)] else []))

/-! ### Commit (R253 to R255, R276, R280, R368) -/

/-- The active count a commit in cycle `t40` reads: a swap of that very cycle leaves it the old one (R285, R289). -/
def Segment.active (g : Segment) (t40 : Nat) : Nat :=
  match g.swapped with
  | some (t, old) => if t = t40 then old else g.r
  | none => g.r

/-- The items one listed segment queues in cycle `t40`: one for each strip of the client's replica. -/
def commitItems (m : Modulus) (n client t40 : Nat) (seg : Segment) (i : Nat) (vals : List Nat) : List StripItem :=
  (List.range (stripsOf m seg.len)).map (fun j =>
    { seg := i, rep := client % seg.active t40, strip := j, sub := false, what := .residues n (j * m.strip) (window vals (j * m.strip) m.strip) })

def bump32 (n : Nat) : Nat := if n < 2 ^ 32 - 1 then n + 1 else n

/-- Bytes of a contribution record (R254). -/
def recordSize (r : Round) (l : List Nat) : Nat := if l.length = r.segs.length then 8 else alignUp (8 + 2 * l.length) 8

/-- A bundle's contribution joins the round: its record, the counts, its strip items. A residue of the coded key's block is one byte of the
key. [log 168 DESIGN CHOICE] -/
def State.addBundle (s : State) (e : Nat) (d : Desc) (m : Modulus) (b : Bytes) : State :=
  match s.round? e with
  | none => s
  | some r0 =>
    let l := segTable d b
    let parts := bodyParts m r0.segs (64 + alignUp64 (2 * d.segCount)) l
    let items := parts.flatMap (fun (off, len, i) =>
      commitItems m d.n d.client s.time.t40 (r0.segs.getD i { len := 0 }) i (residues m.width (slice b off len)))
    let key := if r0.policy.coded then (residues 2 (slice b (codedOffset m r0.segs l) 64)).map (fun v => BitVec.ofNat 8 v) else []
    s.modRound e (fun r => { r with
      contributions := Tab.insert r.contributions d.client { client := d.client, segs := l, codedKey := key }
      segs := r.segs.mapIdx (fun i g => if l.contains i then { g with hits := bump32 g.hits, contributors := bump32 g.contributors } else g)
      strips := r.strips ++ items
      ring := r.ring.map (fun g => { g with additions := Tab.insert g.additions d.n items.length }) })

/-- The bytes of a staging bundle. -/
def Desc.body (d : Desc) : Bytes :=
  match d.state with
  | .staging got _ => contiguous got (got.length + 1) 0
  | _ => []

/-- A bundle that has passed every test commits at instant `now`. -/
def State.commitNow (s : State) (e n now : Nat) : State :=
  match s.round? e, s.desc? e n with
  | some r, some d => (match r.modulus with
    | some m => (s.addBundle e d m d.body).retireAt e n .ok 0 now
    | none => s)
  | _, _ => s

/-- Position `n` of a ring has staged data that holds an uncorrectable error. -/
def Round.stagedBad (r : Round) (n : Nat) : Bool := ((r.ring.map (·.stagingUce)).getD []).contains n

/-- A bundle that passed test 13 commits at instant `c`, against which test 14 is judged (R624); staging that has gone bad meanwhile fails
test 8 (R267). [log 160 DEDUCED] -/
def State.commitBy (s : State) (e n c : Nat) : State :=
  match s.round? e with
  | none => s
  | some r =>
    if r.policy.deadline + 1000 * r.policy.harvestGraceUs < c then s.reject e n .late 14
    else if r.stagedBad n then s.reject e n .eccUncorrectable 8
    else s.commitNow e n c

/-- A bundle whose whole body is here: test 8 on what staging holds by now (R267), test 13, then it commits, or on a mirrored round goes to
the secondary first (R624). -/
def State.commit (s : State) (e : Nat) (d : Desc) (b : Bytes) : State :=
  match s.round? e with
  | none => s
  | some r0 =>
    let l := segTable d b
    if r0.policy.deadline + 1000 * r0.policy.harvestGraceUs < s.now then s.reject e d.n .late 14
    else if r0.stagedBad d.n then s.reject e d.n .eccUncorrectable 8
    else match s.roundAlloc e (recordSize r0 l) with
      | none => s.reject e d.n .range 13
      | some s =>
        if s.mirroring e then s.sendMirror (.bundle r0.part.val r0.id d.client b) (.bundle e d.n)
        else s.commitNow e d.n s.now

/-- A bundle has passed test 13 and waits for the secondary's answer. -/
def State.bundleSent (s : State) (e n : Nat) : Bool := List.any s.graft.waits (fun w => w.2 == MirrorWait.bundle e n)

/-- Commit every bundle that waited for a lease to hold again (R616). -/
def State.commitHeld (s : State) : State :=
  List.foldl (fun s (y : Nat × Round) =>
    ((y.2.ring.map (·.descs)).getD []).foldl (fun s d =>
      if !d.body.isEmpty && d.body.length = d.bodyBytes && !s.bundleSent y.1 d.n then
        s.commit y.1 d d.body else s) s) s s.rounds.table

/-- The bundles of a ring that test 14 fails at the harvest grace's end: those undecided, but for one that passed test 13 and waits for the
secondary, whose commit instant decides (R26, R624). -/
def State.lateAll (s : State) (e : Nat) (r : Round) : State :=
  (((r.ring.map Ring.undecided).getD []).filter (fun n => !s.bundleSent e n)).foldl (fun s n => s.reject e n .late 14) s

/-- Body data arrives at `off`: test 8 where staging holds an uncorrectable error (R267), tests 9 to 12, and with the last byte
test 13. -/
def State.bundleData (s : State) (e n off : Nat) (data : Bytes) : State :=
  match s.round? e, s.desc? e n with
  | some r, some d =>
    (match d.state, r.modulus with
     | .staging got next, some m =>
       let got' := (off, data) :: got
       let b := contiguous got' (got'.length + 1) 0
       let agent := ((r.ring.map (·.agent)).getD (.mgmt 0))
       (match (if r.stagedBad n then some (.eccUncorrectable, 8) else bodyTest r d m b) with
        | some (st, t) => s.reject e n st t
        | none =>
          let s := (s.modDesc e n (fun d => { d with state := .staging got' next })).progressSrc agent (if b.length = d.bodyBytes then 1 else 0)
          if b.length = d.bodyBytes then (if s.graft.role = .held || s.graft.draining then s else s.commit e d b) else s.continueReads e n)
     | _, _ => s)
  | _, _ => s

/-- A body read fails: tests 7 and 8. -/
def State.bundleFail (s : State) (e n : Nat) (st : Status) : State :=
  match s.desc? e n with
  | some d => (match d.state with
    | .staging _ _ => s.reject e n st (if st = .hostReadTimeout then 7 else 8)
    | _ => s)
  | none => s

/-- HARVEST_GRACE_EXPIRY: what has not committed by the deadline plus the harvest grace is LATE (R26, test 14); a bundle that passes test
13 in the very cycle of that instant commits (R261). -/
def actHarvestGraceExpiry (e : Fin 1024) (s : State) : State :=
  match s.round? e with
  | some r =>
    if r.policy.deadline + 1000 * r.policy.harvestGraceUs < s.now && !r.state.isAborted then
      s.lateAll e.val r
    else s
  | none => s

def execHarvestGraceExpiry (e : Fin 1024) (s : State) : Host.Outcome State Fault Refusal := s.conclude (actHarvestGraceExpiry e s)

end Sys2Proof.Machine
end

