-- ==== Sys2Proof/Machine/Beds.lean ====
section
/-!
DEFINITION. Beds and Sowers: masks (ch. 9), strip operations and placement (ch. 8).
-/

namespace Sys2Proof.Machine
open Sys2Proof

/-! ### Masks (R301 to R308) -/

/-- The nonce of Table 9.3. -/
def maskNonce (round seg purpose : Nat) : Bytes := leBytes 4 round ++ leBytes 2 seg ++ leBytes 1 purpose ++ zeros 5

/-- Blocks `first` to `first + n - 1` of the cipher's keystream. -/
def streamBlocks (c : Cipher) (key nonce : Bytes) (first n : Nat) : Bytes :=
  match c with
  | .chacha20 => (List.range n).flatMap (fun k => chachaBlock key (first + k) nonce)
  | .aes256ctr => ctrStream (aesKeys key) nonce n first

def blockBytes : Cipher → Nat
  | .chacha20 => 64
  | .aes256ctr => 16

/-- Keystream bytes `off` to `off + len - 1` (R304 to R306). -/
def keystream (c : Cipher) (key nonce : Bytes) (off len : Nat) : Bytes :=
  let b := blockBytes c
  slice (streamBlocks c key nonce (off / b) (ceilDiv (off % b + len) b)) (off % b) len

/-- Mask residues of elements `first` to `first + n - 1` (R307). -/
def maskResidues (c : Cipher) (m : Modulus) (key nonce : Bytes) (first n : Nat) : List Nat :=
  (residues m.streamBytes (keystream c key nonce (m.streamBytes * first) (m.streamBytes * n))).map (· % m.value)

/-! ### Strips -/

/-- Elements of strip `j` of a segment. -/
def stripLen (m : Modulus) (len j : Nat) : Nat := min m.strip (len - j * m.strip)

/-- The contents of a strip. -/
def Segment.stripOf (g : Segment) (m : Modulus) (rep j : Nat) : List Nat :=
  Tab.get (Tab.get g.replicas [] rep) (List.replicate (stripLen m g.len j) 0) j

def Segment.setStrip (g : Segment) (rep j : Nat) (v : List Nat) : Segment :=
  { g with replicas := Tab.insert g.replicas rep (Tab.insert (Tab.get g.replicas [] rep) j v) }

/-- The elements of a whole replica, ascending. -/
def Segment.elements (g : Segment) (m : Modulus) (rep : Nat) : List Nat :=
  (List.range (stripsOf m g.len)).flatMap (g.stripOf m rep)

/-- A Bed that takes strips: its island in RUN, not DISABLED. -/
def State.bedServes (s : State) (k : Nat) : Bool := s.running (.sow (Fin.ofNat 32 k)) && !(s.bed k).disabled

def State.bedsServing (s : State) : Nat := ((List.range 32).filter s.bedServes).length

/-- The Bed that serves strip `j` of replica `rep` of segment `seg` (R274). -/
def State.bedFor (s : State) (seg rep j : Nat) : Option Nat :=
  ((List.range 32).map (fun i => (seg + rep + j + i) % 32)).find? s.bedServes

def StripItem.isMask (x : StripItem) : Bool :=
  match x.what with
  | .mask _ _ => true
  | _ => false

def StripItem.bundle (x : StripItem) : Option Nat :=
  match x.what with
  | .residues n _ _ => some n
  | _ => none

/-- Whether additions of committed bundles into a segment are still to be written back (R255). -/
def State.additionsOpen (s : State) (e : Nat) (r : Round) (seg : Nat) : Bool :=
  r.strips.any (fun x => x.seg == seg && x.bundle.isSome) ||
    (List.range 32).any (fun k => match (s.bed k).op with
      | some o => o.entry == e && o.seg == seg && !o.bundles.isEmpty
      | none => false)

/-- An item that may be applied now: expansion into a segment waits for its additions. -/
def State.itemReady (s : State) (e : Nat) (r : Round) (x : StripItem) : Bool := !x.isMask || !s.additionsOpen e r x.seg

/-- A strip that some Bed holds. -/
def State.stripLoaded (s : State) (e : Nat) (x : StripItem) : Bool :=
  (List.range 32).any (fun k => match (s.bed k).op with
    | some o => o.entry == e && o.seg == x.seg && o.rep == x.rep && o.strip == x.strip
    | none => false)

/-- The first item of a round that Bed `k` could start with. -/
def State.firstItem (s : State) (k e : Nat) (r : Round) : Option StripItem :=
  r.strips.find? (fun x => s.itemReady e r x && s.bedFor x.seg x.rep x.strip == some k && !s.stripLoaded e x)

/-- The weight of an operation that starts with an item (R663). -/
def State.stripWeight (s : State) (p : Fin 64) (mask : Bool) : Nat :=
  match s.partition? p with
  | some r => if mask then r.sowerShare else r.bedShare
  | none => 0

/-- The operation Bed `k` starts next: of the partition with the least virtual time, those of weight 0 last. -/
def State.nextStrip (s : State) (k : Nat) : Option (Nat × Round × StripItem) :=
  let cands := List.filterMap (fun (y : Nat × Round) => (s.firstItem k y.1 y.2).map (fun x => (y.1, y.2, x))) s.rounds.table
  let key (c : Nat × Round × StripItem) : Nat × Nat :=
    (if s.stripWeight c.2.1.part c.2.2.isMask = 0 then 1 else 0, Tab.get s.part.bedTime 0 (64 * k + c.2.1.part.val))
  cands.foldl (fun (b : Option (Nat × Round × StripItem)) c => match b with
    | none => some c
    | some d => if (key c).1 < (key d).1 || ((key c).1 == (key d).1 && decide ((key c).2 < (key d).2)) then some c else b) none

/-- The context of a mask item on a strip of `n` elements: every strip starts on a block boundary (R313, R315). -/
def maskCtx (r : Round) (m : Modulus) (x : StripItem) (n : Nat) : SowerCtx :=
  match x.what with
  | .mask key purpose =>
    { key := key, nonce := maskNonce r.id.toNat x.seg purpose, start := m.streamBytes * (x.strip * m.strip) / blockBytes r.policy.cipher
      count := n, modulus := some m, sub := x.sub }
  | _ => {}

/-- The residues a context makes (R304 to R307). -/
def SowerCtx.residues (x : SowerCtx) (c : Cipher) : List Nat :=
  match x.modulus with
  | none => []
  | some m =>
    let n := m.streamBytes * x.count
    (Machine.residues m.streamBytes ((streamBlocks c x.key x.nonce x.start (ceilDiv n (blockBytes c))).take n)).map (· % m.value)

/-- The operand of an item on the elements of its strip, and the index in the strip where it begins. -/
def itemVals (r : Round) (m : Modulus) (x : StripItem) (n : Nat) : Nat × List Nat :=
  match x.what with
  | .residues _ first vals => (first - x.strip * m.strip, vals)
  | .decoded first vals => (first - x.strip * m.strip, vals)
  | .mask _ _ => (0, (maskCtx r m x n).residues r.policy.cipher)

/-- Combine operands into a stretch of a strip. -/
def combineAt (f : Nat → Nat → Nat) (acc : List Nat) (off : Nat) (vals : List Nat) : List Nat :=
  acc.take off ++ List.zipWith f (acc.drop off) vals ++ acc.drop (off + vals.length)

/-- Apply an item to the loaded strip (R271). -/
def applyItem (r : Round) (m : Modulus) (acc : List Nat) (x : StripItem) : List Nat :=
  let (off, vals) := itemVals r m x acc.length
  combineAt (if x.sub then bedSub m else bedAdd m) acc off vals

/-- Take up to `n` ready items of the loaded strip out of the queue, in arrival order. -/
def takeItems (want : StripItem → Bool) : Nat → List StripItem → List StripItem × List StripItem
  | _, [] => ([], [])
  | 0, l => ([], l)
  | n + 1, x :: t =>
    if want x then
      let (a, b) := takeItems want n t
      (x :: a, b)
    else
      let (a, b) := takeItems want (n + 1) t
      (a, x :: b)

def islandLease (s : State) (p : Fin 64) (d : Island) : Lease := { owner := some p, holder := .island d (s.island d).epoch }

/-- An item of the strip an operation holds, and ready. -/
def State.wants (s : State) (o : StripOp) (r : Round) (x : StripItem) : Bool :=
  x.seg == o.seg && x.rep == o.rep && x.strip == o.strip && s.itemReady o.entry r x

/-- A round's committed bundle whose staging holds an uncorrectable error (R267). -/
def Round.badStaged (r : Round) (x : StripItem) : Bool := x.bundle.any (((r.ring.map (·.stagingUce)).getD []).contains)

/-- Apply queued items to the strip Bed `k` holds, up to 256 in all and 100 µs from the load; each mask runs in the Sower's context,
and the next one's is loading (R275, R288, R313, R315, R316). An item whose staging is bad aborts the round (R267). -/
def State.applyQueued (s : State) (k : Nat) : State :=
  match (s.bed k).op with
  | none => s
  | some o =>
    match s.round? o.entry with
    | none => s
    | some r =>
      match r.modulus with
      | none => s
      | some m =>
        let (mine, rest) := takeItems (s.wants o r) (256 - o.applied) r.strips
        if o.loadedAt + 100000 ≤ s.now then s
        else if mine.any r.badStaged then (s.badRoundData o.entry .eccUncorrectable).dropStrip k
        else
        let d := Island.sow (Fin.ofNat 32 k)
        let masks := (mine.filter StripItem.isMask).length
        let o' := { o with
          applied := o.applied + mine.length
          sram := mine.foldl (applyItem r m) o.sram
          bundles := o.bundles ++ mine.filterMap StripItem.bundle
          masks := o.masks + masks }
        let next := ((rest.find? (fun x => s.wants o r x && x.isMask)).map (fun x => maskCtx r m x o.sram.length)).getD {}
        let s := (s.setRound o.entry { r with strips := rest }).setBed k { s.bed k with op := some o', running := {}, loading := next }
        let s := if masks ≠ 0 then s.setLease 2 k (islandLease s r.part d) else s
        s.modPartition r.part (fun q => if q.coldFrame then q else { q with
          profBed := satAdd64 q.profBed (mine.length * o.sram.length * m.width)
          profSower := satAdd64 q.profSower (masks * o.sram.length * m.streamBytes) })

/-- Load a strip into Bed `k` under its lease. -/
def State.loadStrip (s : State) (k e : Nat) (r : Round) (x : StripItem) : State :=
  match r.modulus with
  | none => s
  | some m =>
    let g := r.segs.getD x.seg { len := 0 }
    let o : StripOp :=
      { entry := e, seg := x.seg, rep := x.rep, strip := x.strip, loadedAt := s.now, applied := 0, sram := g.stripOf m x.rep x.strip
        bundles := [], masks := 0, tag := s.sourceTag .fe }
    (s.setBed k { s.bed k with op := some o }).setLease 3 k (islandLease s r.part (.sow (Fin.ofNat 32 k)))

/-- An uncorrectable error of Bed `k`'s SRAM or its Sower: the round aborts, the SRAM is scrubbed, a second error disables
the Bed (R294, R296, R327). -/
def State.bedError (s : State) (k e : Nat) : State :=
  let pb := ((s.round? e).map (fun r => BitVec.ofNat 8 r.part.val)).getD 0xFF
  let s := (s.abortRound e .eccUncorrectable true).dropStrip k
  let b := s.bed k
  let off := decide (2 ≤ b.uncorrectable + 1)
  let s := (s.setBed k { b with uncorrectable := b.uncorrectable + 1, disabled := b.disabled || off }).logErr 5
    (.sow (Fin.ofNat 32 k)) pb (if off then .island else .contained) .sramUce 0 0 .eccUncorrectable
  if off then s.raisePf .island else s

/-- One item of bundle `n` is written back; with the last its staging returns (R255, R276). -/
def State.additionDone (s : State) (e n : Nat) : State :=
  match s.round? e with
  | none => s
  | some r =>
    match r.ring with
    | none => s
    | some g =>
      let left := Tab.get g.additions 0 n - 1
      if left = 0 then
        let back := Tab.get g.staged 0 n
        let g' := { g with additions := Tab.erase g.additions n, staged := Tab.erase g.staged n }
        ((s.setRound e { r with ring := some g' }).freeStaging back).progressSrc g.agent 1
      else s.setRound e { r with ring := some { g with additions := Tab.insert g.additions n left } }

/-- Whether a round's queue and the Beds hold nothing of it. -/
def State.stripsIdle (s : State) (e : Nat) : Bool :=
  ((s.round? e).map (fun r => r.strips.isEmpty)).getD true &&
    (List.range 32).all (fun k => match (s.bed k).op with
      | some o => o.entry != e
      | none => true)

/-- UNMASK, or CODED_DECODE whose groups are all decoded, is done once everything is written back: the round becomes
UNMASKED (R39, R356). -/
def State.checkUnmasked (s : State) (e : Nat) : State :=
  match s.round? e with
  | none => s
  | some r =>
    if s.stripsIdle e && (r.unmasking || (r.decoding && List.all s.plot.jobs (fun y => y.2.kind != .coded e))) then
      let s := (s.modRound e (fun r => { r with unmasking := false, decoding := false })).changeRound e .unmasked
      s.completeWork (fun w => match w with
        | .unmask x => if x = e then some (.ok, []) else none
        | .coded x _ => if x = e then some (.ok, []) else none
        | _ => none)
    else s

/-- The progress of the agents whose masks an operation expanded. -/
def State.progressMasks (s : State) (e n : Nat) : State :=
  if n = 0 then s
  else s.q.cmds.foldl (fun s c => match c.phase with
    | .executing (.unmask x) => if x = e then s.progressSrc c.src n else s
    | _ => s) s

/-- Write the strip of Bed `k` back and release its leases (R275). -/
def State.writeBack (s : State) (k : Nat) : State :=
  match (s.bed k).op with
  | none => s
  | some o =>
    let p := ((s.round? o.entry).map (·.part)).getD 0
    let s := s.modRound o.entry (fun r => { r with segs := r.segs.modify o.seg (fun g => g.setStrip o.rep o.strip o.sram) })
    let w := max 1 (s.stripWeight p (decide (o.masks ≠ 0)))
    let t := Tab.get s.part.bedTime 0 (64 * k + p.val) + (s.now - o.loadedAt + 1) * 64 / w
    let s := { s with part := { s.part with bedTime := Tab.insert s.part.bedTime (64 * k + p.val) t } }
    let s := s.dropStrip k
    let s := o.bundles.foldl (fun s n => s.additionDone o.entry n) s
    (s.progressMasks o.entry o.masks).checkUnmasked o.entry

/-- Nothing more is to be applied to the strip Bed `k` holds: its limit is reached, or no item for it is ready. -/
def State.stripDone (s : State) (k : Nat) : Bool :=
  match (s.bed k).op with
  | none => false
  | some o => decide (256 ≤ o.applied) || decide (o.loadedAt + 100000 ≤ s.now) ||
      !(((s.round? o.entry).map (fun r => r.strips.any (s.wants o r))).getD false)

/-- The operation goes on: items are applied, or, where there is nothing more to apply, the strip is written back (R275). -/
def State.stripGoesOn (s : State) (k : Nat) : State := if s.stripDone k then s.writeBack k else s.applyQueued k

/-- What the operation meets on its way. A corrected error met for a cold partition is not counted (R293, R875). [log 166 DESIGN CHOICE] -/
def State.stripMeets (s : State) (k : Nat) (found : StripFound) : State :=
  match (s.bed k).op with
  | none => s
  | some o =>
    match found with
    | .clean => s.stripGoesOn k
    | .corrected =>
      let cold := ((s.round? o.entry).map (fun r => s.isCold r.part)).getD false
      let b := s.bed k
      let s := s.stripGoesOn k
      (s.setBed k { s.bed k with eccCorrected := if cold then b.eccCorrected else satAdd32 b.eccCorrected 1 }).logErr 5
        (.sow (Fin.ofNat 32 k)) (((s.round? o.entry).map (fun r => BitVec.ofNat 8 r.part.val)).getD 0xFF) .ce .sramCe
    | .sramUncorrectable => s.bedError k o.entry
    | .sowerParity => s.bedError k o.entry
    | .poison => (s.badRoundData o.entry .poisoned).dropStrip k
    | .uncorrectable => (s.badRoundData o.entry .eccUncorrectable).dropStrip k

/-- STRIP_OPERATION: Bed `k` takes a strip, or goes on with the one it holds, and applies queued items; with none left it writes the strip
back (R275). Where no
Bed serves, the rounds with items to apply abort (R297). -/
def actStripOperation (k : Fin 32) (found : StripFound) (s : State) : State :=
  if s.bedsServing = 0 && s.running .fe then
    ((s.ringsWith (fun r => !r.strips.isEmpty)).foldl (fun s e => s.abortRound e .eccUncorrectable true) s)
  else if !s.bedServes k then s
  else match (s.bed k).op with
    | some _ => (s.stripMeets k found)
    | none =>
      match s.nextStrip k with
      | none => s
      | some (e, r, x) =>
        match Tab.find? r.badData x.seg with
        | some st => ((s.loadStrip k e r x).badRoundData e st).dropStrip k
        | none => ((s.loadStrip k e r x).stripMeets k found)

def execStripOperation (k : Fin 32) (found : StripFound) (s : State) : Host.Outcome State Fault Refusal :=
  s.conclude (actStripOperation k found s)

/-- STRIP_RESIDENCY_LIMIT: after 256 items or 100 µs (R275). -/
def actStripResidencyLimit (k : Fin 32) (s : State) : State :=
  match (s.bed k).op with
  | none => s
  | some o => if 256 ≤ o.applied || o.loadedAt + 100000 ≤ s.now then (s.writeBack k) else s

def execStripResidencyLimit (k : Fin 32) (s : State) : Host.Outcome State Fault Refusal := s.conclude (actStripResidencyLimit k s)

/-! ### Placement (R280 to R285) -/

/-- Allocate replica arrays of a segment until `want` or no chunk is left; refused ones are counted (R284). -/
def State.growReplicas (s : State) (e i want : Nat) : Nat → State
  | 0 => s
  | fuel + 1 =>
    match s.round? e with
    | none => s
    | some r =>
      let g := r.segs.getD i { len := 0 }
      if want ≤ g.a then s
      else match s.roundAlloc e (alignUp64 (g.len * (r.modulus.getD .m16).width)) with
        | none => { s with rounds := { s.rounds with replicaRefused := satAdd32 s.rounds.replicaRefused (want - g.a) } }
        | some s' => (s'.modRound e (fun r => { r with segs := r.segs.modify i (fun g => { g with a := g.a + 1 }) })).growReplicas e i want fuel

/-- Set the active count of a segment to `want`, as far as arrays can be had, by a swap in this cycle (R284, R285); one replica
where no Bed serves. [log 165 DESIGN CHOICE] -/
def State.setReplicas (s : State) (e i want : Nat) (f : Segment → Segment) : State :=
  let s := s.growReplicas e i want 8
  s.modRound e (fun r => { r with segs := r.segs.modify i (fun g =>
    f { g with r := max 1 (min want g.a), swapped := some (s.time.t40, g.active s.time.t40) }) })

/-- The count R282 gives. -/
def State.revised (s : State) (w : Nat) (g : Segment) : Nat :=
  let load := min (g.len * w) (2 ^ 20)
  max (max (ceilDiv g.r 2) (min (min 8 s.bedsServing) (ceilDiv (g.hits * load) s.hotInForce))) 1

/-- Revise one segment. -/
def State.reviseSeg (s : State) (e i : Nat) (f : Segment → Segment) : State :=
  match s.round? e with
  | none => s
  | some r =>
    let g := r.segs.getD i { len := 0 }
    s.setReplicas e i (s.revised (r.modulus.getD .m16).width g) (fun g => f { g with hits := 0 })

/-- PLACEMENT_REVISION: at each multiple of the interval in force, every segment not pinned of every INGESTING round before its deadline
(R281, R290). [log 149 DEDUCED] -/
def actPlacementRevision (s : State) : State :=
  match s.boundaryNow with
  | none => s
  | some b =>
    if !s.rounds.autoRevise || !s.running .fe then s
    else
      let es := s.ringsWith (fun r => r.state == .ingesting && decide (s.now < r.policy.deadline))
      let one (s : State) (e : Nat) : State :=
        match s.round? e with
        | none => s
        | some r => (List.range r.segs.length).foldl (fun s k => if (r.segs.getD k { len := 0 }).pinned then s else s.reviseSeg e k id) s
      let s := es.foldl one s
      { s with rounds := { s.rounds with revisedAt := b } }

def execPlacementRevision (s : State) : Host.Outcome State Fault Refusal := s.conclude (actPlacementRevision s)

end Sys2Proof.Machine
end

