-- ==== Sys2Proof/Machine/Numerics.lean ====
section
/-!
DEFINITION. Exact numbers and the floating-point formats of Table 13.2: decoding, rounding (R444, R445, R447, R930) and the
order of R454.
-/

namespace Sys2Proof.Machine
open Sys2Proof

/-- A number as the datapaths see it: ± mag × 2^exp, an infinity, or NaN. -/
inductive Num where
  | fin (neg : Bool) (mag : Nat) (exp : Int)
  | inf (neg : Bool)
  | nan
deriving DecidableEq, Repr

/-- A floating-point format: mantissa and exponent bits, bias, whether it has infinities. -/
structure FloatFmt where
  man : Nat
  exp : Nat
  bias : Nat
  hasInf : Bool
deriving DecidableEq, Repr

def FloatFmt.fp32 : FloatFmt := { man := 23, exp := 8, bias := 127, hasInf := true }
def FloatFmt.bf16 : FloatFmt := { man := 7, exp := 8, bias := 127, hasInf := true }
def FloatFmt.fp16 : FloatFmt := { man := 10, exp := 5, bias := 15, hasInf := true }
def FloatFmt.e4m3 : FloatFmt := { man := 3, exp := 4, bias := 7, hasInf := false }
def FloatFmt.e5m2 : FloatFmt := { man := 2, exp := 5, bias := 15, hasInf := true }

/-- The exponent of a format's smallest subnormal. -/
def FloatFmt.emin (f : FloatFmt) : Int := 1 - (f.bias : Int) - (f.man : Int)

/-- The value of an encoding. -/
def FloatFmt.decode (f : FloatFmt) (v : Nat) : Num :=
  let m := v % 2 ^ f.man
  let e := v / 2 ^ f.man % 2 ^ f.exp
  let neg := bit v (f.man + f.exp)
  if e + 1 = 2 ^ f.exp && (f.hasInf || m + 1 = 2 ^ f.man) then (if f.hasInf && m = 0 then .inf neg else .nan)
  else if e = 0 then .fin neg m f.emin
  else .fin neg (m + 2 ^ f.man) (f.emin + ((e : Int) - 1))

/-- The magnitude code of the largest finite value. -/
def FloatFmt.maxCode (f : FloatFmt) : Nat :=
  if f.hasInf then (2 ^ f.exp - 1) * 2 ^ f.man - 1 else 2 ^ (f.exp + f.man) - 2

def FloatFmt.signBit (f : FloatFmt) (neg : Bool) : Nat := if neg then 2 ^ (f.exp + f.man) else 0

/-- Bits of a positive number. -/
def bitLen (n : Nat) : Nat := if n = 0 then 0 else n.log2 + 1

/-- How a value between two representable ones is rounded: to nearest with ties to even, or stochastically with a 16-bit
draw (R447). -/
inductive Rounding where
  | nearest
  | stoch (r : Nat)

/-- Round up from `lo` when the remainder is `rem` of `2^sh`. -/
def Rounding.up (m : Rounding) (lo rem sh : Nat) : Bool :=
  match m with
  | .nearest => decide (2 ^ sh < 2 * rem) || (2 * rem == 2 ^ sh && lo % 2 == 1)
  | .stoch r => decide (r < 2 ^ 16 * rem / 2 ^ sh)

/-- Round mag × 2^exp to a format, its exponent range unbounded above: the magnitude code. -/
def FloatFmt.roundCode (f : FloatFmt) (m : Rounding) (mag : Nat) (exp : Int) : Nat :=
  if mag = 0 then 0
  else
    let q : Int := max (exp + bitLen mag - ((f.man : Int) + 1)) f.emin
    let n : Nat :=
      if q ≤ exp then mag * 2 ^ (exp - q).toNat
      else
        let sh := (q - exp).toNat
        let lo := mag / 2 ^ sh
        if m.up lo (mag % 2 ^ sh) sh then lo + 1 else lo
    if n < 2 ^ f.man then n
    else n - 2 ^ f.man + ((q - f.emin).toNat + 1) * 2 ^ f.man

/-- The canonical NaN (Table 13.7). [log 17 DEDUCED] -/
def FloatFmt.nanCode (f : FloatFmt) : Nat :=
  if f = FloatFmt.fp32 then 0x7FC00000
  else if f = FloatFmt.bf16 then 0x7FC0
  else if f = FloatFmt.fp16 then 0x7E00
  else if f = FloatFmt.e4m3 then (Config.fp8NaN 2).toNat
  else (Config.fp8NaN 3).toNat

/-- Encode a number: the encoding, and whether it was replaced by the largest finite value (R930). -/
def FloatFmt.encode (f : FloatFmt) (m : Rounding) : Num → Nat × Bool
  | .nan => (f.nanCode, false)
  | .inf neg => (f.maxCode + f.signBit neg, true)
  | .fin neg mag exp =>
    let c := f.roundCode m mag exp
    if f.maxCode < c then (f.maxCode + f.signBit neg, true) else (c + f.signBit neg, false)

/-- A finite number as a signed multiple of 2^exp. -/
def Num.signedMag (neg : Bool) (mag : Nat) : Int := if neg then -(mag : Int) else (mag : Int)

def Num.ofInt (v : Int) (exp : Int) : Num := .fin (decide (v < 0)) v.natAbs exp

/-- The exact sum; a zero sum is −0 only where both operands are −0 (R931). -/
def Num.add : Num → Num → Num
  | .nan, _ => .nan
  | _, .nan => .nan
  | .inf a, .inf b => if a = b then .inf a else .nan
  | .inf a, _ => .inf a
  | _, .inf b => .inf b
  | .fin a x e, .fin b y g =>
    let k := min e g
    let v := Num.signedMag a (x * 2 ^ (e - k).toNat) + Num.signedMag b (y * 2 ^ (g - k).toNat)
    if v = 0 then .fin (x = 0 && y = 0 && a && b) 0 k else .ofInt v k

/-- The exact product; 0 × infinity is NaN. -/
def Num.mul : Num → Num → Num
  | .nan, _ => .nan
  | _, .nan => .nan
  | .inf a, .inf b => .inf (a != b)
  | .inf a, .fin b y _ => if y = 0 then .nan else .inf (a != b)
  | .fin a x _, .inf b => if x = 0 then .nan else .inf (a != b)
  | .fin a x e, .fin b y g => .fin (a != b) (x * y) (e + g)

def Num.isNan : Num → Bool
  | .nan => true
  | _ => false

def Num.isFinite : Num → Bool
  | .fin _ _ _ => true
  | _ => false

/-- The nearest integer, ties to even. -/
def Num.nearestInt (neg : Bool) (mag : Nat) (exp : Int) : Int :=
  if 0 ≤ exp then Num.signedMag neg (mag * 2 ^ exp.toNat)
  else
    let sh := (-exp).toNat
    let lo := mag / 2 ^ sh
    Num.signedMag neg (if Rounding.nearest.up lo (mag % 2 ^ sh) sh then lo + 1 else lo)

/-- Compare two numbers that are not NaN: whether the first is below the second; −0 equals +0. -/
def Num.lt : Num → Num → Bool
  | .inf a, .inf b => a && !b
  | .inf a, _ => a
  | _, .inf b => !b
  | .fin a x e, .fin b y g =>
    let k := min e g
    decide (Num.signedMag a (x * 2 ^ (e - k).toNat) < Num.signedMag b (y * 2 ^ (g - k).toNat))
  | _, _ => false

/-- Whether a candidate beats the winner so far in the order of R454: NaN never beats a number, and a number beats NaN. -/
def Num.beats (isMax : Bool) (c w : Num) : Bool :=
  match c, w with
  | .nan, _ => false
  | _, .nan => true
  | c, w => if isMax then w.lt c else c.lt w

/-- The sum of two encodings rounded once, and whether it was clamped (R931, R580). -/
def fp32Add (a b : Nat) : Nat × Bool := FloatFmt.fp32.encode .nearest ((FloatFmt.fp32.decode a).add (FloatFmt.fp32.decode b))

/-- The format of a code that is a floating format. -/
def Format.float? : Format → Option FloatFmt
  | .fp8e4m3 => some FloatFmt.e4m3
  | .fp8e5m2 => some FloatFmt.e5m2
  | .bf16 => some FloatFmt.bf16
  | .fp16 => some FloatFmt.fp16
  | .fp32 => some FloatFmt.fp32
  | _ => none

/-- Bits of an element. -/
def Format.bits : Format → Nat
  | .int4 => 4
  | .int8 => 8
  | .fp8e4m3 => 8
  | .fp8e5m2 => 8
  | .bf16 => 16
  | .fp16 => 16
  | .gf16 => 16
  | .fp32 => 32

def formatOf (c : Nat) : Option Format :=
  match c with
  | 0 => some .int4
  | 1 => some .int8
  | 2 => some .fp8e4m3
  | 3 => some .fp8e5m2
  | 4 => some .bf16
  | 5 => some .fp16
  | 6 => some .gf16
  | 7 => some .fp32
  | _ => none

def Format.code : Format → Nat
  | .int4 => 0
  | .int8 => 1
  | .fp8e4m3 => 2
  | .fp8e5m2 => 3
  | .bf16 => 4
  | .fp16 => 5
  | .gf16 => 6
  | .fp32 => 7

/-- The value of an encoding in a format (Table 13.2). -/
def Format.value (f : Format) (v : Nat) : Num :=
  match f.float? with
  | some g => g.decode v
  | none => if f = .gf16 then .fin false v 0 else .ofInt (signed f.bits v) 0

/-- Bytes of a row of `n` elements: an odd INT4 row ends in a half-used byte. -/
def Format.rowBytes (f : Format) (n : Nat) : Nat := ceilDiv (f.bits * n) 8

/-- Element `k` of a row (INT4: the lower-indexed element in bits [3:0]). -/
def Format.element (f : Format) (row : Bytes) (k : Nat) : Nat :=
  if f.bits = 4 then (let b := (row.getD (k / 2) 0).toNat; if k % 2 = 0 then b % 16 else b / 16)
  else leNat (slice row (f.bits / 8 * k) (f.bits / 8))

/-- The encodings of a row of `n` elements. -/
def Format.elements (f : Format) (row : Bytes) (n : Nat) : List Nat := (List.range n).map (f.element row)

/-- The bytes of a row of encodings. -/
def packNibbles : List Nat → Bytes
  | [] => []
  | [a] => [BitVec.ofNat 8 (a % 16)]
  | a :: b :: t => BitVec.ofNat 8 (a % 16 + 16 * (b % 16)) :: packNibbles t

def Format.pack (f : Format) (l : List Nat) : Bytes :=
  if f.bits = 4 then packNibbles l else l.flatMap (leBytes (f.bits / 8))

end Sys2Proof.Machine
end

