-- ==== Sys2Proof/Machine/PlotMath.lean ====
section
/-!
DEFINITION. What a Plot computes (ch. 13): products and sums of each accumulator mode, stochastic rounding, the drain
stages, the order of REDUCE_IDX and the elements of ELTWISE. Nothing here touches the state.
-/

namespace Sys2Proof.Machine
open Sys2Proof

/-- The settings of a matrix product (Table 5.11). -/
structure MatSpec where
  fmt : Format
  mode : AccMode
  out : OutFormat
  stoch : Bool := false
  fuseAdd : Bool := false
  fuseMul : Bool := false
  modP : Bool := false
  dequant : Bool := false
  scale : Nat := 0
  p : Nat := 0
  seed : Nat := 0
deriving DecidableEq, Repr

def AccMode.code : AccMode → Nat
  | .exact => 0
  | .fp32 => 1
  | .acc16 => 2

/-- Bytes of an output element (Table 13.7). -/
def OutFormat.bytes : OutFormat → Nat
  | .int32 => 4
  | .fp32 => 4
  | .bf16 => 2
  | .fp16 => 2
  | .res16 => 2
  | .exact128 => 16

def OutFormat.float? : OutFormat → Option FloatFmt
  | .fp32 => some FloatFmt.fp32
  | .bf16 => some FloatFmt.bf16
  | .fp16 => some FloatFmt.fp16
  | _ => none

def accModeOf (c : Nat) : Option AccMode :=
  match c with
  | 0 => some .exact
  | 1 => some .fp32
  | 2 => some .acc16
  | _ => none

def outFormatOf (c : Nat) : Option OutFormat :=
  match c with
  | 0 => some .int32
  | 1 => some .fp32
  | 2 => some .bf16
  | 3 => some .fp16
  | 4 => some .res16
  | 5 => some .exact128
  | _ => none

/-- The permitted pairs of Table 5.12. -/
def modeAllows (m : AccMode) (f : Format) (o : OutFormat) (modP : Bool) : Bool :=
  match m with
  | .exact => (f == .int4 || f == .int8 || f == .fp8e4m3 || f == .fp8e5m2 || f == .gf16) &&
      (o == .int32 || o == .fp32 || o == .exact128 || (o == .res16 && modP))
  | .fp32 => (f == .bf16 || f == .fp16) && (o == .fp32 || o == .bf16 || o == .fp16)
  | .acc16 => (f == .bf16 || f == .fp16 || f == .fp8e4m3 || f == .fp8e5m2) && (o == .fp32 || o == .bf16 || o == .fp16)

/-- K per block (Table 13.3). -/
def kBlock (f : Format) (m : AccMode) : Nat :=
  if (f = .int4 && m = .exact) || ((f = .fp8e4m3 || f = .fp8e5m2) && m = .acc16) then 256 else 128

/-- Cycles per A row (Table 13.3). -/
def rowCycles (f : Format) (m : AccMode) : Nat :=
  if f = .gf16 then 4 else if (f = .bf16 || f = .fp16) && m = .fp32 then 2 else 1

/-- Output slots (Table 13.4). -/
def AccMode.slots : AccMode → Nat
  | .exact => 8
  | .fp32 => 24
  | .acc16 => 48

/-! ### Status flags (Table 13.8) -/

def flagSat : Nat := 1
def flagOutSat : Nat := 2
def flagWrap : Nat := 4
/-- Log 74 DEDUCED. -/
def flagInvalid : Nat := 8
def flagNan : Nat := 16

def flagIf (f : Nat) (b : Bool) : Nat := if b then f else 0

/-! ### EXACT (R442, R443) -/

/-- The exponent of the lsb of Table 13.5. -/
def Format.lsb : Format → Int
  | .fp8e4m3 => -18
  | .fp8e5m2 => -32
  | _ => 0

/-- A product in lsb units; one of a NaN or infinite operand is 0 and sets INVALID_IN. -/
def exactProduct (f : Format) (a b : Nat) : Int × Nat :=
  match f.value a, f.value b with
  | .fin s x e, .fin t y g => (Num.signedMag (s != t) (x * y * 2 ^ (e + g - f.lsb).toNat), 0)
  | _, _ => (0, flagInvalid)

/-- The sum of all products of an element. -/
def exactSum (f : Format) : List (Nat × Nat) → Int × Nat
  | [] => (0, 0)
  | (a, b) :: t =>
    let (x, fx) := exactProduct f a b
    let (y, fy) := exactSum f t
    (x + y, fx ||| fy)

/-! ### FP32 and ACC16 (R444 to R448) -/

/-- The scrambling step of R448. [log 16 DEDUCED] -/
def mix (z : W64) : W64 :=
  let z := z + 0x9E3779B97F4A7C15#64
  let z := (z ^^^ (z >>> 30)) * 0xBF58476D1CE4E5B9#64
  let z := (z ^^^ (z >>> 27)) * 0x94D049BB133111EB#64
  z ^^^ (z >>> 31)

/-- The 16-bit draw of element (m, n) at pass p (R448). [log 16 DEDUCED] -/
def roundDraw (seed m n p : Nat) : Nat :=
  (mix (mix (mix (BitVec.ofNat 64 seed) ^^^ BitVec.ofNat 64 (m * 2 ^ 24 + n)) ^^^ BitVec.ofNat 64 p)).toNat % 2 ^ 16

/-- A value rounded to fp32, or replaced by the largest finite one with SAT. -/
def toFp32 (x : Num) : Num × Nat :=
  let (c, k) := FloatFmt.fp32.encode .nearest x
  (FloatFmt.fp32.decode c, flagIf flagSat k)

/-- A product: exact, unless it lies beyond fp32 (R446). [log 74 DEDUCED] -/
def floatProduct (f : Format) (a b : Nat) : Num × Nat :=
  let x := (f.value a).mul (f.value b)
  if x.isNan then (.nan, flagInvalid)
  else
    let (y, g) := toFp32 x
    if g = 0 then (x, 0) else (y, g)

/-- The later products of a pass, added one at a time to `x` (R444). -/
def passRest (f : Format) : Num → Nat → List (Nat × Nat) → Num × Nat
  | x, g, [] => (x, g)
  | x, g, (a, b) :: t =>
    let (y, gy) := floatProduct f a b
    let (z, gz) := toFp32 (x.add y)
    passRest f z (g ||| gy ||| gz) t

/-- A pass sum. [log 74 DEDUCED] -/
def passSum (f : Format) : List (Nat × Nat) → Num × Nat
  | [] => (.fin false 0 0, 0)
  | (a, b) :: t =>
    let (x, g) := floatProduct f a b
    passRest f x g t

/-- The accumulator format (R445). -/
def accFormat (f : Format) (m : AccMode) : FloatFmt :=
  if m = .fp32 then FloatFmt.fp32 else if f = .fp16 then FloatFmt.fp16 else FloatFmt.bf16

/-- The rounding of an accumulator entry. -/
def MatSpec.rounding (t : MatSpec) (m n p : Nat) : Rounding :=
  if t.mode = .acc16 || t.stoch then .stoch (roundDraw t.seed m n p) else .nearest

/-- The passes of one element from pass `p` on, `acc` the entry so far (R445). -/
def floatPasses (t : MatSpec) (m n : Nat) : Nat → Option Nat → Nat → List (List (Nat × Nat)) → Nat × Nat
  | _, acc, g, [] => (acc.getD 0, g)
  | p, acc, g, blk :: rest =>
    let a := accFormat t.fmt t.mode
    let (s, gs) := passSum t.fmt blk
    let x := match acc with
      | none => s
      | some c => (a.decode c).add s
    let (c, k) := a.encode (t.rounding m n p) x
    floatPasses t m n (p + 1) (some c) (g ||| gs ||| flagIf flagSat k) rest

/-- The accumulator of element (m, n) over a row of A and a column of B, with its flags. -/
def MatSpec.element (t : MatSpec) (m n : Nat) (row col : List Nat) : Int × Nat :=
  let ab := List.zip row col
  match t.mode with
  | .exact => exactSum t.fmt ab
  | _ =>
    let (c, g) := floatPasses t m n 0 none 0 (pieces (kBlock t.fmt t.mode) ab)
    ((c : Int), g)

/-! ### Drain (Tables 13.6 and 13.7) -/

/-- The accumulator's value (stages 1 and 2). -/
def MatSpec.drainValue (t : MatSpec) (acc : Int) : Num :=
  match t.mode with
  | .exact => if t.modP then .ofInt (acc % (t.p : Int)) 0 else .ofInt acc t.fmt.lsb
  | m => (accFormat t.fmt m).decode acc.toNat

/-- Stage 3. -/
def MatSpec.scaled (t : MatSpec) (v : Num) : Num × Nat :=
  if !t.dequant || t.out.float?.isNone then (v, 0)
  else
    let x := v.mul (FloatFmt.fp32.decode t.scale)
    if t.mode = .exact then (x, 0) else toFp32 x

/-- A number reduced to 0 … p − 1. [log 75 DEDUCED] -/
def Num.modBy (p : Nat) : Num → Num
  | .fin neg mag exp =>
    if 0 ≤ exp then .ofInt (Num.signedMag neg (mag * 2 ^ exp.toNat) % (p : Int)) 0
    else .ofInt (Num.signedMag neg mag % ((p * 2 ^ (-exp).toNat : Nat) : Int)) exp
  | x => x

/-- The value of an element of D (R436; as a 16-bit residue with MOD_P). [log 75 DEDUCED] -/
def MatSpec.dValue (t : MatSpec) (d : Nat) : Num :=
  if t.modP then .ofInt (d : Int) 0
  else match t.out.float? with
    | some f => f.decode d
    | none => .ofInt (signed (8 * t.out.bytes) d) 0

/-- Bytes of an element of D. [log 75 DEDUCED] -/
def MatSpec.dBytes (t : MatSpec) : Nat := if t.modP then 2 else t.out.bytes

/-- Stage 4. -/
def MatSpec.fused (t : MatSpec) (v : Num) (d : Nat) : Num :=
  let x := if t.fuseAdd then v.add (t.dValue d) else if t.fuseMul then v.mul (t.dValue d) else v
  if t.modP && (t.fuseAdd || t.fuseMul) then x.modBy t.p else x

/-- The whole number nearest to a value. -/
def Num.toInt : Num → Int
  | .fin neg mag exp => Num.nearestInt neg mag exp
  | _ => 0

/-- EXACT128 without MOD_P: integers in lsb units that wrap modulo 2^128. -/
def MatSpec.wide (t : MatSpec) (acc : Int) (d : Nat) : Nat × Nat :=
  let y := signed 128 d
  let x := if t.fuseAdd then acc + y else if t.fuseMul then acc * y else acc
  (unsignedOf 128 x, flagIf flagWrap (decide (x < -2 ^ 127) || decide (2 ^ 127 ≤ x)))

/-- Stage 5: the encoding written and its flags. -/
def MatSpec.convert (t : MatSpec) (v : Num) : Nat × Nat :=
  match t.out.float? with
  | some f =>
    let (c, k) := f.encode .nearest v
    (c, flagIf flagNan v.isNan ||| flagIf flagOutSat k)
  | none =>
    let x := v.toInt
    if t.out = .int32 then
      let y := max (-2 ^ 31) (min (2 ^ 31 - 1) x)
      (unsignedOf 32 y, flagIf flagOutSat (decide (y ≠ x)))
    else (unsignedOf (8 * t.out.bytes) x, 0)

/-- The output element of an accumulator, `d` being D's element or 0. -/
def MatSpec.drain (t : MatSpec) (acc : Int) (d : Nat) : Nat × Nat :=
  if t.out = .exact128 && !t.modP then t.wide acc d
  else
    let (v, g) := t.scaled (t.drainValue acc)
    let (c, h) := t.convert (t.fused v d)
    (c, g ||| h)

/-! ### REDUCE_IDX and ROUTE_TOPK (R454, R455, R491, R493) -/

/-- A value widened to 32 bits (R455, R493). -/
def Format.widen (f : Format) (v : Nat) : Nat :=
  match f.float? with
  | some g => match g.decode v with
    | .nan => 0x7FC00000
    | .inf neg => 0x7F800000 + FloatFmt.fp32.signBit neg
    | x => (FloatFmt.fp32.encode .nearest x).1
  | none => if f = .gf16 then v else unsignedOf 32 (signed f.bits v)

/-- The winner among encodings from index `k` on, against the winner so far. -/
def winnerFrom (f : Format) (isMax : Bool) : List Nat → Nat → Nat × Nat → Nat × Nat
  | [], _, w => w
  | v :: t, k, w => winnerFrom f isMax t (k + 1) (if Num.beats isMax (f.value v) (f.value w.2) then (k, v) else w)

/-- Index and encoding of a row's winner. -/
def winner (f : Format) (isMax : Bool) : List Nat → Nat × Nat
  | [] => (0, 0)
  | v :: t => winnerFrom f isMax t 1 (0, v)

/-- The `n` best of a list of (index, encoding), best first, in the MAX order. -/
def topK (f : Format) : Nat → List (Nat × Nat) → List (Nat × Nat)
  | 0, _ => []
  | n + 1, l =>
    match l with
    | [] => []
    | x :: t =>
      let best := t.foldl (fun (b : Nat × Nat) c => if Num.beats true (f.value c.2) (f.value b.2) then c else b) x
      best :: topK f n (l.filter (fun c => c.1 != best.1))

/-! ### ELTWISE (Table 13.9) -/

/-- A prime that fits 32 bits. -/
def isPrime32 (p : Nat) : Bool := decide (2 ≤ p) && (List.range 65536).all (fun k => decide (k < 2) || decide (p < k * k) || p % k != 0)

/-- A prime from 3 to 65,521. -/
def isGfPrime (p : Nat) : Bool := decide (3 ≤ p) && decide (p ≤ 65521) && isPrime32 p

/-- A whole number clamped into a span, and whether it was. -/
def clampInt (lo hi x : Int) : Int × Bool :=
  let y := max lo (min hi x)
  (y, decide (y ≠ x))

/-- The span of an integer format. -/
def Format.span (f : Format) : Int × Int :=
  if f = .gf16 then (0, 65535) else (-(2 ^ (f.bits - 1) : Int), 2 ^ (f.bits - 1) - 1)

/-- A number as an element of an integer format, clamped; `free` stands for the value of a NaN, which no rule gives. -/
def Format.toElement (f : Format) (free : Nat) (x : Num) : Nat × Bool :=
  let (lo, hi) := f.span
  match x with
  | .nan => (free % 2 ^ f.bits, false)
  | .inf neg => (unsignedOf f.bits (if neg then lo else hi), true)
  | .fin neg mag exp =>
    let (y, k) := clampInt lo hi (Num.nearestInt neg mag exp)
    (unsignedOf f.bits y, k)

/-- One element: operation 0 ADD, 1 MUL, 2 SCALE, 3 MOD_P. [log 77 DEDUCED] -/
def eltwise (f : Format) (op scalar free a b : Nat) : Nat × Bool :=
  let x := f.value a
  let y := if op = 2 then FloatFmt.fp32.decode scalar else f.value b
  let z := if op = 0 then x.add y else x.mul y
  match f.float? with
  | some g => g.encode .nearest z
  | none =>
    if op = 3 then (a % scalar, false)
    else if f = .gf16 && op ≠ 2 && isGfPrime scalar then ((if op = 0 then a + b else a * b) % scalar, false)
    else f.toElement free z

end Sys2Proof.Machine
end

