-- ==== Sys2Proof/Machine/RegMap.lean ====
section
/-!
DEFINITION. Which 4-byte words of the two register spaces hold a register (Tables 26.1 to 26.20, 27.1 to 27.7). A write elsewhere is ignored
(R13) and is no write to any island's register.
-/

namespace Sys2Proof.Machine
open Sys2Proof

/-- An offset of GLOBAL (Tables 26.3 to 26.6). -/
def globalAssigned (o : Nat) : Bool :=
  if o < 0x1000 then [0x00, 0x04, 0x08, 0x0C, 0x10, 0x20, 0x24, 0x28, 0x30].contains o || (decide (0x100 ≤ o) && decide (o < 0x180))
  else if o < 0x2000 then
    [0x00, 0x04, 0x08, 0x10, 0x14, 0x18, 0x1C, 0x20, 0x24, 0x28, 0x2C, 0x30, 0x40, 0x48, 0x4C].contains (o - 0x1000)
  else if o < 0x3000 then o = 0x2000
  else if o < 0x6000 then o < 0x3000 + 8 * 1249
  else if o < 0x7000 then
    [0x00, 0x04, 0x08, 0x0C, 0x10, 0x14, 0x18, 0x1C, 0x20, 0x24, 0x28, 0x30, 0x34, 0x38].contains (o % 0x100)
  else 0x8000 ≤ o

/-- An offset of a partition's page (Table 26.8) and of its progress counters. -/
def partAssigned (i : Nat) : Bool :=
  [0x00, 0x08, 0x0C, 0x10, 0x18, 0x1C, 0x20, 0x24, 0x30, 0x34, 0x40, 0x48, 0x4C, 0x50].contains i || (decide (0x100 ≤ i) && decide (i < 0x120)) ||
    (decide (0x800 ≤ i) && decide (i < 0x8C0))

/-- An offset from 0x400000 to 0x427FFF (Tables 26.10 to 26.14). -/
def unitAssigned (o : Nat) : Bool :=
  let i := o % 0x40
  if o < 0x402000 then [0x00, 0x08, 0x0C, 0x10].contains i
  else if o < 0x404000 then false
  else if o < 0x404800 then [0x00, 0x08].contains i
  else if o < 0x405000 then false
  else if o < 0x406000 then [0x405000, 0x405008, 0x40500C].contains o
  else if o < 0x410000 then false
  else if o < 0x420000 then [0x00, 0x04, 0x08, 0x0C, 0x10, 0x14].contains i
  else if o < 0x420400 then [0x00, 0x08, 0x0C].contains i
  else if o < 0x421000 then false
  else if o < 0x421800 then o % 0x400 < 0x40
  else if o < 0x422000 then false
  else if o < 0x422200 then [0x00, 0x04, 0x08].contains i
  else if o < 0x423000 then false
  else if o < 0x424000 then [0x00, 0x04, 0x08, 0x0C, 0x10].contains (o - 0x423000)
  else if o < 0x425000 then [0x00, 0x08, 0x0C, 0x10, 0x14, 0x18, 0x1C].contains (o - 0x424000)
  else if o < 0x426000 then [0x00, 0x04, 0x08, 0x0C].contains (o - 0x425000)
  else if o < 0x427000 then
    let j := o - 0x426000
    j < 0x204 || (decide (0x240 ≤ j) && decide (j < 0x284)) || (decide (0x300 ≤ j) && decide (j < 0x500))
  else o < 0x427020

/-- A 4-aligned offset of PF BAR 0 that holds a register. -/
def pfAssigned (o : Nat) : Bool :=
  if o < 0x10000 then false
  else if o < 0x20000 then globalAssigned (o - 0x10000)
  else if o < 0x20000 + 181 * 0x20 then [0x00, 0x08, 0x0C, 0x10, 0x14].contains (o % 0x20)
  else if o < 0x40000 then false
  else if o < 0x80000 then partAssigned (o % 0x1000)
  else if o < 0x100000 then false
  else if o < 0x140000 then [0x00, 0x04, 0x08, 0x0C, 0x10, 0x14, 0x18].contains (o % 0x100)
  else if o < 0x200000 then false
  else if o < 0x400000 then true
  else if o < 0x428000 then unitAssigned o
  else if o < 0x800000 then false
  else if o < 0x801000 then
    o % 0x100 < 0x44
  else if o < 0x810000 then false
  else if o < 0x811000 then
    [0x00, 0x04, 0x08, 0x0C, 0x10, 0x14, 0x18, 0x40, 0x44, 0x48, 0x4C, 0x60, 0x64, 0x68, 0x6C].contains (o - 0x810000)
  else if o < 0xA00000 then false
  else if o < 0xA01000 then
    let j := o - 0xA00000
    [0x00, 0x04, 0x08, 0x10, 0x14, 0x18, 0x1C, 0x20, 0x24, 0x28, 0x2C, 0x30].contains j || (decide (0x80 ≤ j) && decide (j < 0xC0))
  else if o < 0xB00000 then false
  else if o < 0xB00800 then true
  else if o < 0xC00000 then false
  else if o < 0xC40000 then
    let j := o % 0x4000
    j < 0x10 || (decide (0x20 ≤ j) && decide (j < 0x40)) || decide (0x2000 ≤ j)
  else if o < 0xF00000 then false
  else [0x00, 0x04, 0x08, 0x0C, 0x10, 0x14, 0x18, 0x1C, 0x20].contains (o - 0xF00000)

/-- A 4-aligned offset of a VF BAR 0 that holds a register. -/
def vfAssigned (o : Nat) : Bool :=
  if o < 0x1000 then false
  else if o < 0x2000 then
    let j := o - 0x1000
    [0x00, 0x04, 0x08, 0x0C, 0x10, 0x18, 0x1C, 0x20, 0x24, 0x30, 0x34, 0x38, 0x40, 0x44, 0x48, 0x50, 0x54, 0x58, 0x60, 0x68, 0x70, 0x78, 0x80].contains j ||
      (decide (0x100 ≤ j) && decide (j < 0x120))
  else if o < 0x10000 then false
  else if o < 0x20000 then
    [0x00, 0x04, 0x08, 0x0C, 0x10, 0x18, 0x1C, 0x20, 0x24, 0x28, 0x2C, 0x30].contains (o % 0x1000)
  else if o < 0x28000 then true
  else if o < 0x30000 then false
  else if o < 0x300C0 then true
  else [0x40000, 0x40004, 0x40008, 0x50000, 0x50004, 0x50008].contains o

/-- An aligned 32-bit or 64-bit access (R81). -/
def alignedAccess (o bytes : Nat) : Bool := (bytes = 4 && o % 4 = 0) || (bytes = 8 && o % 8 = 0)

/-- A register of island `d` answers the PF's BAR: the island is in RUN and the Kelri PF view is VALID (R90, R152). -/
def State.pfReaches (s : State) (d : Island) : Bool := s.running d && s.kelri.pf.valid

/-- A register of island `d` answers a requester: the Drinoner port needs no Kelri view, and a VF's registers are closed by the absence of
its partition (R887). -/
def State.regAnswers (s : State) (r : Requester) (d : Island) : Bool :=
  match r with
  | .fn .pf => s.pfReaches d
  | _ => s.running d

/-- A write to a register of an island that is not in RUN is discarded and counted (R90). -/
def State.dropWrite (s : State) (d : Island) : State := s.setIsland d { s.island d with drop := satAdd64 (s.island d).drop 1 }

end Sys2Proof.Machine
end

