-- ==== Sys2Proof/Machine/Random.lean ====
section
/-!
DEFINITION. The RNG island: noise cells, conditioned blocks, CTR_DRBG instances, random queues, the sampler, and their
commands (ch. 22).
-/

namespace Sys2Proof.Machine
open Sys2Proof

/-! ### CTR_DRBG with AES-256, no derivation function (R754) -/

/-- `n` bytes of AES-256 over V + 1, V + 2, … -/
def drbgStream (ks : List Bytes) (v : Nat) : Nat → Bytes
  | 0 => []
  | n + 1 => aesWith ks (beBytes 16 ((v + 1) % 2 ^ 128)) ++ drbgStream ks ((v + 1) % 2 ^ 128) n

/-- The update function on 48 bytes of input. -/
def Drbg.update (d : Drbg) (data : Bytes) : Drbg :=
  let b := xorBytes (drbgStream (aesKeys d.key) (beNat d.v) 3) (fit 48 data)
  { d with key := b.take 32, v := b.drop 32 }

/-- Instantiation from a block and a personalization string. -/
def drbgNew (block personal : Bytes) : Drbg :=
  { (({ key := zeros 32, v := zeros 16, reseedCounter := 0 } : Drbg).update (xorBytes (fit 48 block) (fit 48 personal))) with reseedCounter := 1 }

def Drbg.reseed (d : Drbg) (block : Bytes) : Drbg := { d.update block with reseedCounter := 1 }

/-- One generate request. -/
def Drbg.generate (d : Drbg) (n : Nat) : Bytes × Drbg :=
  let k := ceilDiv n 16
  let out := (drbgStream (aesKeys d.key) (beNat d.v) k).take n
  let v := beBytes 16 ((beNat d.v + k) % 2 ^ 128)
  (out, { ({ d with v := v } : Drbg).update (zeros 48) with reseedCounter := d.reseedCounter + 1 })

/-! ### Blocks -/

/-- The next conditioned block, used once: the oldest of the pool, or the one a cell completes next, whose bytes are free
(R751, R752, R770). [log 55 DEDUCED] -/
def State.takeBlock (s : State) : Bytes × State :=
  match s.random.pool with
  | b :: t => (b, { s with random := { s.random with pool := t } })
  | [] => s.freeBytes 48

def State.cell (s : State) (c : Nat) : Cell := Tab.get s.random.cells {} c

def State.setCell (s : State) (c : Nat) (x : Cell) : State :=
  { s with random := { s.random with cells := Tab.set s.random.cells {} c x } }

def State.healthyCells (s : State) : List Nat := (List.range 8).filter (fun c => (s.cell c).state == .healthy)

/-- BLOCK_CONDITIONED: a HEALTHY cell's block enters the pool of 64, the oldest leaving a full one (R751). -/
def actBlockConditioned (c : Fin 8) (s : State) : State :=
  if !s.running .rng || !s.random.serving || (s.cell c.val).state != .healthy then s
  else
    let (b, s) := s.freeBytes 48
    let l := s.random.pool ++ [b]
    { s with random := { s.random with pool := l.drop (l.length - 64) } }

/-- Log 14 DESIGN CHOICE. -/
def execBlockConditioned (c : Fin 8) (s : State) : Host.Outcome State Fault Refusal := s.conclude (actBlockConditioned c s)

/-! ### Instances (Table 22.4) -/

def instSampler : Nat := 0
def instDevice : Nat := 1
def instControl : Nat := 2
/-- Log 92 DEDUCED. -/
def instPart (p : Fin 64) : Nat := 3 + p.val

def State.setDrbg (s : State) (k : Nat) (d : Drbg) : State :=
  { s with random := { s.random with drbgs := Tab.insert s.random.drbgs k d } }

def State.personal (s : State) (k : Nat) : Bytes := if k < 3 then [] else Tab.get s.random.personal [] (k - 3)

/-- Instantiate an instance with its string (R755). -/
def State.instantiate (s : State) (k : Nat) : State :=
  let (b, s) := s.takeBlock
  s.setDrbg k (drbgNew b (s.personal k))

/-- Reseed an instance, or instantiate it where it holds no state (R773). [log 92 DEDUCED] -/
def State.reseed (s : State) (k : Nat) : State :=
  match Tab.find? s.random.drbgs k with
  | none => s.instantiate k
  | some d =>
    let (b, s) := s.takeBlock
    s.setDrbg k (d.reseed b)

/-- One generate request of at most 4 KiB, after the reseed that the limit of 2^20 asks for (R754). -/
def State.drawRequest (s : State) (k n : Nat) : Bytes × State :=
  let d := Tab.get s.random.drbgs (drbgNew [] []) k
  let s := if 2 ^ 20 < d.reseedCounter then s.reseed k else s
  let (out, d') := (Tab.get s.random.drbgs d k).generate n
  (out, s.setDrbg k d')

def State.drawAux (s : State) (k : Nat) : Nat → Nat → Bytes × State
  | 0, _ => ([], s)
  | fuel + 1, n =>
    if n = 0 then ([], s)
    else
      let m := min n 4096
      let (a, s) := s.drawRequest k m
      let (b, s) := s.drawAux k fuel (n - m)
      (a ++ b, s)

/-- `n` bytes of an instance, in generation order. [log 14 DESIGN CHOICE] -/
def State.draw (s : State) (k n : Nat) : Bytes × State := s.drawAux k (ceilDiv n 4096) n

/-! ### The sampler (R763 to R765) -/

/-- The integers that a free natural can stand for: every z with |z| < 2^62. [log 15 DESIGN CHOICE] -/
def sampleOf (n : Nat) : Int := (n % (2 ^ 63 - 1) : Nat) - (2 ^ 62 - 1 : Int)

/-- One sample: its distribution is that of R378, its value is free. [log 15 DESIGN CHOICE] -/
def State.sample (s : State) : Int × State :=
  let (n, s) := s.freeNat
  (sampleOf n, s)

/-- `n` samples. [log 15 DESIGN CHOICE] -/
def State.samples (s : State) : Nat → List Int × State
  | 0 => ([], s)
  | n + 1 =>
    let (z, s) := s.sample
    let (r, s) := s.samples n
    (z :: r, s)

/-- The sampler's instance after it has served: what it consumed of its stream is free. -/
def State.samplerUsed (s : State) : State :=
  match Tab.find? s.random.drbgs instSampler with
  | none => s
  | some d =>
    let (b, s) := s.freeBytes 48
    s.setDrbg instSampler { key := b.take 32, v := b.drop 32, reseedCounter := d.reseedCounter + 1 }

/-! ### Serving and FAILED (R750, R772, R773) -/

/-- The instances that exist, ascending. -/
def State.instances (s : State) : List Nat := [instSampler, instDevice, instControl] ++ List.map (fun (y : Nat × Partition) => 3 + y.1) s.part.parts

/-- Commands that take samples from the sampler, in dispatch order. -/
def State.fills (s : State) : List Cmd :=
  s.q.cmds.filter (fun c => match c.phase with
    | .executing (.noise _ _ _ _) => true
    | _ => false)

/-- End every executing NOISE_FILL; its destination is undefined (R772, R775). -/
def State.endFills (s : State) (st : Status) : State :=
  s.fills.foldl (fun s c => match c.phase with
    | .executing (.noise ps dst total _) =>
      let (b, s) := s.freeBytes (8 * total)
      (s.writeRange ps dst b).complete c.src c.id st []
    | _ => s) s

/-- Log 56 DEDUCED. -/
def State.sourceFailed (s : State) : State :=
  { s with random := { s.random with
      serving := false, cause := if s.random.testsPassed then 1 else 2, pool := [], queues := [], served := [] } }.raisePf .entropy

/-- The source serves, or fails, as its cells and tests say. [log 56 DEDUCED] -/
def State.judgeSource (s : State) : State :=
  let ok := s.random.testsPassed && decide (2 ≤ s.healthyCells.length)
  if ok && !s.random.serving then
    let s := { s with random := { s.random with serving := true, cause := 0 } }
    s.instances.foldl State.reseed s
  else if !ok && s.random.serving then
    (s.endFills .entropyFail).sourceFailed
  else s

/-- A self-test failure of the RNG (R774). [log 125 DEDUCED] -/
def State.selfTestFail (s : State) : State :=
  let s := { s with random := { s.random with testsPassed := false } }
  let s := s.logErr 10 .rng 0xFF .contained .katFail
  if s.random.serving then s.judgeSource else s.sourceFailed

/-- What a reset of the RNG island leaves: cells start again, instances, queues and blocks are scrubbed; failure counts
stay (R775, R776). -/
def State.rngReset (s : State) : State :=
  { s with random := { s.random with
      cells := Tab.map (fun _ (c : Cell) => { ({} : Cell) with rctFail := c.rctFail, aptFail := c.aptFail }) s.random.cells
      pool := [], drbgs := [], queues := [], serving := false, cause := 0, testsPassed := false, served := [] } }

/-- The RNG reaches RUN: its known-answer tests pass or fail (R776). -/
def State.rngRun (s : State) (kat : Bool) : State :=
  if kat then { s with random := { s.random with testsPassed := true, cause := 1 } } else s.selfTestFail

/-! ### Cell events -/

/-- STARTUP_TEST_PASS (R749). -/
def actStartupTestPass (c : Fin 8) (s : State) : State :=
  let x := s.cell c.val
  if s.running .rng && x.state = .startup then (s.setCell c.val { x with state := .healthy }).judgeSource else s

def execStartupTestPass (c : Fin 8) (s : State) : Host.Outcome State Fault Refusal := s.conclude (actStartupTestPass c s)

/-- CELL_TEST_FAIL: RETRY, or DISABLED at the third failure within 1 s (R748, R771). -/
def actCellTestFail (c : Fin 8) (apt : Bool) (s : State) : State :=
  let x := s.cell c.val
  if !s.running .rng || x.state = .retry || x.state = .disabled then s
  else
    let l := s.now :: x.failures.filter (fun t => decide (s.now ≤ t + 1000000000))
    let x := { x with
      failures := l.take 3
      state := if 3 ≤ l.length then .disabled else .retry
      retryAt := s.now + 1000000
      rctFail := if apt then x.rctFail else satAdd32 x.rctFail 1
      aptFail := if apt then satAdd32 x.aptFail 1 else x.aptFail }
    (s.setCell c.val x).judgeSource

def execCellTestFail (c : Fin 8) (apt : Bool) (s : State) : Host.Outcome State Fault Refusal := s.conclude (actCellTestFail c apt s)

/-- CELL_RETRY: 1 ms after its failure a cell enters STARTUP again (R771). -/
def actCellRetry (c : Fin 8) (s : State) : State :=
  let x := s.cell c.val
  if s.running .rng && x.state = .retry && x.retryAt ≤ s.now then (s.setCell c.val { x with state := .startup }) else s

def execCellRetry (c : Fin 8) (s : State) : Host.Outcome State Fault Refusal := s.conclude (actCellRetry c s)

/-! ### The random port -/

/-- QUEUE_REFILL: 4 KiB into a queue with 4 KiB free (R758). [log 55 DEDUCED] -/
def actQueueRefill (p : Fin 64) (s : State) : State :=
  let q := Tab.get s.random.queues [] p.val
  if !s.random.serving || !s.created p || (Tab.find? s.random.drbgs (instPart p)).isNone || 4096 < q.length then s
  else
    let (b, s) := s.draw (instPart p) 4096
    { s with random := { s.random with queues := Tab.insert s.random.queues p.val (q ++ b) } }

def execQueueRefill (p : Fin 64) (s : State) : Host.Outcome State Fault Refusal := s.conclude (actQueueRefill p s)

def State.portReply (s : State) (p : Fin 64) (v : Nat) : State := s.toHost (.readReply (.vf p) v false)

/-- An access of PT_RANDOM_DATA that is not aligned (R81). [log 110 DEDUCED] -/
def State.randomAccessError (s : State) (p : Fin 64) (offset : Nat) : State :=
  s.logErr 0 (if s.created p && !s.flrActive p then .rng else .hif) (partByte (some p)) .protocol .regAccess (0x40000 + offset)

/-- A read of PT_RANDOM_DATA: the oldest 4 or 8 bytes leave the queue; short of them the read returns 0 and UNDERRUN sets (R759,
R897). A read while the VF is closed or the RNG not in RUN returns 0 and changes nothing (R90, R141). -/
def State.randomPortRead (s : State) (p : Fin 64) (offset : Nat) (wide : Bool) : State :=
  let n := if wide then 8 else 4
  let q := Tab.get s.random.queues [] p.val
  if !alignedAccess offset n then (s.randomAccessError p offset).portReply p 0
  else if offset != 0 || !s.created p || s.flrActive p || !s.running .rng then s.portReply p 0
  else if q.length < n then
    ({ s with random := { s.random with underrun := insertNat p.val s.random.underrun } }.raiseVf p 18 0).portReply p 0
  else { s with random := { s.random with queues := Tab.insert s.random.queues p.val (q.drop n) } }.portReply p (leNat (q.take n))

/-! ### Commands (Table 5.15) -/

/-- A caller's instance. -/
def callerInst : Source → Nat
  | .part p _ => instPart p
  | _ => instControl

def specRandomFill : OpSpec :=
  { code := 0x0800, callP := true, callC := true, used := [2, 3, 4],
    checks := [.addr 2 1, .word 4 .range (fun v => v == 0 || v > 2 ^ 24), .range48 2 [4] (fun w => w 4)] }

/-- RANDOM_FILL (R760). -/
def bodyRandomFill : Body := fun c s =>
  c.needs s .rng (fun s =>
  if !s.random.serving then fail .entropyFail s
  else c.claim s 2 (pair c.w 2) (c.w 4) true (fun ps s =>
    let (b, s) := s.draw (callerInst c.src) (c.w 4)
    okRes [] ((s.writeRange ps (pair c.w 2) b).progressSrc c.src (ceilDiv (c.w 4) 4096))))

def actRandomFill (src : Source) (pkt : Packet) (s : State) : State :=
  (s.present specRandomFill bodyRandomFill src pkt)

/-- Log 14 DESIGN CHOICE. -/
def execRandomFill (src : Source) (pkt : Packet) (s : State) : Host.Outcome State Fault Refusal := s.conclude (actRandomFill src pkt s)

/-- Discard a partition's queue. [log 55 DEDUCED] -/
def State.dropQueue (s : State) (p : Fin 64) : State :=
  { s with random := { s.random with queues := Tab.erase s.random.queues p.val } }

def specRandomReseed : OpSpec := { code := 0x0801, callP := true, callC := true }

/-- RANDOM_RESEED (R761). -/
def bodyRandomReseed : Body := fun c s =>
  c.needs s .rng (fun s =>
  if !s.random.serving then fail .entropyFail s
  else
    let s := match srcPart c.src with
      | some p => s.dropQueue p
      | none => s
    okRes [] (s.reseed (callerInst c.src)))

def actRandomReseed (src : Source) (pkt : Packet) (s : State) : State :=
  (s.present specRandomReseed bodyRandomReseed src pkt)

def execRandomReseed (src : Source) (pkt : Packet) (s : State) : Host.Outcome State Fault Refusal := s.conclude (actRandomReseed src pkt s)

def specRandomPersonalize : OpSpec :=
  { code := 0x0802, big := true, callC := true, callM := true, noIndirect := true, used := List.range 14,
    checks := [.mask 0 0x3F, .word 1 .range (fun v => v > 48)] }

/-- RANDOM_PERSONALIZE (R762). -/
def bodyRandomPersonalize : Body := fun c s =>
  c.needs s .rng (fun s =>
  let p : Fin 64 := Fin.ofNat 64 (c.w 0)
  if !s.created p then failAt .badParam 0 s
  else if !s.random.serving then fail .entropyFail s
  else
    let str := ((List.range 12).flatMap (fun k => leBytes 4 (c.w (2 + k)))).take (c.w 1)
    let s := { s with random := { s.random with personal := Tab.insert s.random.personal p.val str } }
    okRes [] ((s.dropQueue p).instantiate (instPart p)))

def actRandomPersonalize (src : Source) (pkt : Packet) (s : State) : State :=
  (s.present specRandomPersonalize bodyRandomPersonalize src pkt)

def execRandomPersonalize (src : Source) (pkt : Packet) (s : State) : Host.Outcome State Fault Refusal :=
  s.conclude (actRandomPersonalize src pkt s)

def specNoiseFill : OpSpec :=
  { code := 0x0803, callP := true, used := [0, 1, 2, 3, 4],
    checks := [.word 1 .badParam (fun v => v == 0), .addr 2 8, .word 4 .range (fun v => v == 0 || v > 2 ^ 26),
      .range48 2 [4] (fun w => 8 * w 4)] }

/-- NOISE_FILL: zeros for a numerator of 0, else a user of the sampler until its samples are written (R764, R765). -/
def bodyNoiseFill : Body := fun c s =>
  c.needs s .rng (fun s =>
  if !s.random.serving then fail .entropyFail s
  else c.claim s 2 (pair c.w 2) (8 * c.w 4) true (fun ps s =>
    if c.w 0 = 0 then okRes [] ((s.zeroRange ps (pair c.w 2) (8 * c.w 4)).progressSrc c.src (ceilDiv (c.w 4) 4096))
    else (.run (.noise ps (pair c.w 2) (c.w 4) 0), s)))

def actNoiseFill (src : Source) (pkt : Packet) (s : State) : State :=
  (s.present specNoiseFill bodyNoiseFill src pkt)

def execNoiseFill (src : Source) (pkt : Packet) (s : State) : Host.Outcome State Fault Refusal := s.conclude (actNoiseFill src pkt s)

end Sys2Proof.Machine
end

