-- ==== Sys2Proof/Machine/Rma.lean ====
section
/-!
DEFINITION. Remote memory access: windows, RMA commands, the target side of a request, forwarding and answers (R570 to
R583, R587, R588, R596 to R602).
-/

namespace Sys2Proof.Machine
open Sys2Proof

/-! ### Windows (R574, R576) -/

def windowKey (p : Fin 64) (h : Nat) : Nat := 256 * p.val + h

def State.setWindow (s : State) (p : Fin 64) (h : Nat) (w : Window) : State :=
  { s with spetar := { s.spetar with windows := Tab.insert s.spetar.windows (windowKey p h) w } }

def State.dropWindow (s : State) (p : Fin 64) (h : Nat) : State :=
  { s with spetar := { s.spetar with windows := Tab.erase s.spetar.windows (windowKey p h) } }

def specWindowOpen : OpSpec :=
  { code := 0x0502, callP := true, used := [0, 1, 2, 3, 4, 5],
    checks := [.mask 0 0xF01FFFF, .mask 1 0x3F, .addr 2 65536, .pair64 4 .badParam (fun v => v % 65536 != 0), .pair64 4 .range (fun v => v == 0),
      .range48 2 [4, 5] (fun w => pair w 4)] }

/-- Log 63 DEDUCED. -/
def bodyWindowOpen : Body := fun c s =>
  match srcPart c.src with
  | none => fail .notPermitted s
  | some p =>
    let h := bits (c.w 0) 7 0
    if (Tab.find? s.spetar.windows (windowKey p h)).isSome then fail .notPermitted s
    else
      let right (n : Nat) : Bool := bit (c.w 0) (24 + n)
      c.claim s 2 (pair c.w 2) (pair c.w 4) (right 1 || right 2) (fun ps s =>
        okRes [] (s.setWindow p h
          { peer := bits (c.w 0) 16 8, peerPart := c.w 1, read := right 0, write := right 1, add := right 2, signal := right 3
            bytes := pair c.w 4, pages := ps }))

def execWindowOpen (src : Source) (pkt : Packet) (s : State) : Host.Outcome State Fault Refusal := runRow specWindowOpen bodyWindowOpen src pkt s

def specWindowClose : OpSpec := { code := 0x0503, callP := true, used := [0], checks := [.mask 0 0xFF] }

/-- WINDOW_CLOSE: what was accepted has been applied, so it completes at once; the handle stays CLOSING. -/
def bodyWindowClose : Body := fun c s =>
  match srcPart c.src with
  | none => fail .notPermitted s
  | some p =>
    match Tab.find? s.spetar.windows (windowKey p (c.w 0)) with
    | none => failAt .badParam 0 s
    | some w => if w.closing.isSome then failAt .badParam 0 s else okRes [] (s.setWindow p (c.w 0) { w with closing := some s.now })

def execWindowClose (src : Source) (pkt : Packet) (s : State) : Host.Outcome State Fault Refusal :=
  runRow specWindowClose bodyWindowClose src pkt s

/-- WINDOW_HANDLE_FREE: 2,000 µs after its close a handle may be opened again. -/
def actWindowHandleFree (p : Fin 64) (h : Fin 256) (s : State) : State :=
  match Tab.find? s.spetar.windows (windowKey p h.val) with
  | none => s
  | some w => if w.closing.any (fun t => decide (t + 2000000 ≤ s.now)) then (s.dropWindow p h.val) else s

def execWindowHandleFree (p : Fin 64) (h : Fin 256) (s : State) : Host.Outcome State Fault Refusal := s.conclude (actWindowHandleFree p h s)

/-! ### The target (R575, R577, R579, R580, R597, R605) -/

/-- The window a request goes through, with the right it needs and its range inside. [log 63 DEDUCED] -/
def State.windowFor (s : State) (h : FabHeader) (right : Window → Bool) (off len : Nat) : Option (Fin 64 × Window) :=
  match s.windowOwner h.window h.src h.srcPart with
  | none => none
  | some (p, w) =>
    if w.closing.isNone && right w && decide (off + len ≤ w.bytes) && s.isCold p == h.cold && !s.flrActive p then some (p, w) else none

/-- The address a window offset has in its held translation. -/
def Window.addr (w : Window) (off : Nat) : Nat := (w.pages.headD (0, 0)).1 * pageBytes + off

/-- Log 63 DEDUCED. -/
def State.serveWrite (s : State) (h : FabHeader) (data : Bytes) : Status × State :=
  match s.windowFor h (·.write) h.offset data.length with
  | none => (.notPermitted, s)
  | some (_, w) => (.ok, s.writeRange w.pages (w.addr h.offset) data)

/-- Log 63 DEDUCED. -/
def State.serveRead (s : State) (h : FabHeader) (len : Nat) : Except Status Bytes × State :=
  match s.windowFor h (·.read) h.offset len with
  | none => (.error .notPermitted, s)
  | some (p, w) => s.readRange (partByte (some p)) w.pages (w.addr h.offset) len

/-- Bytes of an ADD element by type (Table 5.13). -/
def addWidth (t : Nat) : Nat := if t = 1 then 8 else 4

def addElement (t a b : Nat) : Nat :=
  if t = 0 then (a + b) % 2 ^ 32 else if t = 1 then (a + b) % 2 ^ 64 else (fp32Add a b).1

/-- The elements of `old` with those of `new` added. -/
def addBytes (t : Nat) (old new : Bytes) : Bytes :=
  (List.zipWith (fun a b => leBytes (addWidth t) (addElement t (leNat a) (leNat b))) (pieces (addWidth t) old) (pieces (addWidth t) new)).flatten

def State.serveAdd (s : State) (h : FabHeader) (data : Bytes) : Status × State :=
  match s.windowFor h (·.add) h.offset data.length with
  | none => (.notPermitted, s)
  | some (p, w) =>
    match s.readRange (partByte (some p)) w.pages (w.addr h.offset) data.length with
    | (.error st, s) => (st, s)
    | (.ok old, s) => (.ok, s.writeRange w.pages (w.addr h.offset) (addBytes h.op old data))

def State.serveSignal (s : State) (h : FabHeader) (data : Bytes) : Status × State :=
  s.windowSignal h.src h.srcPart h.cold h.window (h.offset % 4096) (if h.op = 1 then .max else .add) (BitVec.ofNat 64 (leNat (fit 8 data)))

/-- The WRITE right over a release's range (R381, R386). -/
def State.serveProbe (s : State) (h : FabHeader) (data : Bytes) : Status × State :=
  let off := leNat (slice data 0 8)
  let len := leNat (slice data 8 8)
  ((if (s.windowFor h (·.write) off len).isSome then .ok else .notPermitted), s)

/-! ### Answers and forwarding (R568 to R570) -/

/-- The route of an answer: the first live candidate. -/
def State.answerRoute (s : State) (d : Nat) : Option Route :=
  match s.spetar.fid with
  | none => none
  | some f => ((minimalRoutes s.topology f d) ++ nonMinimalRoutes s.topology f d).head?

/-- Send an answer; none where no route is live. -/
def State.answer (s : State) (d : Nat) (h : FabHeader) (data : Bytes) : State :=
  match s.answerRoute d with
  | none => s
  | some r => s.emit (.packet (some r.port) { h with src := s.ownFid, dst := d, via := r.via } data)

/-- ACK or NAK of a request. -/
def State.acknowledge (s : State) (h : FabHeader) (st : Status) : State :=
  s.answer h.src { type := if st = .ok then .ack else .nak, src := 0, dst := 0, offset := h.psn, status := st.code, vc := 3 } []

/-- The next hop of a packet in transit, and the group it goes by: that of VIA until the packet is there, or of the non-minimal route that
no minimal one is left for (R569). -/
def State.transitRoute (s : State) (h : FabHeader) : Option (Nat × Option Nat) :=
  match s.spetar.fid with
  | none => none
  | some f =>
    let m := s.topology
    match h.via with
    | some v =>
      if groupOf f = v then ((minimalRoutes m f h.dst).head?).map (fun r => (r.port, none))
      else ((members m v).findSome? (fun x => (minimalRoutes m f x).head?)).map (fun r => (r.port, some v))
    | none => ((minimalRoutes m f h.dst ++ nonMinimalRoutes m f h.dst).head?).map (fun r => (r.port, r.via))

/-- Pass a packet on toward its destination. -/
def State.forwardAs (s : State) (h : FabHeader) (mk : Nat → FabHeader → FabOut) : State :=
  match s.transitRoute h with
  | none => s
  | some (p, via) => s.emit (mk p { h with via := via })

def State.forward (s : State) (h : FabHeader) (data : Bytes) : State := s.forwardAs h (fun p h => .packet (some p) h data)

def State.forwardMsg (s : State) (h : FabHeader) (m : RoundMsg) : State := s.forwardAs h (fun p h => .message p h m)

/-! ### Frames received (R531, R545, R564) -/

/-- A frame with a good CRC arrives: it is handed on only by an ACTIVE port and in LSEQ order; a MISCABLED port hands on discovery and
link-state messages alone. -/
def State.receive (s : State) (a : Arrival) (o : FabOut) (act : State → State) : State :=
  let n := a.port.val
  if (s.port n).state != .active || a.lseq != (s.port n).expected then s
  else
    let t := s.setPort n ((s.port n).took o)
    if o.anyCable || !s.miscabled n then act t else t

/-! ### Arrival (R587 to R589) -/

/-- EXPIRY has passed. -/
def State.expired (s : State) (h : FabHeader) : Bool := decide ((s.now / 1024 % 2 ^ 32 + 2 ^ 32 - h.expiry) % 2 ^ 32 < 2 ^ 31)

/-- How a request's PSN stands: applied with a kept answer, a duplicate that gets none, or new. -/
inductive Seen where
  | kept (status : Nat)
  | stale
  | new
deriving DecidableEq, Repr

def State.seen (s : State) (h : FabHeader) : Seen :=
  let l := Tab.get s.spetar.applied [] h.src
  match l.find? (fun a => a.psn == h.psn) with
  | some a => if s.now ≤ a.at_ + 2048000 then .kept a.status else .stale
  | none =>
    match Tab.find? s.spetar.highest h.src with
    | none => .new
    | some t =>
      let d := (t + 2 ^ 32 - h.psn) % 2 ^ 32
      if 32768 < d && d < 2 ^ 31 then .stale else .new

/-- Keep the PSN of an applied request. -/
def State.noteApplied (s : State) (h : FabHeader) (st : Status) : State :=
  let old := Tab.get s.spetar.applied [] h.src
  let top := match Tab.find? s.spetar.highest h.src with
    | none => h.psn
    | some t => if (h.psn + 2 ^ 32 - t) % 2 ^ 32 < 2 ^ 31 then h.psn else t
  let live := old.filter (fun a => decide ((top + 2 ^ 32 - a.psn) % 2 ^ 32 ≤ 32768))
  { s with spetar := { s.spetar with
      applied := Tab.insert s.spetar.applied h.src ({ psn := h.psn, at_ := s.now, status := st.code } :: live)
      highest := Tab.insert s.spetar.highest h.src top } }

/-- The device takes requests. -/
def State.accepts (s : State) : Bool := s.time.qualified && s.spetar.fid.isSome && s.running .fab

/-- A request that is applied at most once arrives. -/
def State.arrive (s : State) (h : FabHeader) (serve : State → Status × State) : State :=
  if s.spetar.fid != some h.dst then s
  else if !s.accepts || s.expired h then s
  else match s.seen h with
    | .stale => s
    | .kept st => s.acknowledge h (Status.ofCode st)
    | .new =>
      let (st, s) := serve s
      (s.noteApplied h st).acknowledge h st

/-- Whether a packet is for another device. -/
def State.inTransit (s : State) (h : FabHeader) : Bool := s.running .fab && s.spetar.fid.any (· != h.dst)

/-- A ROUND packet arrives: one for another device is passed on, and one from a partition that differs in the cold frame is refused, which
tells its sender (R504, R597). -/
def State.takeRound (s : State) (o : RoundIn) (m : RoundMsg) (act : State → State) : State :=
  s.receive o.via (.message 0 o.h m) (fun s =>
    if s.inTransit o.h then s.forwardMsg o.h m
    else s.arrive o.h (fun s =>
      if (RoundMsg.part m).any (fun p => s.isCold (Fin.ofNat 64 p) != o.h.cold) then (.notPermitted, s) else (.ok, act s)))

/-- WRITE. -/
def actWrite (h : FabHeader) (data : Bytes) (s : State) : State :=
  if s.inTransit h then (s.forward h data) else (s.arrive h (fun s => s.serveWrite h data))

def execWrite (a : Arrival) (h : FabHeader) (data : Bytes) (s : State) : Host.Outcome State Fault Refusal :=
  s.conclude (s.receive a (.packet none h data) (actWrite h data))

/-- ADD. -/
def actAdd (h : FabHeader) (data : Bytes) (s : State) : State :=
  if s.inTransit h then (s.forward h data) else (s.arrive h (fun s => s.serveAdd h data))

def execAdd (a : Arrival) (h : FabHeader) (data : Bytes) (s : State) : Host.Outcome State Fault Refusal :=
  s.conclude (s.receive a (.packet none h data) (actAdd h data))

/-- SIGNAL. -/
def actSignal (h : FabHeader) (data : Bytes) (s : State) : State :=
  if s.inTransit h then (s.forward h data) else (s.arrive h (fun s => s.serveSignal h data))

def execSignal (a : Arrival) (h : FabHeader) (data : Bytes) (s : State) : Host.Outcome State Fault Refusal :=
  s.conclude (s.receive a (.packet none h data) (actSignal h data))

/-- PROBE. -/
def actProbe (h : FabHeader) (data : Bytes) (s : State) : State :=
  if s.inTransit h then (s.forward h data) else (s.arrive h (fun s => s.serveProbe h data))

def execProbe (a : Arrival) (h : FabHeader) (data : Bytes) (s : State) : Host.Outcome State Fault Refusal :=
  s.conclude (s.receive a (.packet none h data) (actProbe h data))

/-- Read responses of up to 256 bytes. -/
def State.respond (s : State) (h : FabHeader) : Nat → List Bytes → State
  | _, [] => s
  | off, b :: t =>
    (s.answer h.src { type := .readResp, src := 0, dst := 0, psn := h.psn, offset := off, last := t.isEmpty, vc := 1 } b).respond h
      (off + b.length) t

/-- READ_REQ: the bytes go back in read responses; reads have no side effect and are served each time. -/
def actReadReq (h : FabHeader) (data : Bytes) (s : State) : State :=
  if s.inTransit h then (s.forward h data)
  else if s.spetar.fid != some h.dst || !s.accepts || s.expired h || s.seen h = .stale then s
  else match s.serveRead h (leNat (slice data 0 4)) with
    | (.error st, s) => ((s.noteApplied h st).acknowledge h st)
    | (.ok b, s) => ((s.noteApplied h .ok).respond h 0 (pieces 256 b))

def execReadReq (a : Arrival) (h : FabHeader) (data : Bytes) (s : State) : Host.Outcome State Fault Refusal :=
  s.conclude (s.receive a (.packet none h data) (actReadReq h data))

/-! ### Commands (R578 to R582) -/

/-- Cut a range at `k`-byte boundaries: offsets and lengths. -/
def cutsAux (k : Nat) : Nat → Nat → Nat → List (Nat × Nat)
  | 0, _, _ => []
  | fuel + 1, off, len =>
    if len = 0 then []
    else
      let n := min len (k - off % k)
      (off, n) :: cutsAux k fuel (off + n) (len - n)

def cuts (k off len : Nat) : List (Nat × Nat) := cutsAux k (len / k + 2) off len

/-- A request header of a partition's queue (R572). -/
def State.requestHeader (s : State) (src : Source) (t : PktType) (d win : Nat) : FabHeader :=
  { type := t, src := s.ownFid, dst := d, srcPart := ((srcPart src).map (·.val)).getD 0, cold := ((srcPart src).map s.isCold).getD false
    window := win }

/-- WRITE or ADD packets of `data` from `off`. -/
def dataPackets (serial : Nat) (h : FabHeader) (off : Nat) (data : Bytes) (why : ReqPurpose) : List Outstanding :=
  let l := cuts 256 off data.length
  l.map (fun (o, n) =>
    { header := { h with offset := o, last := decide (o + n = off + data.length) }, payload := slice data (o - off) n, bytes := n
      serial := serial, purpose := why })

def specRma (code : Nat) (checks : List Check) (mask : Nat) : OpSpec :=
  { code := code, callP := true, used := [0, 1, 2, 3, 4, 5],
    checks := [.mask 0 mask, .word 1 .range (fun v => v == 0 || v > 2 ^ 30), .addr 4 1, .range48 4 [1] (fun w => w 1)] ++ checks }

/-- A command whose packets have all ended: the first failure is its status; retransmissions and refusals are its results
(R581). -/
def State.remoteDone (s : State) (src : Source) (id : Nat) : State :=
  match (((s.cmd? src id).map (fun (c : Cmd) => c.phase)) : Option Phase) with
  | some (.executing (.remote 0 retx refused st)) => s.complete src id (st.getD .ok) [w32 retx, w32 refused]
  | _ => s

/-- One packet of a command ends. -/
def remoteEnd (st : Status) (w : Work) : Work :=
  match w with
  | .remote n x r f => if st = .ok then .remote (n - 1) x r f
      else .remote (n - 1) x (if st = .notPermitted then r + 1 else r) (if f.isNone then some st else f)
  | w => w

def State.modRemote (s : State) (src : Source) (id : Nat) (f : Work → Work) : State :=
  s.modCmd src id (fun c => match c.phase with
    | .executing w => { c with phase := .executing (f w) }
    | _ => c)

def State.remoteEnded (s : State) (src : Source) (id : Nat) (st : Status) : State :=
  (s.modRemote src id (remoteEnd st)).remoteDone src id

/-- Carry packets to this device itself out at once (R578). -/
def State.serveLocal (s : State) (serve : State → Outstanding → Status × State) (os : List Outstanding) : BodyOut × State :=
  let (refused, first, s) := os.foldl (fun (acc : Nat × Option Status × State) o =>
    let (st, s) := serve acc.2.2 o
    if st = Status.ok then (acc.1, acc.2.1, s)
    else ((if st = .notPermitted then acc.1 + 1 else acc.1), (if acc.2.1.isNone then some st else acc.2.1), s)) (0, none, s)
  (.done (first.getD .ok) [0, w32 refused], s)

/-- Send a command's packets, or serve them here where the target is this device. -/
def State.sendCommand (s : State) (c : Ctx) (d : Nat) (os : List Outstanding) (serve : State → Outstanding → Status × State) : BodyOut × State :=
  if s.spetar.fid = some d then s.serveLocal serve os
  else
    let w : Work := .remote os.length 0 0 none
    let s := s.modCmd c.src c.id (fun x => { x with phase := .executing w })
    (.run w, (s.sendRequests d os).progressSrc c.src (c.w 1 / 2 ^ 20))

/-- The target of an RMA command can be reached (R582). [log 50 DEDUCED] -/
def State.reaches (s : State) (d : Nat) : Bool := s.spetar.fid = some d || s.canSend d

def specRmaWrite : OpSpec := specRma 0x0504 [] 0xFF01FF

def bodyRmaWrite : Body := fun c s =>
  let d := bits (c.w 0) 8 0
  let h := s.requestHeader c.src .write d (bits (c.w 0) 23 16)
  if !s.reaches d then fail .linkDown s
  else c.claim s 4 (pair c.w 4) (c.w 1) false (fun ps s =>
    c.read s ps (pair c.w 4) (c.w 1) (fun b s =>
      s.sendCommand c d (dataPackets (s.serialOf c.src c.id) h (pair c.w 2) b (.data c.src c.id)) (fun s o => s.serveWrite o.header o.payload)))

def execRmaWrite (src : Source) (pkt : Packet) (s : State) : Host.Outcome State Fault Refusal := runRow specRmaWrite bodyRmaWrite src pkt s

def specRmaAdd : OpSpec :=
  specRma 0x0506
    [.word 0 .badParam (fun v => bits v 27 24 > 2), { words := [0, 1], name := 1, status := .badParam, fails := fun w => w 1 % addWidth (bits (w 0) 27 24) != 0 },
     { words := [0, 2, 3], name := 2, status := .badParam, fails := fun w => pair w 2 % addWidth (bits (w 0) 27 24) != 0 },
     { words := [0, 4, 5], name := 4, status := .badParam, fails := fun w => pair w 4 % addWidth (bits (w 0) 27 24) != 0 }] 0xFFF01FF

def bodyRmaAdd : Body := fun c s =>
  let d := bits (c.w 0) 8 0
  let h := { s.requestHeader c.src .add d (bits (c.w 0) 23 16) with op := bits (c.w 0) 27 24 }
  if !s.reaches d then fail .linkDown s
  else c.claim s 4 (pair c.w 4) (c.w 1) false (fun ps s =>
    c.read s ps (pair c.w 4) (c.w 1) (fun b s =>
      s.sendCommand c d (dataPackets (s.serialOf c.src c.id) h (pair c.w 2) b (.data c.src c.id)) (fun s o => s.serveAdd o.header o.payload)))

def execRmaAdd (src : Source) (pkt : Packet) (s : State) : Host.Outcome State Fault Refusal := runRow specRmaAdd bodyRmaAdd src pkt s

def specRmaRead : OpSpec := specRma 0x0505 [] 0xFF01FF

/-- Serve one read request of this device locally. -/
def State.serveReadLocal (s : State) (o : Outstanding) : Status × State :=
  match o.purpose with
  | .read _ _ ps dst len =>
    (match s.serveRead o.header len with
     | (.error st, s) => (st, s)
     | (.ok b, s) => (.ok, s.writeRange ps dst b))
  | _ => (.ok, s)

def bodyRmaRead : Body := fun c s =>
  let d := bits (c.w 0) 8 0
  let h := s.requestHeader c.src .readReq d (bits (c.w 0) 23 16)
  if !s.reaches d then fail .linkDown s
  else c.claim s 4 (pair c.w 4) (c.w 1) true (fun ps s =>
    let os : List Outstanding := (cuts 4096 (pair c.w 2) (c.w 1)).map (fun (o, n) =>
      { header := { h with offset := o, last := decide (o + n = pair c.w 2 + c.w 1) }, payload := leBytes 8 n, bytes := n
        serial := s.serialOf c.src c.id, purpose := .read c.src c.id ps (pair c.w 4 + (o - pair c.w 2)) n })
    s.sendCommand c d os State.serveReadLocal)

def execRmaRead (src : Source) (pkt : Packet) (s : State) : Host.Outcome State Fault Refusal := runRow specRmaRead bodyRmaRead src pkt s

end Sys2Proof.Machine
end

