-- ==== Sys2Proof/Machine/ShedOps.lean ====
section
/-!
DEFINITION. The Shed: device slots, slot records, and the check of a use (R684 to R692).
-/

namespace Sys2Proof.Machine
open Sys2Proof

/-- A device slot's value (R684). -/
def deviceKeyOf (root : Bytes) (label : String) : Bytes := hkdf256 root [] (ascii label ++ udid) 32

def State.slotIntegrity (s : State) : Option Bytes := s.shed.pufRoot.map (deviceKeyOf · "ARKSINT1")
def State.slotKek (s : State) : Option Bytes := s.shed.batteryRoot.map (deviceKeyOf · "ARKSKEK1")
def State.weightRoot (s : State) : Option Bytes := s.shed.batteryRoot.map (deviceKeyOf · "ARKWGT01")
def State.deviceProve (s : State) : Option Bytes := s.shed.pufRoot.map (deviceKeyOf · "ARKDEVP1")

def State.slot (s : State) (n : Nat) : SlotRec := Tab.get s.shed.slots {} n

def State.setSlot (s : State) (n : Nat) (r : SlotRec) : State :=
  { s with shed := { s.shed with slots := Tab.set s.shed.slots {} n r } }

def SlotState.code : SlotState → Nat
  | .empty => 0
  | .valid => 1
  | .bad => 2

/-- Bytes 0x00 to 0x5F of a record (Table 20.6a). -/
def SlotRec.body (r : SlotRec) : Bytes :=
  leBytes 1 r.state.code ++ [0] ++ leBytes 1 r.owner.val ++ leBytes 1 r.usage.toNat ++ [r.mask] ++ leBytes 1 r.length ++ [0] ++
  leBytes 1 (b2n r.origin) ++ leBytes 4 r.generation.toNat ++ leBytes 4 r.brootGen.toNat ++ fit 56 r.wrapped ++ zeros 24

def slotTag (key : Bytes) (n : Nat) (r : SlotRec) : Bytes := hmac256 key (leBytes 1 n ++ r.body)

/-- The key in a record that passes its check (R691): tag, generation of the battery root, unwrap. -/
def State.slotKey (s : State) (n : Nat) (r : SlotRec) : Option Bytes :=
  match s.slotIntegrity, s.slotKek with
  | some k, some kek =>
    if r.tag == slotTag k n r && r.brootGen == s.shed.brootGen then (aesUnwrap kek r.wrapped).map (·.take r.length) else none
  | _, _ => none

/-- A record becomes BAD: logged in ERRLOG_13, latched on PF vector 7 (R691, R713). [log 96 DEDUCED] -/
def State.slotBad (s : State) (n : Nat) : State :=
  ((s.setSlot n { s.slot n with state := .bad }).logErr 13 .shed 0xFF .contained .sramUce n).raisePf .shed

/-- What a use asks of a slot (Table 20.4). -/
structure SlotUse where
  usage : BitVec 5 → Bool
  mask : Nat
  length : Option Nat

def useProve : SlotUse := { usage := fun u => u.getLsbD 4, mask := 3, length := none }

def useFabric : SlotUse := { usage := fun u => u.getLsbD 3, mask := 5, length := some 32 }

/-- Steps 2 to 6 of R687 for a tenant slot. A record is checked with the PUF root: before its first regeneration the
command ends with TARGET_RESET, and after a failed one every check fails without a change (R715). -/
def State.checkSlot (s : State) (n : Nat) (u : SlotUse) : Except Status Bytes × State :=
  let r := s.slot n
  match r.state with
  | .empty => (.error .notPermitted, s)
  | .bad => (.error .keySlotBad, s)
  | .valid =>
    if s.shed.pufRoot.isNone then (.error (if s.shed.pufFail then .keySlotBad else .targetReset), s)
    else match s.slotKey n r with
      | none => (.error .keySlotBad, s.slotBad n)
      | some k =>
        if !u.usage r.usage then (.error .keyUsage, s)
        else if !r.mask.getLsbD u.mask then (.error .keyDest, s)
        else if u.length.any (· != r.length) then (.error .keyUsage, s)
        else (.ok k, s)

/-- A caller's right to use a slot (Table 20.5); `prove` for PROVE and ATTEST_REPORT. [log 61 DEDUCED] -/
def State.mayUseSlot (s : State) (src : Source) (n : Nat) : Bool :=
  match src with
  | .part p _ => decide (16 ≤ n) && (s.slot n).state != .empty && (s.slot n).owner == p
  | .cp _ => decide (16 ≤ n) && !(s.slot n).origin && !s.isCold (s.slot n).owner
  | .mgmt _ => false

/-- The check of R687 on a use, slot 0 serving PROVE and ATTEST_REPORT of a C caller. -/
def State.useSlot (s : State) (src : Source) (n : Nat) (u : SlotUse) (prove : Bool) : Except Status Bytes × State :=
  if prove && n = 0 && (srcPart src).isNone then
    match s.deviceProve with
    | some k => (.ok k, s)
    | none => (.error (if s.shed.pufFail then .notPermitted else .targetReset), s)
  else if !s.mayUseSlot src n then (.error .notPermitted, s)
  else s.checkSlot n u

/-- The attestation slot's key of a partition, for tickets, reports and release records (R725, Table 11.2). -/
def State.attestKey (s : State) (p : Fin 64) : Except Status Bytes × State :=
  match s.partition? p with
  | none => (.error .notPermitted, s)
  | some r => s.checkSlot r.slot useProve

/-- Write a VALID record into a slot: wrapped, tagged, its generation one up (R693, R695). -/
def State.storeKey (s : State) (n : Nat) (owner : Fin 64) (usage mask len : Nat) (origin : Bool) (key : Bytes) : State :=
  match s.slotIntegrity, s.slotKek with
  | some k, some kek =>
    let r : SlotRec :=
      { state := .valid, owner := owner, usage := BitVec.ofNat 5 usage, mask := BitVec.ofNat 8 mask, length := len, origin := origin
        generation := (s.slot n).generation + 1, brootGen := s.shed.brootGen, wrapped := aesWrap kek (fit 48 key) }
    s.setSlot n { r with tag := slotTag k n r }
  | _, _ => s

/-- An EMPTY record; the count of writes stays. -/
def State.eraseSlot (s : State) (n : Nat) : State := s.setSlot n { ({} : SlotRec) with generation := (s.slot n).generation }

/-- A battery root is held and no tamper condition holds (R693, R710). -/
def State.keysOpen (s : State) : Bool := s.shed.batteryRoot.isSome && s.shed.conditions.isEmpty

/-- Slots of ORIGIN 1 that a partition owns. -/
def State.derivedSlots (s : State) (p : Fin 64) : Nat :=
  (List.filter (fun (y : Nat × SlotRec) => y.2.state != .empty && y.2.origin && y.2.owner == p) s.shed.slots).length

/-- A slot that KEY_ERASE leaves alone: bound as an attestation slot, or the fabric key in force (R696). -/
def State.slotBound (s : State) (n : Nat) : Bool :=
  List.any s.part.parts (fun (y : Nat × Partition) => y.2.slot == n) || (s.spetar.encMode && s.spetar.encSlot == n)

/-- What a new key's destination answers: VALID or a device slot NOT_PERMITTED, BAD KEY_SLOT_BAD (R714); without a root
NOT_PERMITTED, before the PUF root TARGET_RESET. -/
def State.keyDest (s : State) (n : Nat) : Option Status :=
  if n < 16 then some .notPermitted
  else match (s.slot n).state with
    | .valid => some .notPermitted
    | .bad => some .keySlotBad
    | .empty =>
      if !s.keysOpen then some .notPermitted
      else if s.shed.pufRoot.isNone then some (if s.shed.pufFail then .keySlotBad else .targetReset)
      else none

/-! ### Key commands in progress (R693, R695, R696, R706) -/

/-- A KEY_WRITE or KEY_DERIVE ends: its destination answers as it then stands, or takes the record. [log 152 DEDUCED] -/
def State.endKeyStore (s : State) (src : Source) (id n : Nat) (owner : Fin 64) (usage mask len : Nat) (origin : Bool) (key : Bytes) : State :=
  match s.keyDest n with
  | some st => s.complete src id st []
  | none =>
    if origin && decide (8 ≤ s.derivedSlots owner) then s.complete src id .range (rejectResults .range 0)
    else (s.storeKey n owner usage mask len origin key).complete src id .ok []

/-- A KEY_ERASE ends. [log 152 DEDUCED] -/
def State.endKeyErase (s : State) (src : Source) (id n : Nat) : State :=
  if s.slotBound n then s.complete src id .notPermitted [] else (s.eraseSlot n).complete src id .ok []

/-- Key commands in progress when a tamper event acts end with KEY_SLOT_BAD (R706); their destinations are as the event leaves them. -/
def State.endKeys (s : State) : State :=
  s.completeWork (fun w => match w with
    | .keyStore _ _ _ _ _ _ _ => some (.keySlotBad, [])
    | .keyErase _ => some (.keySlotBad, [])
    | _ => none)

end Sys2Proof.Machine
end

