-- ==== Sys2Proof/Machine/Trellis.lean ====
section
/-!
DEFINITION. The Trellis: forming, sums in chunks with credits, and their failure (ch. 15); SEAL, whose sum it
carries (R367 to R371).
-/

namespace Sys2Proof.Machine
open Sys2Proof

/-! ### Operations (R508, R509) -/

/-- The value field of a MAX_IDX or MIN_IDX record, read in its format. -/
def idxValue (fmt v : Nat) : Num :=
  let x := v / 2 ^ 32 % 2 ^ 32
  if fmt = 0 then FloatFmt.fp32.decode x else if fmt = 1 then .ofInt (signed 32 x) 0 else .fin false x 0

/-- The winner of two index records: on the value, then the lower index. -/
def idxPick (isMax : Bool) (fmt a b : Nat) : Nat :=
  let x := idxValue fmt a
  let y := idxValue fmt b
  if y.beats isMax x then b
  else if x.beats isMax y then a
  else if b % 2 ^ 32 < a % 2 ^ 32 then b else a

end Sys2Proof.Machine

namespace Sys2Proof
open Sys2Proof.Machine

def TrellisOp.width : TrellisOp → Nat
  | .modsum c p => ((modulusOf c p).map Modulus.width).getD 8
  | .or => 8
  | .fp32Sum => 4
  | .maxIdx _ => 8
  | .minIdx _ => 8

/-- ⊕ of Table 15.2 on two elements, and clamps made. -/
def TrellisOp.combine (op : TrellisOp) (a b : Nat) : Nat × Nat :=
  match op with
  | .modsum c p => (match modulusOf c p with
    | some m => (bedAdd m a b, 0)
    | none => (a, 0))
  | .or => (a ||| b, 0)
  | .fp32Sum => (let (v, k) := fp32Add a b; (v, b2n k))
  | .maxIdx f => (idxPick true f a b, 0)
  | .minIdx f => (idxPick false f a b, 0)

/-- The operation on element `i`: the contributor counts after the residues of a seal sum add modulo 2^32 (Table 15.3). -/
def ReduceDesc.opAt (d : ReduceDesc) (i : Nat) : TrellisOp := if i < d.count then d.op else .modsum 1 0

/-- Elements of the operation's own width in a chunk of 64 KiB (R511). -/
def ReduceDesc.perChunk (d : ReduceDesc) : Nat := 65536 / d.op.width

/-- The chunk of a seal sum in which its contributor counts begin, and the counts of 4 bytes that it has room for (R511, Table 15.3). -/
def ReduceDesc.turn (d : ReduceDesc) : Nat × Nat :=
  (d.count / d.perChunk, (65536 - d.count % d.perChunk * d.op.width) / 4)

/-- The element with which chunk `i` begins: 64 KiB of element bytes in every chunk, and no element in two (R511). -/
def ReduceDesc.chunkStart (d : ReduceDesc) (i : Nat) : Nat :=
  if i ≤ d.turn.1 then i * d.perChunk else d.count + d.turn.2 + (i - d.turn.1 - 1) * 16384

/-- Chunks of a sum of `n` elements. -/
def ReduceDesc.chunksOf (d : ReduceDesc) (n : Nat) : Nat :=
  if n ≤ d.count then ceilDiv n d.perChunk else d.turn.1 + 1 + ceilDiv (n - d.count - d.turn.2) 16384

/-- A source element as it enters: MODSUM takes its value modulo M. -/
def TrellisOp.enter (op : TrellisOp) (v : Nat) : Nat :=
  match op with
  | .modsum c p => v % ((modulusOf c p).map Modulus.value).getD (2 ^ 64)
  | _ => v

end Sys2Proof

namespace Sys2Proof.Machine
open Sys2Proof

/-- Fold two chunks that begin at element `i`. -/
def foldPair (d : ReduceDesc) : Nat → List Nat → List Nat → List Nat × Nat
  | i, a :: s, b :: t =>
    let (v, k) := (d.opAt i).combine a b
    let (r, n) := foldPair d (i + 1) s t
    (v :: r, k + n)
  | _, s, [] => (s, 0)
  | _, [], _ => ([], 0)

/-- own ⊕ V(c_1) ⊕ … ⊕ V(c_j) from the left (R507). -/
def foldChunks (d : ReduceDesc) (i : Nat) (own : List Nat) : List (List Nat) → List Nat × Nat
  | [] => (own, 0)
  | c :: t =>
    let (v, k) := foldPair d i own c
    let (r, n) := foldChunks d i v t
    (r, k + n)

/-! ### Sums -/

def State.sum? (s : State) (k : Nat) (key : SumKey) : Option Sum := (s.formed? k).bind (fun f => f.sums.find? (fun x => x.key == key))

def State.modSum (s : State) (k : Nat) (key : SumKey) (g : Sum → Sum) : State :=
  match s.formed? k with
  | some f => s.setFormed k { f with sums := f.sums.map (fun x => if x.key == key then g x else x) }
  | none => s

def State.dropSum (s : State) (k : Nat) (key : SumKey) : State :=
  match s.formed? k with
  | some f => s.setFormed k { f with sums := f.sums.filter (fun x => x.key != key) }
  | none => s

def Sum.chunks (x : Sum) : Nat := x.desc.chunksOf x.own.length

def Sum.ownChunk (x : Sum) (i : Nat) : List Nat := window x.own (x.desc.chunkStart i) (x.desc.chunkStart (i + 1) - x.desc.chunkStart i)

/-- The reduces of a Trellis run one at a time; a seal sum runs beside them (R512). -/
def Formed.active (f : Formed) (key : SumKey) : Bool :=
  match key with
  | .seal _ _ => true
  | .reduce n => !f.sums.any (fun x => match x.key with
    | .reduce k => decide (k < n)
    | .seal _ _ => false)

/-- The round a sum seals. -/
def State.sealRound (s : State) (k : Nat) : SumKey → Option Round
  | .seal id _ => (s.roundEntry (Fin.ofNat 64 (k / 256)) id.toNat).bind s.round?
  | .reduce _ => none

/-- Send a Trellis message of a sum; a substitute stands for a participant of a sealing round (R630). -/
def State.sendTrellis (s : State) (k : Nat) (key : SumKey) (d : Nat) (m : RoundMsg) : State :=
  s.sendMsg (((s.sealRound k key).map (fun r => Tab.get r.replaced d d)).getD d) (.message m)

/-- The node of the tree a sum's message comes from. -/
def State.sumOrigin (s : State) (k : Nat) (key : SumKey) (origin : Nat) : Nat :=
  (((s.sealRound k key).map (fun r => (r.origin origin).getD 512))).getD origin

/-- Grant credit for chunks to every child. -/
def State.grantCredit (s : State) (k : Nat) (key : SumKey) (targets : List Nat) (n : Nat) : State :=
  targets.foldl (fun s c => s.sendTrellis k key c (.credit (s.treeOf k) key n)) s

/-! ### SEAL's result (R369, R370) -/

/-- Cut a list of residues into the strips of a segment. -/
def stripsFrom (m : Modulus) (v : List Nat) : Tab (List Nat) :=
  let ps := pieces m.strip v
  List.zip (List.range ps.length) ps

/-- Put a sum into replica 0 of each segment in turn, and the counts that follow into the contributor counts. -/
def installSum (m : Modulus) : List Segment → List Nat → List Segment × List Nat
  | [], v => ([], v)
  | g :: t, v =>
    let (r, rest) := installSum m t (v.drop g.len)
    ({ g with replicas := Tab.insert g.replicas 0 (stripsFrom m (v.take g.len)) } :: r, rest)

/-- SEAL completes: the round becomes SEALED, the class 7 lease goes; then it takes the holder's state, where that came first (R384). -/
def State.sealDone (s : State) (e : Nat) : State :=
  match s.round? e with
  | none => s
  | some r =>
    let s := (s.changeRound e .sealed).dropLease 7 e
    let s := s.completeWork (fun w => match w with
      | .seal x => if x = e then some (.ok, [r.segs.length, s.tokenFid r, r.tokenEpoch.toNat]) else none
      | _ => none)
    match r.ahead with
    | none => s
    | some closed =>
      let s := s.changeRound e .released
      if closed then s.closeRound e else s

/-- The result of a fabric seal sum is taken. -/
def State.takeSeal (s : State) (e : Nat) (vals : List Nat) : State :=
  match s.round? e with
  | none => s
  | some r =>
    let (segs, counts) := installSum (r.modulus.getD .m16) r.segs vals
    (s.setRound e { r with segs := segs.mapIdx (fun i g => { g with contributors := counts.getD i g.contributors }) }).sealDone e

/-- The result of a fabric seal sum is here whole; a primary forwards it first (R625). -/
def State.installSeal (s : State) (k : Nat) (id : W32) (epoch : W16) (vals : List Nat) : State :=
  match s.roundEntry (Fin.ofNat 64 (k / 256)) id.toNat with
  | none => s
  | some e => s.onMessage e s.ownFid (.sumDown (s.treeOf k) (.seal id epoch) 0 vals 0) (fun _ => s.takeSeal e vals)

/-- Bytes of result elements. -/
def elemBytes (w : Nat) (l : List Nat) : Bytes := l.flatMap (leBytes w)

def clampResults (x : Sum) : List W32 :=
  match x.desc.op with
  | .fp32Sum => [w32 x.clamps]
  | _ => []

/-- The whole result of a sum. -/
def Sum.whole (x : Sum) : List Nat := (List.range x.chunks).flatMap (fun i => Tab.get x.result [] i)

/-- A sum that holds every result chunk is done here; the next reduce of the Trellis may then start. -/
def State.finishSum (s : State) (k : Nat) (key : SumKey) : State :=
  match s.sum? k key with
  | none => s
  | some x =>
    if x.result.length < x.chunks then s
    else
      let s := s.dropSum k key
      match key with
      | .seal id ep => s.installSeal k id ep x.whole
      | .reduce _ => s.complete x.src x.cmd .ok (clampResults x)

/-- A result chunk: kept, written to the destination, passed down (R511). -/
def State.takeResult (s : State) (k : Nat) (key : SumKey) (i : Nat) (vals : List Nat) (clamps : Nat) : State :=
  match s.sum? k key with
  | some x =>
    let s := s.modSum k key (fun x => { x with result := Tab.insert x.result i vals, clamps := x.clamps + clamps })
    let s := match key with
      | .reduce _ => (s.writeRange x.pages (x.dst + 65536 * i) (elemBytes x.desc.op.width vals)).progressSrc x.src (if i % 16 = 15 then 1 else 0)
      | .seal _ _ => s
    let s := (treeChildren x.members x.self).foldl (fun s c => s.sendTrellis k key c (.sumDown (s.treeOf k) key i vals clamps)) s
    s.finishSum k key
  | none => s

/-- Form the next chunk of V where own chunk, every child's and the credit are in hand, and send it up, or at the root make
it a result (R511). -/
def State.formChunk (s : State) (k : Nat) (key : SumKey) : Option State :=
  match s.sum? k key with
  | some x =>
    let i := x.sentUp
    let cs := treeChildren x.members x.self
    let have_ := cs.filterMap (fun c => Tab.find? (Tab.get x.children [] c) i)
    let parent := treeParent x.members x.self
    if !x.started || x.chunks ≤ i || have_.length != cs.length || (parent.isSome && x.credits = 0) then none
    else
      let (v, n) := foldChunks x.desc (x.desc.chunkStart i) (x.ownChunk i) have_
      let n := n + Tab.get x.childClamps 0 i
      let s := s.modSum k key (fun x => { x with sentUp := i + 1, credits := x.credits - 1 })
      let s := s.grantCredit k key cs 1
      match parent with
      | some p => some (s.sendTrellis k key p (.sumUp (s.treeOf k) key x.desc i v n))
      | none => some (s.takeResult k key i v n)
  | none => none

def State.runSumAux (s : State) (k : Nat) (key : SumKey) : Nat → State
  | 0 => s
  | fuel + 1 => match s.formChunk k key with
    | some s' => s'.runSumAux k key fuel
    | none => s

def State.runSum (s : State) (k : Nat) (key : SumKey) : State :=
  s.runSumAux k key (((s.sum? k key).map Sum.chunks).getD 0)

/-- Start the sums of a Trellis that may run: credit for 4 chunks to each child (R511, R512, R514). -/
def State.startSumsAux (s : State) (k : Nat) : Nat → State
  | 0 => s
  | fuel + 1 =>
    match s.formed? k with
    | none => s
    | some f =>
      match f.sums.find? (fun x => !x.started && f.active x.key) with
      | none => s
      | some x =>
        let s := s.modSum k x.key (fun x => { x with started := true })
        let s := s.grantCredit k x.key (treeChildren x.members x.self) 4
        (s.runSum k x.key).startSumsAux k fuel

def State.startSums (s : State) (k : Nat) : State := s.startSumsAux k (((s.formed? k).map (·.sums.length)).getD 0)

/-! ### Failure (R510, R522, R523, R358) -/

/-- End a sum on this device: a reduce completes with the status, a seal aborts its round. -/
def State.endSum (s : State) (k : Nat) (x : Sum) (st : Status) : State :=
  let s := s.dropSum k x.key
  let s := match x.key with
    | .reduce _ => s.complete x.src x.cmd st []
    | .seal id _ => (match s.roundEntry (Fin.ofNat 64 (k / 256)) id.toNat with
      | some e => s.abortRound e (if st = Status.poisoned || st = Status.eccUncorrectable then st else .aborted) true
      | none => s)
  s.startSums k

/-- A sum fails: the mark goes to every tree neighbour but the one it came from, and the sum ends. -/
def State.failSum (s : State) (k : Nat) (key : SumKey) (st : Status) (but : Option Nat) : State :=
  match s.sum? k key with
  | some x =>
    let nbrs := (treePeers x.members x.self).filter (fun n => some n != but)
    let s := nbrs.foldl (fun s n => s.sendTrellis k key n (.sumFail (s.treeOf k) key st.code)) s
    s.endSum k x st
  | none => s

/-- Device `d` is gone from Trellis `k`: every sum not yet complete that has it as a tree neighbour, in a substituted place too (R630), ends with
REMOTE_UNREACHABLE (R519, R522), and every round from REVEALING on that it takes part in aborts (R358). -/
def State.neighbourGone (s : State) (k d : Nat) : State :=
  let old := Tab.get s.trellis.gone [] k
  let s := { s with trellis := { s.trellis with gone := Tab.insert s.trellis.gone k (insertNat d old) } }
  let hit := (((s.formed? k).map (·.sums)).getD []).filter (fun x => (treePeers x.members x.self).contains (s.sumOrigin k x.key d))
  let s := hit.foldl (fun s x => s.failSum k x.key .remoteUnreachable (some (s.sumOrigin k x.key d))) s
  let lost := List.filterMap (fun (y : Nat × Round) =>
    let r := y.2
    if r.policy.fabric && !r.shadow && tkey r.part r.policy.trellis == k && r.state.late && (r.origin d).any r.live.contains then some y.1 else none) s.rounds.table
  lost.foldl (fun s e => s.abortRound e .aborted true) s

/-- Take part in a sum, with the credits that came for it: a mark already here ends it at once, else it starts in its turn. -/
def State.joinSum (s : State) (k : Nat) (x : Sum) : State :=
  match s.formed? k with
  | none => s
  | some f =>
    let had := (f.early.filter (fun y => y.1 == x.key)).foldl (fun n y => n + y.2) 0
    let s := s.setFormed k { f with
      sums := f.sums ++ [{ x with credits := x.credits + had }], early := f.early.filter (fun y => y.1 != x.key) }
    match f.marks.find? (fun m => m.1 == x.key) with
    | some (_, st) => s.failSum k x.key (Status.ofCode st) none
    | none => s.startSums k

/-! ### Chunks, credits and marks arriving -/

/-- A sum not yet executed here: a reduce whose number is still to come, the seal sum of a round not yet SEALED. -/
def State.sumAhead (s : State) (k : Nat) (f : Formed) (key : SumKey) : Bool :=
  match key with
  | .reduce n => decide (f.nextReduce ≤ n)
  | .seal _ _ => !(s.sealRound k key).any (fun r => decide (5 ≤ r.state.rank))

/-- A failure mark: the sum fails, or the mark is kept where it has not been executed here. -/
def State.markSum (s : State) (k : Nat) (key : SumKey) (st : Status) (but : Option Nat) : State :=
  match s.sum? k key, s.formed? k with
  | some _, _ => s.failSum k key st but
  | none, some f => if s.sumAhead k f key then s.setFormed k { f with marks := f.marks ++ [(key, st.code)] } else s
  | none, none => s

/-- A message with another list's digest is refused and counted, and the reduce it belongs to fails (R510, R515). -/
def State.refuseTrellis (s : State) (k : Nat) (key : Option SumKey) : State :=
  let s := { s with trellis := { s.trellis with refused := satAdd32 s.trellis.refused 1 } }
  match key with
  | some (.reduce n) => s.markSum k (.reduce n) .badParam none
  | _ => s

/-- A Trellis message is taken, refused for its list's digest (R515), or answered with its Trellis's dissolution (R518). -/
def State.onTree (s : State) (origin : Nat) (x : TreeId) (key : Option SumKey) (act : State → State) : State :=
  let k := treeKey x
  if s.trellis.dissolved.contains k then s.sendMsg origin (.message (.dissolved x))
  else if (s.formed? k).any (fun (f : Formed) => f.crc != x.crc) then s.refuseTrellis k key
  else act s

/-- A chunk of V(child) arrives. -/
def State.sumUp (s : State) (k origin : Nat) (key : SumKey) (d : ReduceDesc) (i : Nat) (vals : List Nat) (clamps : Nat) : State :=
  let origin := s.sumOrigin k key origin
  match s.sum? k key with
  | none => s
  | some x =>
    if x.desc != d then s.failSum k key .badParam none
    else if !(treeChildren x.members x.self).contains origin || (Tab.find? (Tab.get x.children [] origin) i).isSome then s
    else
      (s.modSum k key (fun x => { x with
        children := Tab.insert x.children origin (Tab.insert (Tab.get x.children [] origin) i vals)
        childClamps := Tab.insert x.childClamps i (Tab.get x.childClamps 0 i + clamps) })).runSum k key |>.startSums k

/-- A result chunk arrives from the parent. -/
def State.sumDown (s : State) (k origin : Nat) (key : SumKey) (i : Nat) (vals : List Nat) (clamps : Nat) : State :=
  let origin := s.sumOrigin k key origin
  match s.sum? k key with
  | none => s
  | some x =>
    if treeParent x.members x.self != some origin || (Tab.find? x.result i).isSome then s
    else (s.takeResult k key i vals clamps).startSums k

/-- A failure mark arrives. -/
def State.sumFail (s : State) (k origin : Nat) (key : SumKey) (st : Nat) : State :=
  s.markSum k key (Status.ofCode st) (some (s.sumOrigin k key origin))

/-- A credit grant arrives; kept where the sum has not been executed here. -/
def State.sumCredit (s : State) (k : Nat) (key : SumKey) (n : Nat) : State :=
  match s.sum? k key, s.formed? k with
  | some _, _ => (s.modSum k key (fun x => { x with credits := x.credits + n })).runSum k key |>.startSums k
  | none, some f => if s.sumAhead k f key then s.setFormed k { f with early := f.early ++ [(key, n)] } else s
  | none, none => s

/-! ### TRELLIS_FORM -/

def specTrellisForm : OpSpec :=
  { code := 0x0507, callP := true, used := [0, 1, 2, 3],
    checks := [.mask 0 0xFF, .word 1 .range (fun v => v == 0 || v > 512), .addr 2 1, .range48 2 [1] (fun w => 2 * w 1)] }

def State.reducesOf (s : State) (k : Nat) : List Sum :=
  ((s.formed? k).map (fun f => f.sums.filter (fun x => match x.key with
    | .reduce _ => true
    | .seal _ _ => false))).getD []

/-- TRELLIS_FORM records the list and answers the depth of its tree (R502, R503). -/
def bodyTrellisForm : Body := fun c s =>
  match srcPart c.src with
  | none => fail .notPermitted s
  | some p =>
    let n := 2 * c.w 1
    c.claim s 2 (pair c.w 2) n false (fun ps s =>
      c.read s ps (pair c.w 2) n (fun b s =>
        let l := residues 2 b
        let k := tkey p (bits (c.w 0) 7 0)
        let mine := List.filter (fun (y : Nat × Formed) => decide (y.1 / 256 = p.val)) s.trellis.formed
        if !rising l || l.any (fun f => decide (512 ≤ f)) || !(s.spetar.fid.any l.contains) then failAt .badParam 2 s
        else if (s.formed? k).isSome then
          if !(s.roundsOnTrellis p.val (k % 256)).isEmpty then fail .notPermitted s
          else
            let s := (s.reducesOf k).foldl (fun s x => s.complete x.src x.cmd .aborted []) s
            okRes [treeDepth l] (s.setFormed k { list := l, crc := crc32 b })
        else if 16 ≤ mine.length || 256 ≤ s.trellis.formed.length then failAt .range 0 s
        else
          let s := s.setFormed k { list := l, crc := crc32 b }
          okRes [treeDepth l] { s with trellis := { s.trellis with dissolved := s.trellis.dissolved.filter (· != k) } }))

def execTrellisForm (src : Source) (pkt : Packet) (s : State) : Host.Outcome State Fault Refusal :=
  runRow specTrellisForm bodyTrellisForm src pkt s

/-! ### TRELLIS_REDUCE -/

def reduceOp (w : Params) : TrellisOp :=
  match bits (w 0) 11 8 with
  | 0 => .modsum (bits (w 0) 14 12) (w 1)
  | 1 => .or
  | 2 => .fp32Sum
  | 3 => .maxIdx (bits (w 0) 17 16)
  | _ => .minIdx (bits (w 0) 17 16)

def specTrellisReduce : OpSpec :=
  { code := 0x0508, callP := true, used := List.range 8,
    checks := [.mask 0 0x37FFF, .word 0 .badParam (fun v => bits v 11 8 > 4), .word 0 .badParam (fun v => bits v 14 12 > 4),
      .word 0 .badParam (fun v => bits v 11 8 != 0 && bits v 14 12 != 0),
      .word 0 .badParam (fun v => bits v 17 16 == 3 || (bits v 17 16 != 0 && bits v 11 8 < 3)),
      .unusedUnless 1 [0] (fun w => bits (w 0) 11 8 == 0 && bits (w 0) 14 12 == 4),
      { words := [0, 1], name := 1, status := .range, fails := fun w => bits (w 0) 11 8 == 0 && bits (w 0) 14 12 == 4 && !goodPrime (w 1) },
      .word 2 .range (fun v => v == 0 || v > 2 ^ 28), .addr 4 1, .addr 6 1,
      .range48 4 [0, 1, 2] (fun w => w 2 * (reduceOp w).width), .range48 6 [0, 1, 2] (fun w => w 2 * (reduceOp w).width)] }

/-- TRELLIS_REDUCE: reduce n of its Trellis; a source read that meets bad data sends the mark (R510, R511, R523). -/
def bodyTrellisReduce : Body := fun c s =>
  match srcPart c.src with
  | none => fail .notPermitted s
  | some p =>
    let k := tkey p (bits (c.w 0) 7 0)
    match s.formed? k with
    | none => failAt .badParam 0 s
    | some f0 =>
      if decide (1 < f0.list.length) && !s.maySendAny then fail .linkDown s else
      let op := reduceOp c.w
      let n := c.w 2 * op.width
      c.claim s 4 (pair c.w 4) n false (fun sp s =>
        c.claim s 6 (pair c.w 6) n true (fun dp s =>
          match s.formed? k with
          | none => failAt .badParam 0 s
          | some f =>
            let i := f.nextReduce
            let s := s.setFormed k { f with nextReduce := i + 1 }
            let blank : Sum :=
              { key := .reduce i, desc := { op := op, count := c.w 2 }, src := c.src, cmd := c.id, self := s.ownFid, own := [], members := f.list
                pages := dp, dst := pair c.w 6 }
            let s := s.modCmd c.src c.id (fun d => { d with phase := .executing (.trellis k i) })
            match s.readRange (srcPartByte c.src) sp (pair c.w 4) n with
            | (.error st, s) => (.run (.trellis k i), (s.joinSum k blank).failSum k (.reduce i) st none)
            | (.ok b, s) => (.run (.trellis k i), s.joinSum k { blank with own := (residues op.width b).map op.enter })))

def execTrellisReduce (src : Source) (pkt : Packet) (s : State) : Host.Outcome State Fault Refusal :=
  runRow specTrellisReduce bodyTrellisReduce src pkt s

end Sys2Proof.Machine
end

