-- ==== Sys2Proof/Machine/RoundCmds.lean ====
section
/-!
DEFINITION. Round commands up to the deadline, ROUND_ABORT and PLACEMENT_REVISE (ch. 1, ch. 5, ch. 7, ch. 8), UNMASK (ch. 9)
and SEAL (ch. 11).
-/

namespace Sys2Proof.Machine
open Sys2Proof

/-! ### The round a command names (R15, R180, R623) -/

def State.shadowEntry (s : State) (p : Fin 64) (id : Nat) : Option Nat :=
  List.findSome? (fun (y : Nat × Round) => if y.2.part = p && y.2.id.toNat = id && y.2.shadow then some y.1 else none) s.rounds.table

/-- The cause of an abort of round P0 that came while this command waited, with the counts a HARVEST returns (R53, R187). -/
def Ctx.aborted (c : Ctx) (s : State) : Option (Status × List Nat) :=
  ((s.cmd? c.src c.id).bind (fun (d : Cmd) => d.aborts.find? (fun y => y.1.toNat == c.w 0))).map (·.2)

/-- A command that waited when its round became ABORTED ends with the cause, and with no result but a HARVEST's counts. -/
def Ctx.unlessAborted (c : Ctx) (s : State) (counts : Bool) (k : Unit → BodyOut × State) : BodyOut × State :=
  match c.aborted s with
  | some (st, res) => (.done st (if counts then res.map w32 else []), s)
  | none => k ()

/-- The round P0 names, in a state that Table 1.2 allows the command. -/
def Ctx.round (c : Ctx) (s : State) (ok : RoundState → Bool) (k : Nat → Round → BodyOut × State) : BodyOut × State :=
  match srcPart c.src with
  | none => fail .notPermitted s
  | some p =>
    let e? := if c.shadow then s.shadowEntry p (c.w 0) else s.roundEntry p (c.w 0)
    if !c.shadow && (s.shadowEntry p (c.w 0)).isSome then fail .notPermitted s
    else match e? with
      | none => failAt .badParam 0 s
      | some e => match s.round? e with
        | none => failAt .badParam 0 s
        | some r => if ok r.state then k e r else fail .notPermitted s

/-! ### ROUND_OPEN (Table 5.8, R16 to R21, R299, R300, R366, R725) -/

def outside (lo hi v : Nat) : Bool := v != 0 && (decide (v < lo) || decide (hi < v))

def specRoundOpen : OpSpec :=
  { code := 0x0200, big := true, callP := true, used := [0, 1, 2, 3, 4, 5, 6, 7, 8, 9, 10, 12, 13],
    checks := [.mask 1 0x7, .word 4 .range (fun v => v < 100), .word 6 .badParam (fun v => v == 0),
      { words := [1, 5], name := 5, status := .range, fails := fun w => bit (w 1) 2 && w 5 == 0 },
      .word 7 .range (fun v => bits v 31 16 < 2 || bits v 15 0 < bits v 31 16 || bits v 15 0 > 256),
      .mask 8 0xFF, .unusedUnless 8 [1] (fun w => bit (w 1) 0), .word 9 .range (outside 1000 60000),
      .word 10 .range (outside 500 10000), .addr 12 64, .range48 12 [] (fun _ => 1024)] }

/-- The policy that ROUND_OPEN's words fix, with the partition's cipher (R299). -/
def openPolicy (w : Params) (cipher : Nat) : RoundPolicy :=
  { fabric := bit (w 1) 0, coded := bit (w 1) 1, noiseRequired := bit (w 1) 2, deadline := pair w 2, floor := w 4, sigmaNum := w 5
    sigmaDen := w 6, shares := bits (w 7) 15 0, threshold := bits (w 7) 31 16, trellis := w 8
    harvestGraceUs := if w 9 = 0 then 5000 else w 9, deviceGraceUs := if w 10 = 0 then 2000 else w 10
    cipher := if cipher = 0 then .chacha20 else .aes256ctr }

/-- Two rounds whose tickets promise the same (R21, R300). -/
def samePolicy (a b : RoundPolicy) : Bool := { a with trellis := 0 } == { b with trellis := 0 }

/-- The policy as a list, for the message to the leader. -/
def RoundPolicy.words (r : RoundPolicy) : List Nat :=
  [b2n r.fabric + 2 * b2n r.coded + 4 * b2n r.noiseRequired, r.deadline, r.floor, r.sigmaNum, r.sigmaDen, r.shares, r.threshold,
   r.harvestGraceUs, r.deviceGraceUs]

/-- The parameter word of the first value in which two policies differ (R21, R170); word 0 where only the ciphers do. -/
def policyWord (a b : List Nat) : Nat :=
  ((List.zip (List.zip a b) [1, 2, 4, 5, 6, 7, 7, 9, 10]).findSome? (fun (x, n) => if x.1 != x.2 then some n else none)).getD 0

def Cipher.code : Cipher → Nat
  | .chacha20 => 0
  | .aes256ctr => 1

/-- a ÷ b below c ÷ d. -/
def sigmaBelow (a b c d : Nat) : Bool := decide (a * d < c * b)

/-- The checks of Table 5.8 at stage 4 before the ticket range (word, status). A shadow's Trellis is the primary's. [log 50 DEDUCED] -/
def State.openFails (s : State) (p : Fin 64) (q : Partition) (shadow : Bool) (w : Params) : Option (Status × Nat) :=
  if (s.roundEntry p (w 0)).isSome || (s.shadowEntry p (w 0)).isSome then some (.badParam, 0)
  else if q.policy.noiseRequired && !bit (w 1) 2 then some (.range, 1)
  else if pair w 2 < s.now + 1000000 || s.now + 2 ^ 48 < pair w 2 then some (.range, 2)
  else if w 4 < q.policy.floor then some (.range, 4)
  else if sigmaBelow (w 5) (w 6) q.policy.sigmaNum q.policy.sigmaDen then some (.range, 5)
  else if !shadow && bit (w 1) 0 && !(((s.formed? (tkey p (w 8))).map (fun f => s.spetar.fid.any f.list.contains)).getD false) then some (.badParam, 8)
  else none

/-- The participants of a round: its Trellis, or the device alone. -/
def State.openMembers (s : State) (p : Fin 64) (r : RoundPolicy) : List Nat :=
  if r.fabric then ((s.formed? (tkey p r.trellis)).map (·.list)).getD [] else [s.ownFid]

/-- The lowest entry, position or chunk supply a new round lacks (R17). -/
def State.roomForRound (s : State) (p : Fin 64) : Option (Nat × Nat) :=
  let mine := s.roundsOf p
  if 16 ≤ mine.length || 1024 ≤ s.rounds.table.length then none
  else
    let pos := mine.filterMap (fun e => (s.round? e).map (·.position))
    some (Tab.free s.rounds.table, lowestFree pos 16 0)

/-- SHA-384 of an image's bytes; zeros where none is in force. -/
def fwDigest (f : FwInForce) : Bytes := fit 48 f.digest

/-- FABRIC_ID of Table 21.2: [15] FID_VALID, [8:0] fabric ID. -/
def State.fidField (s : State) : Nat := (s.spetar.fid.map (fun f => 2 ^ 15 + f)).getD 0

/-- Bytes 0x000 to 0x0FF of the ticket (Table 21.3). -/
def State.ticketBody (s : State) (r : Round) : Bytes :=
  let po := r.policy
  leBytes 4 0x41544B54 ++ leBytes 2 0x0001 ++ leBytes 2 304 ++ leBytes 4 r.id.toNat ++ leBytes 1 r.part.val ++
    leBytes 1 (b2n s.shed.debug) ++ leBytes 1 (b2n (s.isCold r.part)) ++
    leBytes 1 (b2n po.fabric + 2 * b2n po.coded + 4 * b2n po.noiseRequired + 8 * b2n (po.fabric && r.leader = s.ownFid)) ++
    leBytes 8 po.deadline ++ leBytes 4 po.floor ++ leBytes 4 po.sigmaNum ++ leBytes 4 po.sigmaDen ++ leBytes 2 po.shares ++
    leBytes 2 po.threshold ++ leBytes 1 po.cipher.code ++ [0] ++ leBytes 2 s.fidField ++ leBytes 4 po.harvestGraceUs ++
    leBytes 4 po.deviceGraceUs ++ leBytes 8 s.now ++ zeros 4 ++ udid ++ fit 32 r.pub ++ sha384 Config.bootRom ++
    fwDigest s.power.mgmtFw ++ fwDigest s.power.seqFw

/-- This device's partner and role epoch, if it is in a pair (R627). -/
def State.ownPartner (s : State) : Option (Nat × W16) :=
  match s.graft.state with
  | .unpaired => none
  | _ => some (s.graft.partner, s.graft.epoch)

/-- Create the round with its key: the entry, one 2 MiB allocation, the alarm, and, for a ticket, its bytes at `a`. -/
def State.openRound (s : State) (p : Fin 64) (w : Params) (cipher : Nat) (priv : Bytes) (ticket : Option (Pages × Nat × Bytes))
    (ms : List Nat) (others : List (Nat × Nat × W16)) : Option (Nat × State) :=
  match s.roomForRound p with
  | none => none
  | some (e, pos) =>
    let po := openPolicy w cipher
    let r : Round :=
      { part := p, id := w32 (w 0), state := .opened, policy := po, position := pos, priv := priv, pub := x25519Pub priv
        leader := ms.headD 0, participants := ms, tokenHolder := ms.headD 0, alarmAt := some po.deadline
        shadow := ticket.isNone, self := if ticket.isNone then some s.graft.partner else none, partners := others.foldl (fun t y => Tab.insert t y.1 y.2) [] }
    let s := { s with rounds := { s.rounds with table := Tab.insert s.rounds.table e r } }
    match s.roundAlloc e 64 with
    | none => none
    | some s' =>
      let s' := match ticket with
        | some (ps, a, key) =>
          let b := s'.ticketBody r
          s'.writeRange ps a (b ++ hmac384 key b)
        | none => s'
      let s' := s'.changeRound e .opened
      some (pos, if po.fabric && ticket.isSome then s'.sendRound e (s'.peersOf r) (.partner p.val r.id s'.ownPartner) else s')

/-- Stage 4 and 5 of ROUND_OPEN with the private key, or the leader's answer, in hand. [log 49 DEDUCED] -/
def State.openWith (s : State) (c : Ctx) (p : Fin 64) (q : Partition) (cipher : Nat) (priv : Option Bytes) (members : List Nat)
    (others : List (Nat × Nat × W16)) : BodyOut × State :=
  match s.openFails p q c.shadow c.w with
  | some (st, n) => failAt st n s
  | none =>
    if c.shadow then
      (match s.openRound p c.w cipher (priv.getD []) none members others with
       | none => failAt .range 0 s
       | some (_, s) => okRes [] s)
    else c.claim s 12 (pair c.w 12) 1024 true (fun ps s =>
      if (s.roomForRound p).isNone then failAt .range 0 s
      else match s.attestKey p with
        | (.error st, s) => fail st s
        | (.ok key, s) =>
          if !s.random.serving then fail .entropyFail s
          else
            let (k, s1) := match priv with
              | some k => (k, s)
              | none => s.draw instDevice 32
            match s1.openRound p c.w cipher k (some (ps, pair c.w 12, key)) (s.openMembers p (openPolicy c.w cipher)) others with
            | none => failAt .range 0 s
            | some (pos, s2) => okRes [304, pos] s2)

/-- ROUND_OPEN. A follower of a fabric round asks its leader for the round key and waits for the answer alone (R20, R21). -/
def bodyRoundOpen : Body := fun c s =>
  match srcPart c.src with
  | none => fail .notPermitted s
  | some p =>
    match s.partition? p with
    | none => fail .notPermitted s
    | some q =>
      if s.graft.role = .secondary && !c.shadow then fail .notPermitted s
      else match s.openFails p q c.shadow c.w with
        | some (st, n) => failAt st n s
        | none =>
          let po := openPolicy c.w q.policy.cipher
          let leader := if c.shadow then s.graft.partner else (s.openMembers p po).headD 0
          if !c.shadow && po.fabric && leader = s.ownFid && decide (1 < (s.openMembers p po).length) && !s.maySendAny then fail .linkDown s
          else if !c.shadow && (!po.fabric || leader = s.ownFid) then s.openWith c p q q.policy.cipher none [] []
          else if !c.shadow && !s.random.serving then fail .entropyFail s
          else if !s.canSend leader then fail .linkDown s
          else
            (.run (.openFollow ((List.range 14).map c.w) q.policy.cipher),
             s.sendMsg leader (.message (.openRequest p.val (w32 (c.w 0)) po.words po.cipher.code s.ownPartner)))

def execRoundOpen (src : Source) (pkt : Packet) (s : State) : Host.Outcome State Fault Refusal :=
  runRow specRoundOpen bodyRoundOpen src pkt s

/-! ### The round key between devices -/

/-- A leader answers a follower (R20, R21, R300, R627). [log 48 DEDUCED] -/
def State.answerOpen (s : State) (origin part : Nat) (id : W32) (pol : List Nat) (cipher : Nat) (partner : Option (Nat × W16)) : State :=
  let p := Fin.ofNat 64 part
  let refuse (st : Status) (n : Nat) : State := s.sendMsg origin (.message (.openRefuse part id st.code n))
  match s.roundEntry p id.toNat with
  | none => refuse .notPermitted 0
  | some e => match s.round? e with
    | none => refuse .notPermitted 0
    | some r =>
      let mirror := s.mirroring e && origin = s.graft.partner
      if r.state.isAborted || !(mirror || (r.leader = s.ownFid && r.participants.contains origin)) then refuse .notPermitted 0
      else if r.policy.words != pol || r.policy.cipher.code != cipher then refuse .badParam (policyWord r.policy.words pol)
      else
        let known := List.map (fun (y : Nat × Nat × W16) => (y.1, y.2.1, y.2.2)) r.partners ++
          (s.ownPartner.map (fun x => (s.ownFid, x.1, x.2))).toList
        let s := match partner with
          | some x => if mirror then s else s.modRound e (fun r => { r with partners := Tab.insert r.partners origin x })
          | none => s
        s.sendMsg origin (.message (.openKey part id r.priv known (if mirror then r.participants else [])))

/-- The follower's oldest command that waits for this round's key: answers come in the order of the requests. [log 49 DEDUCED] -/
def State.followers (s : State) (part : Nat) (id : W32) : List (Cmd × List Nat × Nat) :=
  s.q.cmds.filterMap (fun c => match c.phase, c.src with
    | .executing (.openFollow w k), .part p _ => if p.val = part && w.headD 0 = id.toNat then some (c, w, k) else none
    | _, _ => none)

/-- The leader's key, or its refusal, reaches the follower, whose round takes the cipher it asked for (R300, R325). [log 48 DEDUCED] -/
def State.openAnswered (s : State) (part : Nat) (id : W32) (ans : Except (Status × Nat) (Bytes × List (Nat × Nat × W16) × List Nat)) : State :=
  let p := Fin.ofNat 64 part
  ((s.followers part id).take 1).foldl (fun s (c, w, cipher) =>
    let cx : Ctx := { src := c.src, id := c.id, hdr := c.pkt.header, w := fun n => w.getD n 0, shadow := c.mirrored.isSome }
    match ans, s.partition? p with
    | .error (st, n), _ => s.complete c.src c.id st (rejectResults st n)
    | .ok _, none => s.complete c.src c.id .notPermitted []
    | .ok (k, l, ms), some q =>
      let (r, s') := s.mirrorBody c.src c.id c.pkt cx.w (fun s => s.openWith cx p q cipher (some k) ms l)
      s'.after c.src c.id r) s

/-! ### ROUND_LAYOUT (R22, R278) -/

def specRoundLayout : OpSpec :=
  { code := 0x0201, callP := true, used := [0, 1, 2, 3, 4, 5],
    checks := [.word 1 .range (fun v => v == 0 || v > 65536), .mask 2 0x7, .word 2 .badParam (fun v => v > 4),
      .unusedUnless 3 [2] (fun w => w 2 == 4), { words := [2, 3], name := 3, status := .range, fails := fun w => w 2 == 4 && !goodPrime (w 3) },
      .addr 4 4, .range48 4 [1] (fun w => 4 * w 1)] }

/-- Bytes of the accumulator arrays of a layout. -/
def layoutBytes (m : Modulus) (lens : List Nat) : Nat := lens.foldl (fun n l => n + alignUp64 (l * m.width)) 0

def bodyRoundLayout : Body := fun c s =>
  c.round s (· == .opened) (fun e r =>
    if r.modulus.isSome then fail .notPermitted s
    else match modulusOf (c.w 2) (c.w 3) with
      | none => failAt .badParam 2 s
      | some m =>
        if r.policy.coded != decide (c.w 2 = 4) then failAt .range 2 s
        else c.input s 4 (pair c.w 4) (4 * c.w 1) (fun b s =>
          let lens := residues 4 b
          if lens.any (fun l => l == 0 || decide (2 ^ 28 < l)) then failAt .range 4 s
          else match s.roundAlloc e (layoutBytes m lens) with
            | none => failAt .range 1 s
            | some s' => okRes [] (s'.modRound e (fun r => { r with modulus := some m, segs := lens.map (fun l => { len := l }) }))))

def execRoundLayout (src : Source) (pkt : Packet) (s : State) : Host.Outcome State Fault Refusal :=
  runRow specRoundLayout bodyRoundLayout src pkt s

/-! ### INGEST_BIND (R23, R24, R239, R240, R330) -/

def specIngestBind : OpSpec :=
  { code := 0x0202, callP := true, used := [0, 1, 2, 4, 5, 6, 7, 8],
    checks := [.word 1 .badParam (fun v => v % 64 != 0), .word 2 .badParam (fun v => v % 64 != 0), .word 2 .range (fun v => v < 64 || v > 2 ^ 24),
      { words := [1, 2], name := 1, status := .range, fails := fun w => w 1 + w 2 > 2 ^ 24 },
      .addr 4 8, .range48 4 [2] (fun w => w 2 / 8), .addr 6 4096, .word 8 .range (fun v => v < 12 || v > 26),
      .range48 6 [8] (fun w => 2 ^ w 8)] }

/-- The ring as INGEST_BIND finds it: settings from its control block, counts zero. -/
def State.bindRing (s : State) (c : Ctx) (p : Fin 64) (ps : Pages) (ctl : Bytes) : Ring :=
  let v := leNat (slice ctl 0 4)
  let tf := bits v 11 0
  { pages := ps.map (·.2), log2 := c.w 8, base := BitVec.ofNat 64 (pair c.w 6), base32 := s.fence (fenceKey (some p) tf), tailFence := tf
    doneFence := bits v 27 16, doneEn := bit v 31, winLo := c.w 1, winLen := c.w 2, agent := c.src }

/-- INGEST_BIND at stages 4 and 5. The overlap test sees the home maps that have come by then (R24). [log 169 DESIGN CHOICE] -/
def bodyIngestBind : Body := fun c s =>
  c.round s (· == .opened) (fun e r =>
    if r.modulus.isNone then fail .notPermitted s
    else if s.muted r then fail .linkDown s
    else c.input s 4 (pair c.w 4) (c.w 2 / 8) (fun b s =>
      c.claim s 6 (pair c.w 6) (2 ^ c.w 8) true (fun rp s =>
        c.read s rp (pair c.w 6) 64 (fun ctl s =>
          let cohort := (setBitsFrom 0 b).map (· + c.w 1)
          if cohort.length > 2 ^ 20 then failAt .range 2 s
          else if r.policy.fabric && cohort.any (fun x => List.any r.homes (fun y => y.2.contains x)) then failAt .badParam 4 s
          else match s.roundAlloc e (c.w 2 / 8) with
            | none => failAt .range 2 s
            | some s' =>
              let g := s'.bindRing c r.part rp ctl
              let s' := s'.modRound e (fun r => { r with ring := some g, cohort := cohort, homes := Tab.insert r.homes (s.selfIn r) cohort })
              let s' := (s'.writeRing g (g.base.toNat + 4) (zeros 60)).changeRound e .ingesting
              okRes [] (if r.policy.fabric && !r.shadow then
                s'.sendRound e (s'.peersOf r) (.homeMap r.part.val r.id (c.w 1) (c.w 2) cohort) else s')))))

def execIngestBind (src : Source) (pkt : Packet) (s : State) : Host.Outcome State Fault Refusal :=
  runRow specIngestBind bodyIngestBind src pkt s

/-- Another participant's cohort joins the home map (R330). [log 57 DEDUCED, 169 DESIGN CHOICE] -/
def State.onHomeMap (s : State) (e origin : Nat) (clients : List Nat) : State :=
  match s.round? e with
  | none => s
  | some r =>
    if r.participants.contains origin && !r.state.isAborted && r.harvest.stage != .done then
      s.setRound e { r with homes := Tab.insert r.homes origin clients }
    else s

/-- HOME_MAP. [log 64 DEDUCED] -/
def actHomeMap (origin : Nat) (m : RoundMsg) (s : State) : State :=
  match m with
  | .homeMap part id _ _ clients => s.onNamed part id (fun e => s.onMessage e origin m (fun o => s.onHomeMap e o clients))
  | _ => s

def execHomeMap (o : RoundIn) (m : RoundMsg) (s : State) : Host.Outcome State Fault Refusal := s.conclude (s.takeRound o m (actHomeMap o.h.src m))

/-! ### HARVEST (R31) -/

def specHarvest : OpSpec := { code := 0x0203, callP := true, used := [0] }

def bodyHarvest : Body := fun c s =>
  c.unlessAborted s true (fun _ =>
    c.round s (fun _ => true) (fun e r =>
      match r.state with
      | .opened => (.run (.harvest e), s)
      | .ingesting => (.run (.harvest e), s)
      | .aborted st => (.done st (r.harvestResults.map w32), s)
      | _ => okRes r.harvestResults s))

def execHarvest (src : Source) (pkt : Packet) (s : State) : Host.Outcome State Fault Refusal :=
  runRow specHarvest bodyHarvest src pkt s

/-! ### ROUND_ABORT (R43) -/

/-- A partition's caller names its own partition (R166). -/
def ownPartition (n : Nat) : Source → List Check
  | .part p _ => [.word n .notPermitted (fun v => bits v 5 0 != p.val)]
  | _ => []

def specRoundAbort : OpSpec :=
  { code := 0x020A, callP := true, callC := true, used := [0, 1], checks := [.mask 1 0x3F], own := ownPartition 1 }

/-- ROUND_ABORT: of its own partition for a P caller, of any for a C caller (R166). In RELEASED it closes the round. -/
def bodyRoundAbort : Body := fun c s =>
  let p : Fin 64 := Fin.ofNat 64 (c.w 1)
  if !c.shadow && (s.shadowEntry p (c.w 0)).isSome then fail .notPermitted s
  else match (if c.shadow then s.shadowEntry p (c.w 0) else s.roundEntry p (c.w 0)) with
    | none => failAt .badParam 0 s
    | some e =>
      if (s.round? e).any (fun r => !r.state.isAborted && s.muted r) then fail .linkDown s
      else okRes [] (s.abortRound e .aborted true)

def execRoundAbort (src : Source) (pkt : Packet) (s : State) : Host.Outcome State Fault Refusal :=
  runRow specRoundAbort bodyRoundAbort src pkt s

/-! ### PLACEMENT_REVISE (R281 to R284) -/

def specPlacementRevise : OpSpec :=
  { code := 0x020B, callP := true, used := [0, 1, 2], checks := [.word 2 .range (fun v => v > 8)] }

/-- P2 = 0 unpins the segment and revises it; a revision that falls due at the deadline or later is not made (R283, R290). [log 151 DEDUCED] -/
def bodyPlacementRevise : Body := fun c s =>
  c.round s (· == .ingesting) (fun e r =>
    if r.segs.length ≤ c.w 1 then failAt .range 1 s
    else if c.w 2 = 0 then
      (if r.policy.deadline ≤ s.now then
        okRes [] (s.modRound e (fun r => { r with segs := r.segs.modify (c.w 1) (fun g => { g with pinned := false }) }))
      else okRes [] (s.reviseSeg e (c.w 1) (fun g => { g with pinned := false })))
    else okRes [] (s.setReplicas e (c.w 1) (min (c.w 2) s.bedsServing) (fun g => { g with pinned := true })))

def execPlacementRevise (src : Source) (pkt : Packet) (s : State) : Host.Outcome State Fault Refusal :=
  runRow specPlacementRevise bodyPlacementRevise src pkt s

/-! ### UNMASK (R39, R311 to R313, R323) -/

/-- S_c: from the contribution record where this device holds one, else from the neighbour record (R311). -/
def Round.segsOf (r : Round) (c : Nat) : List Nat :=
  match Tab.find? r.contributions c with
  | some x => x.segs
  | none => ((Tab.find? r.neighbourStore c).map (fun n => r.segSet n.segs)).getD []

/-- The items of one mask: a strip each of replica c mod A of the segments (R277, R313). -/
def maskItems (m : Modulus) (r : Round) (c : Nat) (segs : List Nat) (sub : Bool) (key : Bytes) (purpose : Nat) : List StripItem :=
  segs.flatMap (fun i =>
    let g := r.segs.getD i { len := 0 }
    (List.range (stripsOf m g.len)).map (fun j => { seg := i, rep := c % g.a, strip := j, sub := sub, what := .mask key purpose }))

/-- Table 9.5's operations for one client. -/
def clientMasks (m : Modulus) (r : Round) (c : Nat) : List StripItem :=
  if r.survived c then maskItems m r c (r.segsOf c) true (Tab.get r.seeds [] c) 1
  else
    (((Tab.find? r.neighbourStore c).map (·.neighbours)).getD []).flatMap (fun d =>
      match Tab.find? r.pairSeeds (2 ^ 24 * c + d) with
      | some k => maskItems m r (min c d) (interNat (r.segsOf c) (r.segsOf d)) (decide (d < c)) k 2
      | none => [])

/-- Clients of the device that are still short of shares. -/
def State.shortOf (s : State) (r : Round) : List Nat :=
  (r.clientsOf (s.selfIn r)).filter (fun c => Tab.get r.latches .unset c != .done)

def specUnmask : OpSpec := { code := 0x0206, callP := true, used := [0] }

/-- Log 47 DEDUCED. -/
def bodyUnmask : Body := fun c s =>
  c.unlessAborted s false (fun _ =>
    c.round s (· == .revealing) (fun e r =>
      if r.policy.coded || r.unmasking || !(s.shortOf r).isEmpty then fail .notPermitted s
      else match Tab.find? r.badData storesKey with
      | some st => fail st (s.badRoundData e st)
      | none =>
        let m := r.modulus.getD .m16
        let items := (r.clientsOf (s.selfIn r)).flatMap (clientMasks m r)
        let s := s.setRound e { r with strips := r.strips ++ items, unmasking := true }
        if s.stripsIdle e then okRes [] ((s.modRound e (fun r => { r with unmasking := false })).changeRound e .unmasked)
        else (.run (.unmask e), s)))

def execUnmask (src : Source) (pkt : Packet) (s : State) : Host.Outcome State Fault Refusal :=
  runRow specUnmask bodyUnmask src pkt s

/-! ### SEAL (R367 to R371, R286, R387) -/

/-- Add two strips. -/
def addStrips (m : Modulus) (a b : List Nat) : List Nat := List.zipWith (bedAdd m) a b

/-- Merge the replicas of a segment into replica 0, strip by strip, in ascending replica order. -/
def mergeSegment (m : Modulus) (g : Segment) : Segment :=
  if g.a ≤ 1 then g
  else (List.range (stripsOf m g.len)).foldl (fun g j =>
    g.setStrip 0 j ((List.range (g.a - 1)).foldl (fun acc k => addStrips m acc (g.stripOf m (k + 1) j)) (g.stripOf m 0 j))) g

def mergeAll (r : Round) : Round :=
  match r.modulus with
  | some m => { r with segs := r.segs.map (mergeSegment m) }
  | none => r

def specSeal : OpSpec := { code := 0x0208, callP := true, used := [0] }

/-- A participant's part in the seal sum: its residues, then its contributor counts (R369). -/
def State.sealSum (s : State) (r : Round) (src : Source) (cmd : Nat) : Sum :=
  let m := r.modulus.getD .m16
  let p := match m with
    | .prime p => p
    | _ => 0
  let vals := r.segs.flatMap (fun g => g.elements m 0)
  { key := .seal r.id r.tokenEpoch, desc := { op := .modsum m.code p, count := vals.length }, src := src, cmd := cmd, self := s.selfIn r
    own := vals ++ r.segs.map (·.contributors), members := r.harvest.mask, pages := [], dst := 0 }

def bodySeal : Body := fun c s =>
  c.round s (· == .unmasked) (fun e r =>
    if (s.lease? 7 e).isSome then fail .notPermitted s
    else if s.muted r then fail .linkDown s
    else match (List.range r.segs.length ++ [countsKey]).findSome? (Tab.find? r.badData) with
    | some st => fail st (s.badRoundData e st)
    | none =>
      let ep := match srcAgent c.src with
        | some a => s.agentEpoch a
        | none => 0
      let s := match srcAgent c.src with
        | some a => s.setLease 7 e { owner := some r.part, holder := .agent a ep }
        | none => s
      let r := mergeAll r
      let s := s.setRound e r
      if !r.policy.fabric then
        let s := (s.dropLease 7 e).changeRound e .sealed
        okRes [r.segs.length, s.tokenFid r, r.tokenEpoch.toNat] s
      else
        let x := s.sealSum r c.src c.id
        let s := s.modCmd c.src c.id (fun d => { d with phase := .executing (.seal e) })
        (.run (.seal e), if r.shadow then s else s.joinSum (tkey r.part r.policy.trellis) x))

def execSeal (src : Source) (pkt : Packet) (s : State) : Host.Outcome State Fault Refusal :=
  runRow specSeal bodySeal src pkt s

end Sys2Proof.Machine
end

