-- ==== Sys2Proof/Machine/Harvest.lean ====
section
/-!
DEFINITION. Harvest: the deadline alarm, the stages of Table 10.2, the survivor set (ch. 10), and how the Trellis carries the
OR stages past lost nodes (ch. 15); the messages of the Trellis.
-/

namespace Sys2Proof.Machine
open Sys2Proof

/-! ### Times and places of the stages -/

def Round.graceNs (r : Round) : Nat := 1000 * r.policy.harvestGraceUs
def Round.deviceNs (r : Round) : Nat := 1000 * r.policy.deviceGraceUs

/-- The latest time at which BITMAP starts. -/
def Round.bitmapLatest (r : Round) : Nat := r.policy.deadline + max r.graceNs r.deviceNs

def State.isRoot (s : State) (r : Round) : Bool := (treeParent r.participants (s.selfIn r)).isNone

/-- Participants found gone on the round's Trellis. -/
def State.goneOf (s : State) (r : Round) : List Nat := (Tab.get s.trellis.gone [] (tkey r.part r.policy.trellis)).filterMap r.origin

/-- The standby among `x`: the next live participant above the root (R520, R521). -/
def State.standbyIn (s : State) (r : Round) (x : List Nat) : Option Nat :=
  (x.drop 1).find? (fun f => !(s.goneOf r).contains f && !r.harvest.left.contains f)

def State.standby (s : State) (r : Round) : Option Nat := s.standbyIn r r.participants

def Round.harvestOpen (r : Round) : Bool := r.state == .opened || r.state == .ingesting

def State.modHarvest (s : State) (e : Nat) (f : Harvest → Harvest) : State := s.modRound e (fun r => { r with harvest := f r.harvest })

/-! ### Contributions of the OR stages (R513, R520) -/

/-- This node's contribution to JOIN. -/
def State.joinPart (s : State) (r : Round) : RoundMsg := .join (s.treeId r) r.id r.harvest.joined

/-- What this node contributes now: to JOIN, to BITMAP, or to the reveal barrier. -/
def State.contribution (s : State) (r : Round) : RoundMsg :=
  match r.harvest.stage, r.barrier with
  | .bitmap _, _ => .bitmap (s.treeId r) r.id r.harvest.covers r.harvest.bits
  | .done, some b => .barrierJoin (s.treeId r) r.id b.t0 b.starter b.joined
  | _, _ => s.joinPart r

/-- Where a contribution goes in the tree of its stage: to the parent, or the ancestor this node reached; at the top to the root and the
standby (R506, R520). -/
def State.upTargets (s : State) (r : Round) : List Nat :=
  let x := r.live
  match treeParent x (s.selfIn r) with
  | none => []
  | some par =>
    let root := x.headD 0
    let d := ((r.harvest.reach).filter x.contains).getD par
    if d = root then root :: ((s.standbyIn r x).filter (fun y => y != s.selfIn r && y != root)).toList else [d]

/-- Send a contribution up. -/
def State.sendUpAs (s : State) (e : Nat) (m : State → Round → RoundMsg) : State :=
  match s.round? e with
  | none => s
  | some r =>
    match s.upTargets r with
    | [] => s
    | ds => (s.modHarvest e (fun h => { h with sentAt := s.now, acked := false })).sendRound e ds (m s r)

/-- Send what this node contributes now. -/
def State.sendUp (s : State) (e : Nat) : State := s.sendUpAs e State.contribution

/-- Send a stage's result down the tree, and to the nodes that contributed directly (R520). -/
def State.sendDown (s : State) (e : Nat) (m : RoundMsg) : State :=
  match s.round? e with
  | none => s
  | some r => s.sendRound e (unionNat (treeChildren r.live (s.selfIn r)) (r.harvest.direct.filter (fun d => d != s.selfIn r))) m

/-- The node that a contribution went to has acknowledged it. -/
def State.contributionAcked (s : State) (e d : Nat) : State :=
  match s.round? e with
  | none => s
  | some r => if ((s.upTargets r).head?.map (fun x => Tab.get r.replaced x x)) = some d then s.modHarvest e (fun h => { h with acked := true }) else s

/-- An OR stage to which this node contributes is open. -/
def Round.contributes (r : Round) : Bool :=
  match r.harvest.stage with
  | .join => true
  | .bitmap _ => true
  | .done => r.barrier.isSome && r.state == .harvested
  | _ => false

/-- Escalate to the parent of the node last tried (R520). -/
def State.escalate (s : State) (e : Nat) : State :=
  match s.round? e with
  | none => s
  | some r =>
    match s.upTargets r with
    | [] => s
    | d :: _ =>
      if !r.contributes || r.harvest.acked then s
      else (s.modHarvest e (fun h => { h with reach := some ((treeParent r.live d).getD d) })).sendUp e

/-- ESCALATION: 100 µs without an acknowledgement (R520). -/
def actEscalation (e : Fin 1024) (s : State) : State :=
  match s.round? e with
  | some r => if !r.harvest.acked && r.harvest.sentAt + 100000 ≤ s.now then (s.escalate e) else s
  | none => s

def execEscalation (e : Fin 1024) (s : State) : Host.Outcome State Fault Refusal := s.conclude (actEscalation e s)

/-- Every participant that has not left is among those of `l`. -/
def Round.allIn (r : Round) (among l : List Nat) : Bool := among.all (fun f => l.contains f || r.harvest.left.contains f)

/-- JOIN closes early once every participant is in; the mask goes down the tree, so that each node learns of it (Table 10.2, Table 15.3).
[log 158 DEDUCED] -/
def State.closeJoin (s : State) (e : Nat) : State :=
  match s.round? e with
  | none => s
  | some r =>
    if r.harvest.joinClosedAt.isSome || !r.allIn r.participants r.harvest.joined then s
    else (s.modHarvest e (fun h => { h with joinClosedAt := some s.now })).sendDown e (s.joinPart r)

/-- A contribution to JOIN, or from above the mask of a JOIN that has closed. [log 57 DEDUCED, 158 DEDUCED] -/
def State.takeJoin (s : State) (e origin : Nat) (r : Round) (covers direct : List Nat) : State :=
  let h := r.harvest
  if (treeAbove r.participants (s.selfIn r) 4).contains origin then
    if h.joinClosedAt.isSome then s
    else
      let r' : Round := { r with harvest := { h with joined := unionNat h.joined covers, joinClosedAt := some s.now } }
      (s.setRound e r').sendDown e (s.joinPart r')
  else
    let s := s.modHarvest e (fun h => { h with direct := direct, joined := unionNat h.joined covers })
    (if h.stage = .idle || covers.all h.joined.contains then s else s.sendUpAs e State.joinPart).closeJoin e

/-- A contribution to JOIN or BITMAP arrives at a node. [log 57 DEDUCED] -/
def State.takeContribution (s : State) (e origin : Nat) (bitmap : Bool) (covers bits : List Nat) : State :=
  match s.round? e with
  | none => s
  | some r =>
    let h := r.harvest
    let direct := if (treeChildren r.participants (s.selfIn r)).contains origin then h.direct else insertNat origin h.direct
    if !r.harvestOpen || !r.participants.contains origin || h.left.contains origin || h.stage = .result || h.stage = .adopt || h.stage = .done then s
    else if bitmap then
      let s := s.modHarvest e (fun h => { h with direct := direct, covers := unionNat h.covers covers, bits := unionNat h.bits bits })
      match h.stage with
      | .bitmap _ => if covers.all h.covers.contains then s else s.sendUp e
      | _ => s
    else if r.policy.deadline + r.deviceNs < s.now then s
    else s.takeJoin e origin r covers direct

/-! ### The stages' starts and closes (R331, R332, R335) -/

/-- A round's deadline alarm is due. -/
def State.deadlineDue (s : State) (e : Nat) : Bool := ((s.round? e).map (fun r => r.alarmAt.any (fun t => decide (t ≤ s.now)))).getD false

/-- The alarm fires: ingest freezes and harvest starts (R27, R331, R413). -/
def State.deadlineFires (s : State) (e : Nat) : State :=
  match s.round? e with
  | none => s
  | some r =>
    if !r.harvestOpen then s.setRound e { r with alarmAt := none }
    else
      let s := s.setRound e { r with alarmAt := none }
      let s := s.modHarvest e (fun h => { h with stage := .join, joined := insertNat (s.selfIn r) h.joined })
      (if r.policy.fabric then s.sendUp e else s).closeJoin e

def actDeadlineAlarm (e : Fin 1024) (s : State) : State :=
  (if s.deadlineDue e && s.running .time then s.deadlineFires e else s)

def execDeadlineAlarm (e : Fin 1024) (s : State) : Host.Outcome State Fault Refusal := s.conclude (actDeadlineAlarm e s)

/-- JOIN has closed: every participant joined, as this node knows or has learnt, or the cycle of D + Gd is over (R331). -/
def Round.joinOver (r : Round) (now : Nat) : Bool :=
  r.harvest.joinClosedAt.isSome || r.allIn r.participants r.harvest.joined || decide (r.policy.deadline + r.deviceNs < now)

/-- When BITMAP starts: the later of D + Gh and the close of JOIN (Table 10.2). -/
def Round.bitmapStart (r : Round) : Nat :=
  match r.harvest.stage with
  | .bitmap t => t
  | _ => max (r.policy.deadline + r.graceNs) (min (r.harvest.joinClosedAt.getD (r.policy.deadline + r.deviceNs)) (r.policy.deadline + r.deviceNs))

/-- HARVEST_JOIN_CLOSE: every participant joined, or the device grace is over. -/
def actHarvestJoinClose (e : Fin 1024) (s : State) : State :=
  match s.round? e with
  | none => s
  | some r =>
    if r.harvest.stage = .join && r.harvestOpen && r.joinOver s.now then
      (s.modHarvest e (fun h => { h with stage := .waitBitmap, joinClosedAt := some (h.joinClosedAt.getD s.now) }))
    else s

def execHarvestJoinClose (e : Fin 1024) (s : State) : Host.Outcome State Fault Refusal := s.conclude (actHarvestJoinClose e s)

/-- HARVEST_BITMAP_START: when the cycle of D + Gh is over (R261) and JOIN has closed, this device's survivor bitmap is contributed (R29, Table 10.2). A
primary waits for its mirrored bundles (R624). -/
def actHarvestBitmapStart (e : Fin 1024) (s : State) : State :=
  match s.round? e with
  | none => s
  | some r =>
    let ready := r.harvest.stage = .waitBitmap || (r.harvest.stage = .join && r.joinOver s.now)
    let waits := List.any s.graft.waits (fun y => match y.2 with
      | .bundle x _ => x == e.val
      | _ => false)
    if !ready || !r.harvestOpen || s.now ≤ r.policy.deadline + r.graceNs || waits then s
    else
      let s := s.lateAll e r
      let mine := List.map (fun (y : Nat × Contribution) => y.1) r.contributions
      let s := s.modHarvest e (fun h => { h with
        stage := .bitmap s.now, covers := insertNat (s.selfIn r) h.covers, bits := unionNat h.bits mine })
      (if r.policy.fabric then s.sendUp e else s)

def execHarvestBitmapStart (e : Fin 1024) (s : State) : Host.Outcome State Fault Refusal := s.conclude (actHarvestBitmapStart e s)

/-! ### The result (R30, R32 to R34, R336) -/

/-- The positions of group `g` of a coded round that survived. -/
def Round.groupSurvivors (r : Round) (g : Nat) : List Nat :=
  let n := r.policy.shares
  (r.harvest.survivors.filter (fun c => c / n == g)).map (· % n)

/-- The groups of a coded round that have home-map clients. [log 60 DEDUCED] -/
def Round.groups (r : Round) : List Nat := r.clients.foldl (fun l c => insertNat (c / r.policy.shares) l) []

/-- Some group has survivors, but fewer than t (R336). -/
def Round.groupShort (r : Round) : Bool :=
  r.policy.coded && r.groups.any (fun g =>
    let k := (r.groupSurvivors g).length
    decide (1 ≤ k) && decide (k < r.policy.threshold))

/-- Put an agreed mask and survivor set into a round: counts, latches and the seal token (R32, R333, Table 1.5). -/
def Round.agree (r : Round) (mask survivors : List Nat) : Round :=
  let live := survivors.filter (fun c => (r.home c).any mask.contains)
  let cs := r.clients
  let r' : Round := { r with
    harvest := { r.harvest with
      stage := .done, mask := mask, survivors := live, dropped := cs.length - live.length
      absent := r.participants.length - mask.length, acked := true }
    latches := cs.map (fun c => (c, if live.contains c then Latch.self else Latch.pair)) }
  r'.keepToken

/-- The survivor set reaches this device: absent, it leaves; below the floor, the round aborts; else HARVESTED (R28, R30,
R334, R336), a participant still OPEN among them. [log 139 DEDUCED] -/
def State.applyResult (s : State) (e : Nat) (mask survivors : List Nat) : State :=
  match s.round? e with
  | none => s
  | some r =>
    if !r.harvestOpen || r.harvest.stage = .done then s
    else if !mask.contains (s.selfIn r) then s.abortRound e .aborted false
    else
      let s := s.lateAll e r
      let r := ((s.round? e).getD r).agree mask survivors
      let s := s.setRound e r
      if r.harvest.survivors.length < r.policy.floor || r.groupShort then s.abortRound e .belowFloor false
      else
        let s := s.changeRound e .harvested
        s.completeWork (fun w => match w with
          | .harvest x => if x = e then some (.ok, r.harvestResults) else none
          | _ => none)

/-- Send the RESULT down the tree (R333, R520). -/
def State.broadcast (s : State) (e : Nat) (r : Round) (mask survivors : List Nat) : State := s.sendDown e (.result (s.treeId r) r.id mask survivors)

/-- A RESULT is passed on and applied (R333). -/
def State.onResult (s : State) (e : Nat) (mask survivors : List Nat) : State :=
  match s.round? e with
  | none => s
  | some r => (s.broadcast e r mask survivors).applyResult e mask survivors

/-- This device's own RESULT; a primary forwards it first (R625). -/
def State.ownResult (s : State) (e : Nat) (r : Round) (mask survivors : List Nat) : State :=
  s.onMessage e s.ownFid (.result (s.treeId r) r.id mask survivors) (fun _ => s.onResult e mask survivors)

/-- The root has its result: PROPOSE to the standby, or at once where there is none (R521, R335). -/
def State.rootResult (s : State) (e : Nat) (mask survivors : List Nat) : State :=
  match s.round? e with
  | none => s
  | some r =>
    if !r.policy.fabric then s.applyResult e mask survivors
    else
      let heir := s.standby r
      let s := s.modHarvest e (fun h => { h with stage := .result, mask := mask, survivors := survivors, asked := heir })
      match heir with
      | some d => s.sendRound e [d] (.propose (s.treeId r) r.id mask survivors)
      | none => s.ownResult e r mask survivors

/-- The participants that joined, whose bitmap is in, and that did not leave (R28, R44, R332). -/
def Round.present (r : Round) : List Nat :=
  (interNat r.harvest.joined r.harvest.covers).filter (fun f => !r.harvest.left.contains f)

/-- HARVEST_BITMAP_CLOSE, at the root: every joined participant's bitmap is in, or the cycle of the start plus the device grace is over
(R331, R332, R513). -/
def actHarvestBitmapClose (e : Fin 1024) (s : State) : State :=
  match s.round? e with
  | none => s
  | some r =>
    match r.harvest.stage with
    | .bitmap t =>
      if r.harvestOpen && s.isRoot r && !(r.shadow && r.policy.fabric) && (r.allIn r.harvest.joined r.harvest.covers || decide (t + r.deviceNs < s.now)) then
        (s.rootResult e r.present r.harvest.bits)
      else s
    | _ => s

def execHarvestBitmapClose (e : Fin 1024) (s : State) : Host.Outcome State Fault Refusal := s.conclude (actHarvestBitmapClose e s)

/-- A RESULT that arrives acts while harvest is open, unless this device has decided as standby (R333, R521). -/
def State.takeResultMsg (s : State) (e origin : Nat) (m : RoundMsg) (mask survivors : List Nat) : State :=
  match s.round? e with
  | none => s
  | some r =>
    if !r.policy.fabric || !r.harvestOpen || r.harvest.decided then s
    else s.onMessage e origin m (fun _ => s.onResult e mask survivors)

/-- HARVEST_RESULT: the RESULT arrives, is passed on and applied (R333). [log 64 DEDUCED] -/
def actHarvestResult (origin : Nat) (m : RoundMsg) (s : State) : State :=
  match m with
  | .result x id mask survivors => s.onTree origin x none (fun s => s.onNamed x.part id (fun e => s.takeResultMsg e origin m mask survivors))
  | _ => s

def execHarvestResult (o : RoundIn) (m : RoundMsg) (s : State) : Host.Outcome State Fault Refusal :=
  s.conclude (s.takeRound o m (actHarvestResult o.h.src m))

/-- HARVEST_ABSENT_TIMEOUT: no RESULT by the BITMAP start plus twice the device grace (R334). -/
def actHarvestAbsentTimeout (e : Fin 1024) (s : State) : State :=
  match s.round? e with
  | none => s
  | some r =>
    if r.policy.fabric && r.harvestOpen && !r.shadow && r.harvest.stage != .result && decide (r.bitmapStart + 2 * r.deviceNs ≤ s.now) then
      (s.abortRound e .aborted false)
    else s

def execHarvestAbsentTimeout (e : Fin 1024) (s : State) : Host.Outcome State Fault Refusal := s.conclude (actHarvestAbsentTimeout e s)

/-! ### Standby (R521) -/

/-- PROPOSE reaches the standby: it accepts, or has decided and refuses, sending its own RESULT. -/
def State.onPropose (s : State) (e origin : Nat) (mask survivors : List Nat) : State :=
  match s.round? e with
  | none => s
  | some r =>
    if r.harvest.decided then
      (s.sendRound e [origin] (.proposeAnswer (s.treeId r) r.id false)).sendRound e [origin]
        (.result (s.treeId r) r.id r.harvest.mask r.harvest.survivors)
    else
      (s.modHarvest e (fun h => { h with proposed := true, bits := survivors, covers := unionNat h.covers mask })).sendRound e [origin]
        (.proposeAnswer (s.treeId r) r.id true)

/-- PROPOSE. -/
def actPropose (origin : Nat) (m : RoundMsg) (s : State) : State :=
  match m with
  | .propose x id mask survivors =>
    s.onTree origin x none (fun s => s.onNamed x.part id (fun e => s.onMessage e origin m (fun o => s.onPropose e o mask survivors)))
  | _ => s

def execPropose (o : RoundIn) (m : RoundMsg) (s : State) : Host.Outcome State Fault Refusal := s.conclude (s.takeRound o m (actPropose o.h.src m))

/-- The standby's answer reaches the root: refused, it discards its own RESULT and awaits the standby's (R521). -/
def State.proposeAnswered (s : State) (e : Nat) (accepted : Bool) : State :=
  match s.round? e with
  | none => s
  | some r =>
    if r.harvest.stage != .result then s
    else if accepted then s.ownResult e r r.harvest.mask r.harvest.survivors
    else s.modHarvest e (fun h => { h with stage := .adopt, mask := [], survivors := [], asked := none })

/-- The standby that PROPOSE went to is gone: the next one is asked, or the root goes alone (R521). -/
def State.proposeLost (s : State) (e d : Nat) : State :=
  match s.round? e with
  | some r => if r.harvest.stage = .result && r.harvest.asked = some d then s.rootResult e r.harvest.mask r.harvest.survivors else s
  | none => s

/-- A node is gone for the OR stages of a round: what it was to pass up goes to its parent, what it was to confirm to the next standby
(R520, R521). -/
def State.orGone (s : State) (e d : Nat) : State :=
  match s.round? e with
  | none => s
  | some r =>
    let s := if (s.upTargets r).head? = some d then (s.modHarvest e (fun h => { h with acked := false })).escalate e else s
    s.proposeLost e d

/-- A participant is lost to round `e`: from REVEALING on the round aborts, in an OR stage another node takes its place (R358, R520); one that
was substituted is not lost (R630). [log 128 DEDUCED] -/
def State.participantLost (s : State) (e d : Nat) : State :=
  match s.round? e with
  | none => s
  | some r =>
    match r.origin d with
    | none => s
    | some o =>
      if !r.policy.fabric || !r.live.contains o then s
      else if r.state.late then s.abortRound e .aborted true
      else s.orGone e o

/-- A device is gone from a Trellis, for its sums and for the OR stages of its rounds (R519 to R522, R358). -/
def State.peerGone (s : State) (k d : Nat) : State :=
  let es := List.filterMap (fun (y : Nat × Round) =>
    if y.2.policy.fabric && !y.2.shadow && tkey y.2.part y.2.policy.trellis == k then (y.2.origin d).map (fun o => (y.1, o)) else none) s.rounds.table
  es.foldl (fun s (e, o) => s.orGone e o) (s.neighbourGone k d)

/-- STANDBY_TAKEOVER: no PROPOSE 200 µs after the stage's latest close; the standby builds the RESULT and sends it to
every participant. -/
def actStandbyTakeover (e : Fin 1024) (s : State) : State :=
  match s.round? e with
  | none => s
  | some r =>
    if r.policy.fabric && r.harvestOpen && !r.shadow && s.standby r == some (s.selfIn r) && !s.isRoot r && !r.harvest.proposed && !r.harvest.decided &&
        decide (r.bitmapLatest + r.deviceNs + 200000 ≤ s.now) then
      let mask := r.present
      let m : RoundMsg := .result (s.treeId r) r.id mask r.harvest.bits
      let s := s.modHarvest e (fun h => { h with decided := true })
      let s := s.sendRound e (r.participants.filter (· != (s.selfIn r))) m
      (s.onMessage e.val s.ownFid m (fun _ => s.applyResult e.val mask r.harvest.bits))
    else s

def execStandbyTakeover (e : Fin 1024) (s : State) : Host.Outcome State Fault Refusal := s.conclude (actStandbyTakeover e s)

/-! ### Trellis messages -/

/-- A seal message that carries another epoch of its round's token (R372). -/
def State.otherEpoch (s : State) (k : Nat) (key : SumKey) : Bool :=
  match key with
  | .seal _ ep => (s.sealRound k key).any (fun r => r.tokenEpoch != ep)
  | .reduce _ => false

/-- A message of a sum: one of another token epoch is discarded (R372). -/
def State.onSum (s : State) (origin : Nat) (x : TreeId) (key : SumKey) (act : Nat → State → State) : State :=
  s.onTree origin x (some key) (fun s => if s.otherEpoch (treeKey x) key then s else act (treeKey x) s)

/-- TRELLIS_CHUNK: a chunk of a sum, a failure mark or an OR contribution arrives (R511, R513); `bad` is the poison or uncorrectable error
that it carries, which fails the sum, or the round of its stage (R523, Table 1.5). [log 64 DEDUCED] -/
def actTrellisChunk (origin : Nat) (m : RoundMsg) (found : ChunkFound) (s : State) : State :=
  let bad : Option Status := match found with
    | .clean => none
    | .poison => some .poisoned
    | .uncorrectable => some .eccUncorrectable
  let stage (x : TreeId) (id : W32) (act : State → Nat → Nat → State) : State :=
    s.onTree origin x none (fun s => s.onNamed x.part id (fun e => match bad with
      | some st => s.abortRound e st true
      | none => s.onMessage e origin m (fun o => act s e o)))
  let sum (x : TreeId) (key : SumKey) (act : Nat → State → State) : State :=
    s.onSum origin x key (fun k s => match bad with
      | some st => s.markSum k key st none
      | none => act k s)
  match m with
  | .join x id covers => stage x id (fun s e o => s.takeContribution e o false covers [])
  | .bitmap x id covers bits => stage x id (fun s e o => s.takeContribution e o true covers bits)
  | .sumUp x key d i vals clamps => sum x key (fun k s => s.sumUp k origin key d i vals clamps)
  | .sumDown x key i vals clamps => sum x key (fun k s => s.sumDown k origin key i vals clamps)
  | .sumFail x key st => sum x key (fun k s => s.sumFail k origin key st)
  | _ => s

def execTrellisChunk (o : RoundIn) (m : RoundMsg) (found : ChunkFound) (s : State) : Host.Outcome State Fault Refusal :=
  s.conclude (s.takeRound o m (actTrellisChunk o.h.src m found))

/-- A participant aborts. Before REVEALING it is absent from the stage that runs, and from the barrier; from then on the round aborts
here too (R44, R50, R516). [log 59 DEDUCED] -/
def State.onLeave (s : State) (e origin : Nat) : State :=
  match s.round? e with
  | none => s
  | some r =>
    if !r.policy.fabric || !r.participants.contains origin then s
    else if r.state.late then s.abortRound e .aborted false
    else ((s.modHarvest e (fun h => { h with left := insertNat origin h.left })).orGone e origin).closeJoin e

/-- LEAVE, and the abort of a round from REVEALING on. [log 59 DEDUCED] -/
def actLeave (origin : Nat) (m : RoundMsg) (s : State) : State :=
  match m with
  | .leave x id => s.onTree origin x none (fun s => s.onNamed x.part id (fun e => s.onMessage e origin m (fun o => s.onLeave e o)))
  | .abort part id _ => s.onNamed part id (fun e => s.onMessage e origin m (fun o => s.onLeave e o))
  | _ => s

def execLeave (o : RoundIn) (m : RoundMsg) (s : State) : Host.Outcome State Fault Refusal := s.conclude (s.takeRound o m (actLeave o.h.src m))

end Sys2Proof.Machine
end

