-- ==== Sys2Proof/Machine/Reveal.lean ====
section
/-!
DEFINITION. Reveal: the barrier, the share, neighbour and coded records, their routing and outcomes, and reconstruction
(ch. 10).
-/

namespace Sys2Proof.Machine
open Sys2Proof

/-! ### Records (Tables 10.3 to 10.6) -/

def recType (b : Bytes) : Nat := leNat (slice b 0 1)
def recRound (b : Bytes) : Nat := leNat (slice b 4 4)
/-- OWNER, CLIENT or HOLDER of a CODED record. -/
def recClient (b : Bytes) : Nat := leNat (slice b 8 3)
def shareKind (b : Bytes) : Nat := leNat (slice b 1 1)
def shareHolder (b : Bytes) : Nat := leNat (slice b 12 3)
def nrecCount (b : Bytes) : Nat := leNat (slice b 2 2)
def nrecSegCount (b : Bytes) : Nat := leNat (slice b 12 2)
def codedElements (b : Bytes) : Nat := leNat (slice b 12 4)
def codedSurvivors (b : Bytes) : List Nat := setBitsFrom 0 (slice b 32 32)

def nrecNeighbours (b : Bytes) : List Nat := (residues 4 (slice b 64 (4 * nrecCount b)))
def nrecSegs (b : Bytes) : List Nat := residues 2 (slice b (64 + alignUp64 (4 * nrecCount b)) (2 * nrecSegCount b))

/-- Length of the record whose header these bytes begin; none for a type that Table 10.3 does not list. -/
def recLength (b : Bytes) : Option Nat :=
  match recType b with
  | 1 => some 128
  | 2 => some (64 + alignUp64 (4 * nrecCount b) + alignUp64 (2 * nrecSegCount b))
  | 3 => some (64 + alignUp64 (2 * codedElements b) + 64)
  | _ => none

/-- Σ L_s of a layout. -/
def Round.totalElements (r : Round) : Nat := r.segs.foldl (fun n g => n + g.len) 0

/-- K = ⌈t ÷ 2⌉ and ℓ = ⌈Λ ÷ K⌉ (R352). -/
def Round.codedK (r : Round) : Nat := ceilDiv r.policy.threshold 2
def Round.codedL (r : Round) : Nat := ceilDiv r.totalElements r.codedK

/-- The header checks that need no more than 64 bytes (Table 10.7). -/
def headerOk (r : Round) (b : Bytes) : Bool :=
  let home (c : Nat) : Bool := (r.home c).isSome
  recRound b == r.id.toNat && leNat (slice b 11 1) == 0 &&
  match recType b with
  | 1 => !r.policy.coded && leNat (slice b 2 2) == 0 && leNat (slice b 15 1) == 0 && allZero (slice b 48 16) && home (recClient b) &&
      home (shareHolder b) && recClient b != shareHolder b && (shareKind b == 1 || shareKind b == 2)
  | 2 => !r.policy.coded && leNat (slice b 1 1) == 0 && leNat (slice b 14 2) == 0 && allZero (slice b 48 16) && home (recClient b) &&
      nrecCount b == r.policy.shares && decide (nrecSegCount b ≤ r.segs.length)
  | 3 => r.policy.coded && leNat (slice b 1 3) == 0 && allZero (slice b 16 16) && home (recClient b) && codedElements b == r.codedL &&
      (codedSurvivors b).all (fun j => decide (j < r.policy.shares))
  | _ => false

/-- The checks of the rest of a record (Table 10.7). -/
def bodyOk (r : Round) (b : Bytes) : Bool :=
  match recType b with
  | 1 => allZero (slice b 112 16)
  | 2 =>
    let l := nrecNeighbours b
    let g := nrecSegs b
    let gOff := 64 + alignUp64 (4 * nrecCount b)
    rising l && !l.contains (recClient b) && l.all (fun c => (r.home c).isSome) && rising g && g.all (fun i => decide (i < r.segs.length)) &&
      allZero (slice b (64 + 4 * nrecCount b) (gOff - 64 - 4 * nrecCount b)) && allZero (b.drop (gOff + 2 * nrecSegCount b))
  | _ =>
    let n := codedElements b
    allZero (slice b (64 + 2 * n) (alignUp64 (2 * n) - 2 * n)) && allZero (b.drop (64 + alignUp64 (2 * n) + 16))

/-- Read and check the records of the array in order; a failing one is BAD_PARAM on word 2 (R341). -/
def readRecords (c : Ctx) (r : Round) (s : State) : Nat → Nat → Bytes → Except (Status × Nat) (List Bytes) × State
  | 0, _, _ => (.ok [], s)
  | n + 1, va, given =>
    let rd (s : State) (a off len : Nat) : Except Status Bytes × State :=
      if c.shadow then (.ok (slice given off len), s)
      else if 2 ^ 48 < a + len then (.error .badParam, s)
      else match s.claim c.src a len false with
        | (.error st, s') => (.error st, s')
        | (.ok ps, s') => s'.readRange (srcPartByte c.src) ps a len
    match rd s va 0 64 with
    | (.error st, s) => (.error (st, 2), s)
    | (.ok h, s) =>
      match recLength h with
      | none => (.error (.badParam, 2), s)
      | some len =>
        if !headerOk r h then (.error (.badParam, 2), s)
        else match rd s (va + 64) 64 (len - 64) with
          | (.error st, s) => (.error (st, 2), s)
          | (.ok t, s) =>
            let b := h ++ t
            if !bodyOk r b then (.error (.badParam, 2), s)
            else
              let s := s.modCmd c.src c.id (fun d => { d with inputs := d.inputs ++ b })
              match readRecords c r s n (va + len) (given.drop len) with
              | (.error e, s) => (.error e, s)
              | (.ok l, s) => (.ok (b :: l), s)

/-! ### Outcomes (Table 10.8) -/

/-- How a record ends on the device that decides it. -/
inductive RecOutcome where
  | accepted | conflict | duplicate | already | noRoom
deriving DecidableEq, Repr

def RecOutcome.code : RecOutcome → Nat
  | .accepted => 0
  | .conflict => 1
  | .duplicate => 2
  | .already => 3
  | .noRoom => 4

def RecOutcome.ofCode : Nat → RecOutcome
  | 0 => .accepted
  | 1 => .conflict
  | 2 => .duplicate
  | 3 => .already
  | _ => .noRoom

/-- The share kind a latch allows. -/
def Latch.kind : Latch → Nat
  | .self => 1
  | .pair => 2
  | _ => 0

/-- The coded public key of a holder: from the bundle committed here, else from the participant that committed it (R355). [log 140 DEDUCED] -/
def Round.codedPublic (r : Round) (holder : Nat) : Bytes :=
  match Tab.find? r.contributions holder with
  | some x => x.codedKey
  | none => Tab.get r.codedKeys [] holder

/-- HKDF key of a CODED record (R355). [log 60 DEDUCED] -/
def codedKey (r : Round) (holder : Nat) : Bytes :=
  let q := r.codedPublic holder
  hkdf256 (x25519 r.priv q) (leBytes 4 r.id.toNat) (ascii "ARKCODE1" ++ leBytes 3 holder) 32

/-- The residues of a CODED record whose tag verifies and whose residues lie below p. -/
def openCoded (r : Round) (b : Bytes) : Option (List Nat) :=
  let n := 2 * codedElements b
  let ct := slice b 64 n
  let key := codedKey r (recClient b)
  if gcmTag key (zeros 12) (b.take 64) ct != slice b (64 + alignUp64 n) 16 then none
  else
    let v := residues 2 (gcmCrypt key (zeros 12) ct)
    if v.all (fun x => decide (x < (r.modulus.getD .m16).value)) then some v else none

/-- Log 60 DEDUCED. -/
def Round.group (r : Round) (c : Nat) : Nat := c / r.policy.shares

/-- The outcome a CODED record has without being opened, if any (Table 10.8). -/
def Round.codedOutcome (r : Round) (b : Bytes) : Option RecOutcome :=
  let c := recClient b
  let g := r.group c
  if !r.survived c || codedSurvivors b != r.groupSurvivors g then some .conflict
  else if r.codedDone.contains g then some .already
  else if (Tab.find? r.codedStore c).isSome then some .duplicate
  else none

/-- A CODED record that is to be opened and whose holder's coded key has not come yet. [log 140 DEDUCED] -/
def Round.keyAwaited (r : Round) (b : Bytes) : Bool :=
  recType b == 3 && (r.codedOutcome b).isNone && (r.codedPublic (recClient b)).isEmpty

/-- Decide a record on this device and store it (R37, R52, R342, R345, R355). A CODED record that fails its tests counts as taken.
[log 167 DESIGN CHOICE] -/
def State.decideRecord (s : State) (e : Nat) (b : Bytes) : RecOutcome × State :=
  match s.round? e with
  | none => (.already, s)
  | some r =>
    let c := recClient b
    let store (n : Nat) (f : Round → Round) : RecOutcome × State :=
      match s.roundAlloc e n with
      | none => (.noRoom, s)
      | some s' => (.accepted, s'.modRound e f)
    match recType b with
    | 1 =>
      let l := Tab.get r.latches .unset c
      let x : ShareRec :=
        { owner := c, holder := shareHolder b, kind := shareKind b, nrecDigest := slice b 16 32, header := b.take 48
          ciphertext := slice b 64 32, tag := slice b 96 16 }
      if l = .done then (.already, s)
      else if l.kind != x.kind then (.conflict, s)
      else if r.shareStore.any (fun y => y.owner == x.owner && y.holder == x.holder && y.kind == x.kind) then (.duplicate, s)
      else store 128 (fun r => { r with shareStore := r.shareStore ++ [x] })
    | 2 =>
      let x : NeighbourRec := { client := c, publicKey := slice b 16 32, neighbours := nrecNeighbours b, segs := nrecSegs b, bytes := b }
      (match Tab.find? r.neighbourStore c with
       | some y => if y = x then (.accepted, s) else (.duplicate, s)
       | none => store b.length (fun r => { r with neighbourStore := Tab.insert r.neighbourStore c x }))
    | _ =>
      match r.codedOutcome b with
      | some o => (o, s)
      | none => match openCoded r b with
        | none => (.accepted, s.setRound e { r with shareInvalid := satAdd32 r.shareInvalid 1 })
        | some v => store (2 * v.length) (fun r => { r with codedStore := Tab.insert r.codedStore c { holder := c, vals := v } })

/-! ### Routing (R342, R361) -/

/-- The device to which the decode of a client's group falls (R351). -/
def Round.decoder (r : Round) (c : Nat) : Option Nat := (r.clients.find? (fun x => r.group x == r.group c)).bind r.reconDev

/-- The devices a record goes to, the one whose outcome counts first. -/
def Round.recordTargets (r : Round) (b : Bytes) : List Nat :=
  let c := recClient b
  match recType b with
  | 1 => (r.reconDev c).toList
  | 2 => ((r.reconDev c).toList ++ (nrecNeighbours b).filterMap r.reconDev).eraseDups
  | _ => (r.decoder c).toList

/-- The reference a routed record carries: its command, and whether its outcome counts. -/
def recordRef (src : Source) (id : Nat) (counts : Bool) : Nat := (id * 2048 + srcKey src) * 2 + b2n counts

def tally (w : Work) (o : RecOutcome) : Work :=
  match w with
  | .shares e l n a c d x f => (match o with
    | .accepted => .shares e l n (a + 1) c d x f
    | .conflict => .shares e l n a (c + 1) d x f
    | .duplicate => .shares e l n a c (d + 1) x f
    | .already => .shares e l n a c d (x + 1) f
    | .noRoom => .shares e l n a c d x (some .range))
  | w => w

def State.modWork (s : State) (src : Source) (id : Nat) (f : Work → Work) : State :=
  s.modCmd src id (fun c => match c.phase with
    | .executing w => { c with phase := .executing (f w) }
    | _ => c)

/-- Every record has its outcome: the command completes (R183). -/
def State.checkShares (s : State) (src : Source) (id : Nat) : State :=
  match (((s.cmd? src id).map (fun (c : Cmd) => c.phase)) : Option Phase) with
  | some (.executing (.shares _ [] 0 a c d x f)) =>
    let st := match f with
      | some st => st
      | none => if c ≠ 0 then .revealConflict else if d ≠ 0 then .duplicate else .ok
    s.complete src id st ([a, c, d, x].map w32)
  | _ => s

/-- Keep a record that waits, with its origin and reference. -/
def Round.keepRecord (r : Round) (origin ref : Nat) (b : Bytes) : Round := { r with early := r.early ++ [(origin, ref, b)] }

/-- One more outcome is awaited from elsewhere. -/
def awaitOutcome (w : Work) : Work :=
  match w with
  | .shares e l n a c d x f => .shares e l (n + 1) a c d x f
  | w => w

/-- Send or decide one record of a command. Of a record that goes to several devices, the outcome on the first counts.
[log 167 DESIGN CHOICE] -/
def State.routeRecord (s : State) (e : Nat) (src : Source) (id : Nat) (b : Bytes) : State :=
  match s.round? e with
  | none => s
  | some r =>
    let ts := r.recordTargets b
    let s := s.progressSrc src 1
    (List.zip (List.range ts.length) ts).foldl (fun s (k, d) =>
      if d = s.selfIn r && ((s.round? e).getD r).keyAwaited b then
        (s.modWork src id awaitOutcome).modRound e (fun r => r.keepRecord d (recordRef src id (k = 0)) b)
      else if d = (s.selfIn r) || !r.policy.fabric then
        let (o, s) := s.decideRecord e b
        if k = 0 || o = .noRoom then s.modWork src id (fun w => tally w o) else s
      else (s.modWork src id awaitOutcome).sendRound e [d] (.record r.part.val r.id (recordRef src id (k = 0)) b)) s

/-- Route every record a command holds, in array order. -/
def State.routeHeld (s : State) (src : Source) (id : Nat) : State :=
  match (((s.cmd? src id).map (fun (c : Cmd) => c.phase)) : Option Phase) with
  | some (.executing (.shares e l n a c d x f)) =>
    let s := s.modWork src id (fun _ => .shares e [] n a c d x f)
    (l.foldl (fun s b => s.routeRecord e src id b) s).checkShares src id
  | _ => s

/-- An outcome decided elsewhere comes back. -/
def State.recordAnswered (s : State) (ref outcome : Nat) : State :=
  let src := srcOfKey (ref / 2 % 2048)
  let id := ref / 4096
  let s := s.modWork src id (fun w => match w with
    | .shares e l n a c d x f => .shares e l (n - 1) a c d x f
    | w => w)
  let o := RecOutcome.ofCode outcome
  let s := if ref % 2 = 1 || o = .noRoom then s.modWork src id (fun w => tally w o) else s
  s.checkShares src id

/-! ### Records routed here (R342, R355) -/

/-- Decide a routed record and answer its origin; one whose holder's coded key is still to come is kept. -/
def State.serveRecord (s : State) (e origin ref : Nat) (b : Bytes) : State :=
  match s.round? e with
  | none => s
  | some r =>
    if r.keyAwaited b then s.setRound e (r.keepRecord origin ref b)
    else
      let (o, s) := s.decideRecord e b
      if origin = s.selfIn r then s.recordAnswered ref o.code
      else s.sendRound e [origin] (.recordOutcome r.part.val r.id ref o.code)

/-- Take up the records that waited, in the order in which they came. -/
def State.serveEarly (s : State) (e : Nat) : State :=
  match s.round? e with
  | none => s
  | some r => r.early.foldl (fun s (o, ref, b) => s.serveRecord e o ref b) (s.setRound e { r with early := [] })

/-- The coded public keys of this device's surviving clients go to the participants to which their groups' decode falls. [log 140 DEDUCED] -/
def State.sendCodedKeys (s : State) (e : Nat) : State :=
  match s.round? e with
  | none => s
  | some r =>
    if !r.policy.coded || !r.policy.fabric then s
    else List.foldl (fun s (y : Nat × Contribution) => match r.decoder y.1 with
      | some d => if d = s.selfIn r || !r.survived y.1 then s else s.sendRound e [d] (.codedKey r.part.val r.id y.1 y.2.codedKey)
      | none => s) s r.contributions

/-- A client's coded key comes from its home. -/
def State.onCodedKey (s : State) (e origin client : Nat) (key : Bytes) : State :=
  match s.round? e with
  | none => s
  | some r => if r.home client = some origin then
      (s.setRound e { r with codedKeys := Tab.insert r.codedKeys client key }).serveEarly e
    else s

/-! ### The barrier (R33, R34, R337, R338) -/

/-- Every participant of the RESULT mask has joined: the mask goes down the tree, so that the barrier closes on all of them (R337, Table 15.3).
[log 158 DEDUCED] -/
def State.barrierFull (s : State) (e : Nat) (before : List Nat) : State :=
  match s.round? e with
  | none => s
  | some r =>
    match r.barrier with
    | none => s
    | some b => if r.allIn r.harvest.mask before || !r.allIn r.harvest.mask b.joined then s else s.sendDown e (s.contribution r)

/-- A start or contribution, or this device's own start, joins the barrier: the earliest T0 stands, at equal times that of
the lowest fabric ID. What is new goes up the tree (R513, R520); a contribution from below that came past its tree parent is remembered as
direct. [log 58 DEDUCED] -/
def State.joinBarrier (s : State) (e : Nat) (origin t0 starter : Nat) (covers : List Nat) : State :=
  match s.round? e with
  | none => s
  | some r =>
    if r.state != .harvested then s
    else
      let old := r.barrier.getD { t0 := t0, starter := starter, joined := [] }
      let first := decide (t0 < old.t0) || (decide (t0 = old.t0) && decide (starter < old.starter))
      let b : Barrier :=
        { t0 := if first then t0 else old.t0, starter := if first then starter else old.starter
          joined := insertNat (s.selfIn r) (unionNat old.joined covers) }
      let near := origin = s.selfIn r || covers.isEmpty || (treePeers r.harvest.mask (s.selfIn r)).contains origin ||
        (treeAbove r.harvest.mask (s.selfIn r) 4).contains origin
      let h := if near then r.harvest else { r.harvest with direct := insertNat origin r.harvest.direct }
      let s := s.setRound e { r with barrier := some b, harvest := h }
      if r.barrier = some b || !r.policy.fabric then s else (s.sendUp e).barrierFull e old.joined

/-- REVEAL_BARRIER_START: a start or contribution arrives. -/
def actRevealBarrierStart (origin : Nat) (m : RoundMsg) (s : State) : State :=
  match m with
  | .barrierStart x id t0 starter =>
    s.onTree origin x none (fun s => s.onNamed x.part id (fun e => s.onMessage e origin m (fun o => s.joinBarrier e o t0 starter [])))
  | .barrierJoin x id t0 starter covers =>
    s.onTree origin x none (fun s => s.onNamed x.part id (fun e => s.onMessage e origin m (fun o => s.joinBarrier e o t0 starter covers)))
  | _ => s

def execRevealBarrierStart (o : RoundIn) (m : RoundMsg) (s : State) : Host.Outcome State Fault Refusal :=
  s.conclude (s.takeRound o m (actRevealBarrierStart o.h.src m))

/-- The round without the participants that did not join, or that left: their clients drop, SELF becomes PAIR, an absent token holder
loses the token (R34, R44, R338, Table 1.5). -/
def Round.reAgree (r : Round) (joined : List Nat) : Round :=
  let mask := (interNat r.harvest.mask joined).filter (fun f => !r.harvest.left.contains f)
  let live := r.harvest.survivors.filter (fun c => (r.home c).any mask.contains)
  let r' : Round := { r with
    harvest := { r.harvest with
      mask := mask, survivors := live, dropped := r.clients.length - live.length, absent := r.participants.length - mask.length }
    latches := Tab.map (fun c (l : Latch) => if l = Latch.self && !live.contains c then Latch.pair else l) r.latches }
  r'.keepToken

/-- The commands whose records wait for the barrier of round `e`. -/
def State.waitingShares (s : State) (e : Nat) : List (Source × Nat) :=
  s.q.cmds.filterMap (fun c => match c.phase with
    | .executing (.shares x _ _ _ _ _ _ _) => if x = e then some (c.src, c.id) else none
    | _ => none)

/-- The barrier closes: re-agreement, REVEALING, and the held records are routed, then those that came meanwhile are decided. [log 58 DEDUCED] -/
def State.closeBarrier (s : State) (e : Nat) : State :=
  match s.round? e with
  | none => s
  | some r =>
    match r.barrier with
    | none => s
    | some b =>
      let r := { (r.reAgree b.joined) with barrier := none }
      let s := s.setRound e r
      if r.harvest.survivors.length < r.policy.floor || r.groupShort then s.abortRound e .belowFloor false
      else
        let s := (s.changeRound e .revealing).sendCodedKeys e
        ((s.waitingShares e).foldl (fun s (src, id) => s.routeHeld src id) s).serveEarly e

/-- The barrier's result as the primary found it (R625). -/
def State.onBarrierResult (s : State) (e : Nat) (joined : List Nat) : State :=
  (s.modRound e (fun r => { r with barrier := some ({ (r.barrier.getD { t0 := s.now, starter := 0, joined := [] }) with joined := joined }) })).closeBarrier e

/-- REVEAL_BARRIER_CLOSE: every participant joined, or T0 plus the device grace is past. -/
def actRevealBarrierClose (e : Fin 1024) (s : State) : State :=
  match s.round? e with
  | none => s
  | some r =>
    match r.barrier with
    | none => s
    | some b =>
      if r.state = .harvested && !(r.shadow && r.policy.fabric) && (r.allIn r.harvest.mask b.joined || decide (b.t0 + r.deviceNs ≤ s.now)) then
        (if r.policy.fabric then s.onMessage e.val s.ownFid (.barrierResult (s.treeId r) r.id b.joined) (fun _ => s.closeBarrier e.val)
          else s.closeBarrier e.val)
      else s

def execRevealBarrierClose (e : Fin 1024) (s : State) : Host.Outcome State Fault Refusal := s.conclude (actRevealBarrierClose e s)

/-! ### SHARES_SUBMIT -/

def specSharesSubmit : OpSpec :=
  { code := 0x0204, callP := true, used := [0, 1, 2, 3],
    checks := [.word 1 .range (fun v => v == 0 || v > 65536), .addr 2 64, .range48 2 [1] (fun w => 128 * w 1)] }

def bodySharesSubmit : Body := fun c s =>
  c.round s (fun st => st == .harvested || st == .revealing) (fun e r =>
    if s.muted r then fail .linkDown s
    else match readRecords c r s (c.w 1) (pair c.w 2) c.given with
    | (.error (st, n), s) => failAt st n s
    | (.ok l, s) =>
      let w : Work := .shares e l 0 0 0 0 0 none
      let s := s.modCmd c.src c.id (fun d => { d with phase := .executing w })
      if r.state = .harvested then
        let t0 := s.now
        let first := r.barrier.isNone
        let s := s.joinBarrier e (s.selfIn r) t0 (s.selfIn r) []
        (.run w, if first && r.policy.fabric && !r.shadow then
          s.sendRound e (s.peersOf r) (.barrierStart (s.treeId r) r.id t0 (s.selfIn r)) else s)
      else (.run w, s.routeHeld c.src c.id))

def execSharesSubmit (src : Source) (pkt : Packet) (s : State) : Host.Outcome State Fault Refusal :=
  runRow specSharesSubmit bodySharesSubmit src pkt s

/-- A record from another participant is decided here; one that comes before this device's barrier closes waits for that (R337, R342).
[log 58 DEDUCED] -/
def State.onRecord (s : State) (e origin ref : Nat) (data : Bytes) : State :=
  match s.round? e with
  | none => s
  | some r =>
    if !r.participants.contains origin then s
    else if r.state = .harvested then s.setRound e (r.keepRecord origin ref data)
    else if !r.state.late then s
    else s.serveRecord e origin ref data

/-- RECORD_ROUTED. -/
def actRecordRouted (origin : Nat) (m : RoundMsg) (s : State) : State :=
  match m with
  | .record part id ref data => s.onNamed part id (fun e => s.onMessage e origin m (fun o => s.onRecord e o ref data))
  | _ => s

def execRecordRouted (o : RoundIn) (m : RoundMsg) (s : State) : Host.Outcome State Fault Refusal :=
  s.conclude (s.takeRound o m (actRecordRouted o.h.src m))

/-! ### Reconstruction (R344 to R349) -/

/-- Count agreements over the 16 lanes of the Agree unit. -/
def State.agree (s : State) : Nat → State
  | 0 => s
  | n + 1 =>
    let k := s.reg.agrNext % 16
    ({ s with reg := { s.reg with
      agrCounts := Tab.set s.reg.agrCounts 0 k (satAdd64 (Tab.get s.reg.agrCounts 0 k) 1), agrNext := (k + 1) % 16 } }).agree n

/-- The owner's share key. -/
def shareKey (r : Round) (owner : Nat) (pub : Bytes) : Bytes :=
  hkdf256 (x25519 r.priv pub) (leBytes 4 r.id.toNat) (ascii "ARKSHAR1" ++ leBytes 3 owner) 32

/-- The share value of a valid record (R345). -/
def openShare (key : Bytes) (n : NeighbourRec) (x : ShareRec) : Option Nat :=
  let iv := leBytes 1 x.kind ++ leBytes 3 x.holder ++ zeros 8
  if x.nrecDigest != sha256 n.bytes || gcmTag key iv x.header x.ciphertext != x.tag then none
  else
    let y := leNat (gcmCrypt key iv x.ciphertext)
    if y < p25519 then some y else none

def insertShare (x : ShareRec) : List ShareRec → List ShareRec
  | [] => [x]
  | y :: t => if x.holder ≤ y.holder then x :: y :: t else y :: insertShare x t

/-- The stored shares of an owner that its latch allows, by ascending holder. -/
def Round.sharesOf (r : Round) (owner : Nat) : List ShareRec :=
  (r.shareStore.filter (fun x => x.owner == owner && x.kind == (Tab.get r.latches .unset owner).kind)).foldl (fun l x => insertShare x l) []

/-- Decrypt in order until `t` are valid: the points, and the invalid records met. -/
def takeValid (key : Bytes) (n : NeighbourRec) : Nat → List ShareRec → List (Nat × Nat) × List ShareRec
  | 0, _ => ([], [])
  | _, [] => ([], [])
  | t + 1, x :: l =>
    match openShare key n x with
    | some y =>
      let (p, b) := takeValid key n t l
      ((x.holder + 1, y) :: p, b)
    | none =>
      let (p, b) := takeValid key n (t + 1) l
      (p, x :: b)

/-- The pairwise seed of two clients from one private key (R302). -/
def pairSeed (r : Round) (priv pub : Bytes) (a b : Nat) : Bytes :=
  hkdf256 (x25519 priv pub) (leBytes 4 r.id.toNat) (ascii "ARKPAIR1" ++ leBytes 3 (min a b) ++ leBytes 3 (max a b)) 32

/-- Owners that REVEAL_COMBINE can take: latch open, neighbour record stored, enough shares or a held key (R346, R347). -/
def State.combineOwners (s : State) (r : Round) : List Nat :=
  (r.clientsOf (s.selfIn r)).filter (fun c =>
    let l := Tab.get r.latches .unset c
    (l == .self || l == .pair) && (Tab.find? r.neighbourStore c).isSome &&
      ((Tab.find? r.heldKeys c).isSome || decide (r.policy.threshold ≤ (r.sharesOf c).length)))

/-- An owner is DONE: its remaining shares are scrubbed (R349). -/
def Round.ownerDone (r : Round) (c : Nat) : Round :=
  { r with latches := Tab.insert r.latches c .done, shareStore := r.shareStore.filter (fun x => x.owner != c) }

/-- Derive the seeds a dropped client owes its surviving neighbours; DONE when all are derived (R347). -/
def State.deriveSeeds (s : State) (e c : Nat) (key : Bytes) (n : NeighbourRec) : State :=
  match s.round? e with
  | none => s
  | some r =>
    let need := n.neighbours.filter r.survived
    let ready := need.filter (fun d => match Tab.find? r.neighbourStore d with
      | some m => m.neighbours.contains c
      | none => false)
    let fresh := ready.filter (fun d => (Tab.find? r.pairSeeds (2 ^ 24 * c + d)).isNone)
    let seeds := fresh.foldl (fun t d =>
      let pub := ((Tab.find? r.neighbourStore d).map (·.publicKey)).getD []
      Tab.insert t (2 ^ 24 * c + d) (pairSeed r key pub c d)) r.pairSeeds
    let r' := { r with pairSeeds := seeds }
    let r' := if ready.length = need.length then { (r'.ownerDone c) with heldKeys := Tab.erase r'.heldKeys c }
      else { r' with heldKeys := Tab.insert r'.heldKeys c key }
    (s.setRound e r').agree fresh.length

/-- Take one owner (R346, R347). -/
def State.combineOwner (s : State) (e c : Nat) : State :=
  match s.round? e with
  | none => s
  | some r =>
    match Tab.find? r.neighbourStore c with
    | none => s
    | some n =>
      match Tab.find? r.heldKeys c with
      | some k => s.deriveSeeds e c k n
      | none =>
        let key := shareKey r c n.publicKey
        let (pts, bad) := takeValid key n r.policy.threshold (r.sharesOf c)
        let r := { r with
          shareStore := r.shareStore.filter (fun x => !bad.contains x), shareInvalid := satAdd32 r.shareInvalid bad.length }
        let s := (s.setRound e r).agree 1
        if pts.length < r.policy.threshold then s
        else
          let secret := leBytes 32 (interpolateZero p25519 pts)
          if Tab.get r.latches .unset c = .self then
            s.setRound e { (r.ownerDone c) with seeds := Tab.insert r.seeds c secret }
          else s.deriveSeeds e c secret n

def specRevealCombine : OpSpec := { code := 0x0205, callP := true, used := [0] }

/-- Take every owner that can be taken. -/
def State.combineAll (s : State) (e : Nat) : State :=
  match s.round? e with
  | none => s
  | some r => (s.combineOwners r).foldl (fun s x => s.combineOwner e x) s

/-- Seeds and held keys of a round. -/
def Round.seedCount (r : Round) : Nat := r.seeds.length + r.pairSeeds.length + r.heldKeys.length

/-- Bytes by which the seeds and held keys of a round grow when every owner that can be taken is (R348). -/
def State.combineBytes (s : State) (e : Nat) : Nat :=
  32 * ((((s.combineAll e).round? e).map Round.seedCount).getD 0 - ((s.round? e).map Round.seedCount).getD 0)

/-- A REVEAL_COMBINE of round `e` executes. -/
def State.combining (s : State) (e : Nat) : Bool :=
  s.q.cmds.any (fun c => match c.phase with
    | .executing (.combine x _) => x == e
    | _ => false)

/-- REVEAL_COMBINE takes its store and starts; its results are made whole when it ends, so that an AGR reset leaves latches and shares as
they were (R348, R359, Table 1.5). -/
def bodyRevealCombine : Body := fun c s =>
  c.unlessAborted s false (fun _ =>
    c.round s (· == .revealing) (fun e r =>
      if r.decoding || s.combining e then fail .notPermitted s
      else c.needs s .agr (fun s =>
        match Tab.find? r.badData storesKey with
        | some st => fail st (s.badRoundData e st)
        | none =>
          let n := s.combineBytes e
          match s.roundAlloc e n with
          | none => failAt .range 0 s
          | some s => (.run (.combine e n), s))))

/-- Store that a REVEAL_COMBINE took and did not fill. -/
def State.returnStore (s : State) (e n : Nat) : State := s.modRound e (fun r => { r with bytesUsed := r.bytesUsed - n })

/-- REVEAL_COMBINE ends: every owner with enough shares by now is taken (R346, R360); the store taken is that of what was made. -/
def State.endCombine (s : State) (c : Cmd) (e n : Nat) : State :=
  let s := s.returnStore e n
  match s.roundAlloc e (s.combineBytes e), s.round? e with
  | some s, some r =>
    let before := (s.shortOf r).length
    let s := s.combineAll e
    let after := (s.shortOf ((s.round? e).getD r)).length
    (s.progressSrc c.src (before - after)).complete c.src c.id .ok ([before - after, after].map w32)
  | _, _ => s.complete c.src c.id .range (rejectResults .range 0)

/-- The AGR island is reset: every REVEAL_COMBINE under way ends with TARGET_RESET (Table 1.5). -/
def State.agrReset (s : State) : State :=
  s.q.cmds.foldl (fun s c => match c.phase with
    | .executing (.combine e n) => (s.returnStore e n).complete c.src c.id .targetReset []
    | _ => s) s

def execRevealCombine (src : Source) (pkt : Packet) (s : State) : Host.Outcome State Fault Refusal :=
  runRow specRevealCombine bodyRevealCombine src pkt s

/-! ### Keys between participants -/

/-- ROUND_KEY_TRANSFER: what travels between leader and followers at the opening of a fabric round (R20, R21, R627), and the coded public keys
of a coded round (R355). [log 140 DEDUCED] -/
def actRoundKeyTransfer (origin : Nat) (m : RoundMsg) (s : State) : State :=
  match m with
  | .openRequest part id pol cipher partner => (s.answerOpen origin part id pol cipher partner)
  | .openKey part id k l ms => (s.openAnswered part id (.ok (k, l, ms)))
  | .openRefuse part id st n => (s.openAnswered part id (.error (Status.ofCode st, n)))
  | .partner part id (some v) =>
    s.onNamed part id (fun e => s.onMessage e origin m (fun o => s.modRound e (fun r => { r with partners := Tab.insert r.partners o v })))
  | .codedKey part id c k => s.onNamed part id (fun e => s.onMessage e origin m (fun o => s.onCodedKey e o c k))
  | _ => s

def execRoundKeyTransfer (o : RoundIn) (m : RoundMsg) (s : State) : Host.Outcome State Fault Refusal :=
  s.conclude (s.takeRound o m (actRoundKeyTransfer o.h.src m))

/-! ### Answers to what this node sent -/

/-- TRELLIS_ACKNOWLEDGEMENT: a credit grant, a PROPOSE answer or a record's outcome arrives; a peer may answer that a
Trellis is dissolved (R511, R514, R518, R521, R342). -/
def actTrellisAcknowledgement (origin : Nat) (m : RoundMsg) (s : State) : State :=
  match m with
  | .credit x key n => s.onSum origin x key (fun k s => s.sumCredit k key n)
  | .dissolved x => s.peerGone (treeKey x) origin
  | .proposeAnswer x id ok =>
    s.onTree origin x none (fun s => s.onNamed x.part id (fun e => s.onMessage e origin m (fun _ => s.proposeAnswered e ok)))
  | .recordOutcome part id ref o => s.onNamed part id (fun e => s.onMessage e origin m (fun _ => s.recordAnswered ref o))
  | _ => s

def execTrellisAcknowledgement (o : RoundIn) (m : RoundMsg) (s : State) : Host.Outcome State Fault Refusal :=
  s.conclude (s.takeRound o m (actTrellisAcknowledgement o.h.src m))

end Sys2Proof.Machine
end

