-- ==== Sys2Proof/Machine/WorkList.lean ====
section
/-!
DEFINITION. The Work list (ch. 14): units and descriptor slots, jobs cut into tiles, the model store, allocation of Plots
(R662) and the claim order.
-/

namespace Sys2Proof.Machine
open Sys2Proof

/-! ### Plots -/

def State.plotOf (s : State) (k : Nat) : Plot := Tab.get s.plot.plots {} k

def State.setPlot (s : State) (k : Nat) (p : Plot) : State :=
  { s with plot := { s.plot with plots := Tab.set s.plot.plots {} k p } }

def State.modPlot (s : State) (k : Nat) (f : Plot → Plot) : State := s.setPlot k (f (s.plotOf k))

def plotIsland (k : Nat) : Island := .plot (Fin.ofNat 128 k)

/-- The scrub of R459, of both weight registers and the shadow tag too (R470, R486). -/
def Plot.scrubbed (p : Plot) : Plot :=
  { p with claimed := none, acc := [], flags := 0, clamped := 0, bad := none, shadow := none, shadowRegs := [], activeRegs := [], opHeld := none }

/-- A Plot between tiles. -/
def Plot.cleared (p : Plot) : Plot := { p with claimed := none, acc := [], flags := 0, clamped := 0, bad := none, opHeld := none }

/-! ### Regions (R471 to R474) -/

/-- The partition's descriptor slots are those of its units that are not task memory. -/
def State.slotUnits (s : State) (p : Fin 64) : List Nat := (s.unitsOf p).filter (fun u => (Tab.find? s.plot.taskUnits u).isNone)

def State.slotCount (s : State) (p : Fin 64) : Nat := 1024 * (s.slotUnits p).length

/-- The lowest FREE descriptor slot of a unit. -/
def State.freeInUnit (s : State) (u : Nat) : Option Nat :=
  ((List.range 1024).map (· + 1024 * u)).find? (fun d => (Tab.find? s.plot.tiles d).isNone)

/-- The lowest FREE descriptor slot of a partition. -/
def State.freeDescriptor (s : State) (p : Fin 64) : Option Nat := (s.slotUnits p).findSome? s.freeInUnit

/-- Units that no partition holds, ascending. -/
def State.freeUnits (s : State) : List Nat := (List.range 64).filter (fun u => (Tab.find? s.plot.units u).isNone)

/-- Return every unit of a partition, then give it the `n` lowest free ones (R474). -/
def State.assignUnits (s : State) (p : Fin 64) (n : Nat) : State :=
  let s := { s with plot := { s.plot with units := Tab.filter (fun _ q => q != p.val) s.plot.units } }
  { s with plot := { s.plot with units := (s.freeUnits.take n).foldl (fun t u => Tab.insert t u p.val) s.plot.units } }

/-! ### Jobs -/

def State.job? (s : State) (j : Nat) : Option Job := Tab.find? s.plot.jobs j

def State.modJob (s : State) (j : Nat) (f : Job → Job) : State :=
  match s.job? j with
  | none => s
  | some x => { s with plot := { s.plot with jobs := Tab.insert s.plot.jobs j (f x) } }

def State.setTile (s : State) (d : Nat) (t : Tile) : State := { s with plot := { s.plot with tiles := Tab.insert s.plot.tiles d t } }

/-- Parameter word n of a job. -/
def Job.word (j : Job) (n : Nat) : Nat := (j.params.getD n 0).toNat

/-- Tiles of a job with their slots. -/
def State.tilesOf (s : State) (j : Nat) : List (Nat × Tile) := List.filter (fun (y : Nat × Tile) => y.2.job == j) s.plot.tiles

def State.claimedTiles (s : State) (j : Nat) : Nat := ((s.tilesOf j).filter (fun y => y.2.state != .ready)).length

/-- The settings of a MATMUL's packet (Table 5.11), `none` for a code without a meaning. -/
def matSpecOf (w : Params) : Option MatSpec :=
  match formatOf (bits (w 0) 3 0), accModeOf (bits (w 0) 7 4), outFormatOf (bits (w 0) 11 8) with
  | some f, some m, some o =>
    some { fmt := f, mode := m, out := o, stoch := bit (w 0) 12, fuseAdd := bit (w 0) 13, fuseMul := bit (w 0) 14, modP := bit (w 0) 15
           dequant := bit (w 0) 16, scale := w 15, p := w 16, seed := w 14 }
  | _, _, _ => none

/-- A coded group's decode as a matrix product (R357). -/
def codedSpec (p : Nat) : MatSpec := { fmt := .gf16, mode := .exact, out := .res16, modP := true, p := p }

/-- A job's settings as a matrix product. -/
def State.specOf (s : State) (j : Job) : MatSpec :=
  match j.kind with
  | .coded e => codedSpec (((s.round? e).bind (·.modulus)).getD .m16).value
  | _ => (matSpecOf j.word).getD { fmt := .int8, mode := .exact, out := .int32 }

/-- Tiles of one group of a coded decode. -/
def Round.groupTiles (r : Round) : Nat := ceilDiv r.codedK 1024 * ceilDiv r.codedL 128

/-- Tile `t` of a command (Table 14.2). -/
def State.cut (s : State) (id : Nat) (j : Job) (t : Nat) : Tile :=
  let mat (m n rows t : Nat) : Tile :=
    let c := ceilDiv n 128
    { job := id, tile := t, row0 := rows * (t / c), col0 := 128 * (t % c), rows := min rows (m - rows * (t / c)), cols := min 128 (n - 128 * (t % c)) }
  match j.kind with
  | .matmul => mat (j.word 4) (j.word 5) (128 * (s.specOf j).mode.slots) t
  | .reduceIdx => { job := id, tile := t, row0 := 128 * t, rows := min 128 (j.word 1 - 128 * t), cols := j.word 2 }
  | .eltwise => { job := id, tile := t, row0 := 262144 * t, rows := min 262144 (j.word 1 - 262144 * t), cols := 1 }
  | .coded e =>
    match s.round? e with
    | none => { job := id, tile := t }
    | some r => { mat r.codedK r.codedL 1024 (t % r.groupTiles) with tile := t }

/-- How many tiles a command has. -/
def State.tileCount (s : State) (j : Job) : Nat :=
  match j.kind with
  | .matmul => ceilDiv (j.word 4) (128 * (s.specOf j).mode.slots) * ceilDiv (j.word 5) 128
  | .reduceIdx => ceilDiv (j.word 1) 128
  | .eltwise => ceilDiv (j.word 1) 262144
  | .coded e => match s.round? e with
    | none => 0
    | some r => j.groups.length * r.groupTiles

/-- NORMAL descriptors of a partition in use. -/
def State.normalInUse (s : State) (p : Fin 64) : Nat :=
  (List.filter (fun (y : Nat × Tile) => match s.job? y.2.job with
    | some j => j.part == p && !j.realtime
    | none => false) s.plot.tiles).length

/-- Write as many of a job's remaining descriptors as fit (R476). -/
def State.writeTiles (s : State) (id : Nat) : Nat → State
  | 0 => s
  | fuel + 1 =>
    match s.job? id with
    | none => s
    | some j =>
      if j.withdrawn || j.tiles ≤ j.written || (!j.realtime && decide (3 * s.slotCount j.part ≤ 4 * s.normalInUse j.part)) then s
      else match s.freeDescriptor j.part with
        | none => s
        | some d =>
          (((s.setTile d (s.cut id j j.written)).modJob id (fun j => { j with written := j.written + 1 })).progressSrc j.src 1).writeTiles id fuel

/-- Write the descriptors that waited for free slots, the earliest command first (R476): wherever slots or units come free. -/
def State.refill (s : State) (p : Fin 64) : State :=
  let js := List.filterMap (fun (y : Nat × Job) => if y.2.part = p then some y.1 else none) s.plot.jobs
  js.foldl (fun s j => s.writeTiles j (s.slotCount p)) s

/-- A write of CP_WL_REGION_p takes effect only with no descriptor in use, no running task, and 64 units in all (R471). [log 127 DEDUCED] -/
def actWlRegionWrite (p : Fin 64) (v : W32) (s : State) : State :=
  let n := bits v.toNat 6 0
  let mine := s.unitsOf p
  let tasks := (List.range 8).any (fun k => taskRunning (s.taskOf { part := p, slot := Fin.ofNat 8 k }))
  if !s.barAnswers .pf then s.unanswered
  else if !s.pfReaches .fe then s.dropWrite .fe
  else if n = mine.length || tasks || mine.any s.unitInUse || decide (s.freeUnits.length + mine.length < n) then s
  else (s.assignUnits p n).refill p

def execWlRegionWrite (p : Fin 64) (v : W32) (s : State) : Host.Outcome State Fault Refusal := s.conclude (actWlRegionWrite p v s)

/-- The Plots that one command of a partition may hold at a time: P17 or P1 where given, else the partition's share as it stands (R480, R675);
a partition of share 0 runs on lent Plots alone. -/
def State.plotLimit (s : State) (p : Fin 64) (given : Nat) : Nat :=
  if given ≠ 0 then given
  else
    let sh := ((s.partition? p).map (·.plotShare)).getD 0
    if sh = 0 then 128 else 2 * sh

/-- Cut a command into tiles and start it. -/
def State.startJob (s : State) (src : Source) (cmd : Nat) (p : Fin 64) (kind : JobKind) (params : List W32) (given : Nat) (groups : List Nat) :
    Nat × State :=
  let id := s.plot.nextJob
  let j : Job :=
    { kind := kind, src := src, cmd := cmd, part := p, params := params, serial := s.serialOf src cmd, realtime := (s.queue src).realtime
      limit := given, tiles := 0, groups := groups }
  let j := { j with tiles := s.tileCount j }
  let s := { s with plot := { s.plot with
      nextJob := id + 1, jobs := Tab.insert s.plot.jobs id j } }
  (id, s.writeTiles id (s.slotCount p))

/-! ### The model store (R485) -/

/-- Bytes of a weight block. -/
def Format.blockBytes (f : Format) : Nat := 128 * 128 * f.bits / 8

def Model.kBlocks (m : Model) : Nat := ceilDiv m.k 128

/-- Log 82 DEDUCED. -/
def Model.storeBytes (m : Model) : Nat := m.kBlocks * ceilDiv m.n 128 * m.format.blockBytes

/-- Where the store of a model lies: its 64 KiB pages by offset. -/
def storePages (r : Partition) (chunks : List Nat) (len : Nat) : Pages :=
  (List.range (ceilDiv len pageBytes)).map (fun n => (n, r.chunkMap.getD (chunks.getD (n / 32) 0) 0 * chunkBytes + n % 32 * pageBytes))

/-- B in block order: column block first, K block ascending, zero-padded, each block row by row. [log 82 DEDUCED] -/
def storeImage (f : Format) (k n : Nat) (b : Bytes) : Bytes :=
  let rb := f.rowBytes n
  (List.range (ceilDiv n 128)).flatMap (fun j =>
    (List.range (128 * ceilDiv k 128)).flatMap (fun i =>
      f.pack ((List.range 128).map (fun c => if i < k && 128 * j + c < n then f.element (slice b (rb * i) rb) (128 * j + c) else 0))))

/-- Give a model's chunks back to the quota. -/
def State.dropModel (s : State) (id : Nat) : State :=
  match Tab.find? s.plot.models id with
  | none => s
  | some m => (s.scrubAll m.owner m.chunks) |> fun s => { s with plot := { s.plot with models := Tab.erase s.plot.models id } }

/-- Store B under a model ID: `none` where the quota cannot hold it. The entry's generation increments (R485, R486). [log 82 DEDUCED] -/
def State.storeModel (s : State) (p : Fin 64) (id : Nat) (f : Format) (k n : Nat) (b : Bytes) : Option State :=
  let m : Model := { k := k, n := n, format := f, chunks := [], owner := p }
  match s.allocChunks p (ceilDiv m.storeBytes chunkBytes) with
  | none => none
  | some (cs, s) =>
    let s := s.dropModel id
    match s.partition? p with
    | none => none
    | some r =>
      let s := s.writeRange (storePages r cs m.storeBytes) 0 (storeImage f k n b)
      let g := Tab.get s.plot.modelGen 0 id
      some { s with plot := { s.plot with
        models := Tab.insert s.plot.models id { m with chunks := cs }, modelGen := Tab.insert s.plot.modelGen id (g + 1) } }

/-! Binding records of the models (R731, R732) -/

def State.bindingsOf (s : State) (p : Fin 64) : List Binding := Tab.get s.attest.bindings [] p.val

def State.setBindings (s : State) (p : Fin 64) (l : List Binding) : State :=
  { s with attest := { s.attest with bindings := Tab.set s.attest.bindings [] p.val l } }

/-- Remove the record of a model ID. -/
def State.unbind (s : State) (p : Fin 64) (model : Nat) : State := s.setBindings p ((s.bindingsOf p).filter (fun b => b.model != model))

/-- A word of a fetched command. -/
def Cmd.w (c : Cmd) (n : Nat) : Nat := c.words.getD n 0

/-- A WEIGHTS_LOAD of a model ID that executes. -/
def State.loading (s : State) (model : Nat) : Bool :=
  s.q.cmds.any (fun c => match c.phase with
    | .executing (.weights _ _ _ _ _ _ _) => c.w 0 == model
    | _ => false)

/-- A model that a descriptor in use names, or that a WEIGHTS_LOAD is filling (R487, R739). -/
def State.modelBusy (s : State) (id : Nat) : Bool :=
  s.loading id || List.any s.plot.tiles (fun (y : Nat × Tile) => (s.job? y.2.job).any (fun j => j.kind == .matmul && j.word 1 == id))

/-- The base and count of a partition's model region, empty until PART_CREATE sets it (R484, R501). [log 127 DEDUCED] -/
def State.regionOf (s : State) (p : Fin 64) : Nat × Nat := Tab.get s.plot.modelRegion (0, 0) p.val

def State.inRegion (s : State) (p : Fin 64) (id : Nat) : Bool :=
  let (b, n) := s.regionOf p
  decide (b ≤ id) && decide (id < b + n)

/-- The model a matrix job names. -/
def State.modelOf (s : State) (j : Job) : Option Model :=
  match j.kind with
  | .matmul => if j.word 1 = 0xFFFFFFFF then none else Tab.find? s.plot.models (j.word 1)
  | _ => none

/-- The shadow tag of a tile with a model (R486). -/
def State.tagOf (s : State) (j : Job) (t : Tile) : Option ShadowTag :=
  if (s.modelOf j).isNone then none
  else some { part := j.part, model := j.word 1, generation := Tab.get s.plot.modelGen 0 (j.word 1), colBlock := t.col0 / 128 }

/-! ### Allocation of Plots (R662) and the claim order (R480, R481) -/

/-- The partition that owns Plot `k`. [log 78 DEDUCED] -/
def ownerFrom (k : Nat) : Nat → List (Nat × Partition) → Option (Fin 64)
  | _, [] => none
  | n, (p, r) :: t => if n ≤ k && k < n + 2 * r.plotShare then some (Fin.ofNat 64 p) else ownerFrom k (n + 2 * r.plotShare) t

/-- Log 78 DEDUCED. -/
def State.plotOwner (s : State) (k : Nat) : Option (Fin 64) := ownerFrom k 0 s.part.parts

/-- The claimable descriptors of a partition, with their commands. -/
def State.claimable (s : State) (p : Fin 64) : List (Nat × Tile × Job) :=
  List.filterMap (fun (y : Nat × Tile) => match s.job? y.2.job with
    | some j => if j.part == p && y.2.state == .ready && decide (s.claimedTiles y.2.job < s.plotLimit p j.limit) then some (y.1, y.2, j) else none
    | none => none) s.plot.tiles

def State.canClaim (s : State) (p : Fin 64) : Bool := !(s.claimable p).isEmpty

/-- The claim list a descriptor stands in: REALTIME RETURNED, REALTIME, NORMAL RETURNED, NORMAL. -/
def claimRank (c : Nat × Tile × Job) : Nat := (if c.2.2.realtime then 0 else 2) + (if c.2.1.returned then 0 else 1)

/-- Claim order within a list: SERIAL, then TILE. -/
def claimBefore (a b : Nat × Tile × Job) : Bool :=
  decide (a.2.2.serial < b.2.2.serial) || (a.2.2.serial == b.2.2.serial && decide (a.2.1.tile < b.2.1.tile))

def insertClaim (a : Nat × Tile × Job) : List (Nat × Tile × Job) → List (Nat × Tile × Job)
  | [] => [a]
  | b :: t => if claimBefore a b then a :: b :: t else b :: insertClaim a t

/-- The first claim list of a partition with a claimable descriptor. [log 78 DEDUCED] -/
def State.claimList (s : State) (p : Fin 64) : List (Nat × Tile × Job) :=
  let l := s.claimable p
  let r := l.foldl (fun n c => min n (claimRank c)) 4
  (l.filter (fun c => claimRank c == r)).foldr insertClaim []

/-- The descriptor a free Plot with shadow tag `tag` takes: the first match among 16, else the first. [log 78 DEDUCED] -/
def State.chooseTile (s : State) (p : Fin 64) (tag : Option ShadowTag) : Option (Nat × Tile × Job) :=
  let l := (s.claimList p).take 16
  match l.find? (fun c => tag.isSome && s.tagOf c.2.2 c.2.1 == tag) with
  | some c => some c
  | none => l.head?

/-- Partitions in round-robin order after the one served last. -/
def State.partsFrom (s : State) : List (Fin 64) :=
  let ps := List.map (fun (y : Nat × Partition) => y.1) s.part.parts
  let n := s.part.sharesServed
  ((ps.filter (fun p => decide (n < p))) ++ (ps.filter (fun p => decide (p ≤ n)))).map (Fin.ofNat 64)

/-- The partition a free Plot serves next: its owner, else the one it is allocated to, else another, REALTIME first. -/
def State.plotServes (s : State) (k : Nat) : Option (Fin 64) :=
  let able (o : Option (Fin 64)) : Option (Fin 64) := o.bind (fun p => if s.canClaim p then some p else none)
  match able (s.plotOwner k) with
  | some p => some p
  | none =>
    match able (s.plotOf k).alloc with
    | some p => some p
    | none =>
      let ps := s.partsFrom.filter s.canClaim
      match ps.find? (fun p => (s.claimable p).any (fun c => c.2.2.realtime)) with
      | some p => some p
      | none => ps.head?

/-- Allocate Plot `k` to a partition, and to a round for a coded decode: a change scrubs it (R459). -/
def State.allocPlot (s : State) (k : Nat) (p : Fin 64) (round : Option Nat) : State :=
  let x := s.plotOf k
  let y := if x.alloc = some p && x.round = round then x else x.scrubbed
  (s.setPlot k { y with alloc := some p, round := round }).setLease 1 k (islandLease s p (plotIsland k))

/-- Release a Plot's allocation. -/
def State.releasePlot (s : State) (k : Nat) : State :=
  (s.modPlot k (fun x => { x.scrubbed with alloc := none, round := none, idleSince := s.now })).dropLease 1 k

/-! ### Ends of tiles and jobs -/

/-- Free a descriptor and its lease. -/
def State.freeTile (s : State) (d : Nat) : State :=
  ({ s with plot := { s.plot with tiles := Tab.erase s.plot.tiles d } }).dropLease 0 d

def Job.results (j : Job) : List Nat :=
  match j.kind with
  | .matmul => [j.statusOr, j.flagged, j.tiles]
  | .eltwise => [j.clamped]
  | _ => []

/-- A command that has not come to its end. -/
def Phase.isOpen : Phase → Bool
  | .done _ _ _ _ => false
  | .signalling _ _ => false
  | _ => true

/-- Complete a command, unless it has come to its end already. -/
def State.completeOpen (s : State) (src : Source) (id : Nat) (st : Status) (res : List W32) : State :=
  if (s.cmd? src id).any (fun c => c.phase.isOpen) then s.complete src id st res else s

/-- The translations a job's command holds. -/
def State.jobPages (s : State) (j : Job) : Pages := ((s.cmd? j.src j.cmd).map (fun (c : Cmd) => c.pages)).getD []

/-- Write a tile's rows into C. -/
def State.writeC (s : State) (ps : Pages) (a stride : Nat) : List Bytes → State
  | [] => s
  | r :: t => (s.writeRange ps a r).writeC ps (a + stride) stride t

/-- Where a tile's part of C begins. -/
def Job.tileC (j : Job) (m : MatSpec) (t : Tile) : Nat := pair j.word 10 + m.out.bytes * (j.word 5 * t.row0 + t.col0)

/-- Free bytes over a tile's part of C. -/
def State.openTile (s : State) (id : Nat) (j : Job) (n : Nat) : State :=
  let m := s.specOf j
  let t := s.cut id j n
  let (b, s) := s.freeBytes (m.out.bytes * t.cols * t.rows)
  s.writeC (s.jobPages j) (j.tileC m t) (m.out.bytes * j.word 5) (pieces (m.out.bytes * t.cols) b)

/-- What Shears leaves undefined of a MATMUL's C: every tile that was not drained holds free bytes (R464). [log 162 DESIGN CHOICE] -/
def State.openC (s : State) (id : Nat) (j : Job) : State :=
  if j.kind == .matmul && j.failed == some .revoked then
    ((List.range j.tiles).filter (fun n => !j.drained.contains n)).foldl (fun s n => s.openTile id j n) s
  else s

/-- A coded decode without tiles left: a failed one ends its command, else the round goes on to its last strips. -/
def State.endCoded (s : State) (e : Nat) (j : Job) : State :=
  match j.failed with
  | some st => (s.modRound e (fun r => { r with decoding := false })).completeOpen j.src j.cmd st []
  | none => s.checkUnmasked e

/-- Complete a job whose last tile is freed (R453, R464, R468, R478). -/
def State.checkJob (s : State) (id : Nat) : State :=
  match s.job? id with
  | none => s
  | some j =>
    if !(s.tilesOf id).isEmpty || !(j.withdrawn || decide (j.tiles ≤ j.written)) then s
    else
      let s := { s with plot := { s.plot with jobs := Tab.erase s.plot.jobs id } }
      match j.kind with
      | .coded e => s.endCoded e j
      | _ =>
        match j.failed with
        | some st => (s.openC id j).completeOpen j.src j.cmd st []
        | none => s.completeOpen j.src j.cmd .ok (j.results.map w32)

/-- Withdraw a job's tiles that no Plot runs (R464); other commands' descriptors take the slots (R476). -/
def State.withdraw (s : State) (id : Nat) (st : Status) : State :=
  let p? := (s.job? id).map (fun (j : Job) => j.part)
  let s := s.modJob id (fun j => { j with withdrawn := true, failed := some (j.failed.getD st) })
  let ds := ((s.tilesOf id).filter (fun y => y.2.state == .ready)).map (·.1)
  let s := (ds.foldl (fun s d => s.freeTile d) s).checkJob id
  match p? with
  | some p => s.refill p
  | none => s

/-- A Plot that may ever claim again by itself: not DISABLED, its island not in RESET_FAILED. -/
def State.plotUsable (s : State) (k : Nat) : Bool := !(s.plotOf k).disabled && (s.island (plotIsland k)).state != .resetFailed

/-- With no usable Plot left, commands whose tiles nobody can claim end (R469). -/
def State.checkReach (s : State) : State :=
  if (List.range 128).any s.plotUsable then s
  else (List.map (fun (y : Nat × Job) => y.1) s.plot.jobs).foldl (fun s j => s.withdraw j .eccUncorrectable) s

/-- A claimed tile goes back to the head of the Work list (R80, R482). -/
def State.returnTile (s : State) (k : Nat) : State :=
  match (s.plotOf k).claimed with
  | none => s
  | some d =>
    let s := s.modPlot k Plot.cleared
    match Tab.find? s.plot.tiles d with
    | none => s
    | some t => (s.setTile d { t with state := .ready, returned := true, claimer := none, claimEpoch := 0 }).dropLease 0 d

/-- Shears revokes the claim of descriptor `d`: its tile leaves, and its command ends with REVOKED (R464, R495). -/
def State.revokeTile (s : State) (d : Nat) : State :=
  match Tab.find? s.plot.tiles d with
  | none => s
  | some t =>
    let s := match t.claimer with
      | some k => if (s.plotOf k.val).claimed = some d then s.modPlot k.val Plot.cleared else s
      | none => s
    (s.freeTile d).withdraw t.job .revoked

/-- The CODED_DECODE of round `e` ends with REVOKED: its tiles leave, and groups whose SUB items were queued stay decoded (R363). -/
def State.revokeCoded (s : State) (e : Nat) : State :=
  match List.find? (fun (y : Nat × Job) => y.2.kind == .coded e) s.plot.jobs with
  | some y => s.withdraw y.1 .revoked
  | none => (s.modRound e (fun r => { r with decoding := false })).completeWork (fun w => match w with
      | .coded x _ => if x = e then some (.revoked, []) else none
      | _ => none)

/-- Shears revokes the allocation of Plot `k`, that of a round with its CODED_DECODE (R464, R363). -/
def State.revokePlot (s : State) (k : Nat) : State :=
  let e? := (s.plotOf k).round
  let s := match (s.plotOf k).claimed with
    | some d => s.revokeTile d
    | none => s
  let s := s.releasePlot k
  match e? with
  | some e => s.revokeCoded e
  | none => s

/-- The descriptors of a partition are freed, its model entries emptied, generations excepted, and its placement tables
(R501). Its chunks are scrubbed by the reset that calls for it. -/
def State.clearWork (s : State) (p : Fin 64) : State :=
  let js := List.filterMap (fun (y : Nat × Job) => if y.2.part = p then some y.1 else none) s.plot.jobs
  let ks := (List.range 128).filter (fun k => (s.plotOf k).alloc == some p)
  let ds := List.filterMap (fun (y : Nat × Tile) => if js.contains y.2.job then some y.1 else none) s.plot.tiles
  let s := ks.foldl (fun s k => s.releasePlot k) s
  let s := ds.foldl (fun s d => s.freeTile d) s
  let s := s.setBindings p []
  { s with plot := { s.plot with
      jobs := Tab.filter (fun k _ => !js.contains k) s.plot.jobs
      models := Tab.filter (fun _ m => m.owner != p) s.plot.models
      layers := Tab.filter (fun k _ => k / 4096 != p.val) s.plot.layers } }

end Sys2Proof.Machine
end

