-- ==== Sys2Proof/Machine/Plots.lean ====
section
/-!
DEFINITION. Plot commands and the steps of a tile (ch. 13, ch. 14): MATMUL, REDUCE_IDX, ELTWISE, CODED_DECODE, the claim
and the completion of a tile.
-/

namespace Sys2Proof.Machine
open Sys2Proof

/-! ### Commands that become jobs -/

/-- Start a Plot job for a command whose ranges are claimed; a caller without descriptor slots gets RANGE (R477), and one whose tiles no Plot
can ever claim ECC_UNCORRECTABLE at once (R469). -/
def Ctx.start (c : Ctx) (s : State) (kind : JobKind) (words given : Nat) (groups : List Nat) : BodyOut × State :=
  match srcPart c.src with
  | none => failAt .range 0 s
  | some p =>
    let (id, s) := s.startJob c.src c.id p kind ((List.range words).map (fun n => w32 (c.w n))) given groups
    (.run (.job id), s.checkReach)

/-- Whether a caller has a descriptor slot at all. [log 81 DEDUCED] -/
def State.hasSlots (s : State) (src : Source) : Bool :=
  match srcPart src with
  | none => false
  | some p => decide (0 < s.slotCount p)

def usesD (w : Params) : Bool := bit (w 0) 13 || bit (w 0) 14

/-- Bytes of A, B, C and D of a MATMUL. -/
def matBytes (w : Params) : Nat × Nat × Nat × Nat :=
  match matSpecOf w with
  | none => (0, 0, 0, 0)
  | some t =>
    let k := pair w 2
    (w 4 * t.fmt.rowBytes k, k * t.fmt.rowBytes (w 5), w 4 * w 5 * t.out.bytes, w 4 * w 5 * t.dBytes)

/-- Log 76 DEDUCED, 81 DEDUCED. -/
def specMatmul : OpSpec :=
  let shape : List Nat := [0, 2, 3, 4, 5]
  { code := 0x0400, big := true, callP := true, callC := true, used := List.range 18
    checks := [.mask 0 0x1FFFF,
      .word 0 .badParam (fun v => 7 ≤ bits v 3 0),
      .word 0 .badParam (fun v => match formatOf (bits v 3 0), accModeOf (bits v 7 4), outFormatOf (bits v 11 8) with
        | some f, some m, some o => !modeAllows m f o (bit v 15)
        | _, _, _ => true),
      .word 0 .badParam (fun v => bit v 12 && bits v 7 4 == 0),
      .word 0 .badParam (fun v => bit v 13 && bit v 14),
      .word 0 .badParam (fun v => bit v 15 && bits v 3 0 != 6),
      { words := [0, 2, 3], name := 2, status := .range,
        fails := fun w => pair w 2 == 0 || pair w 2 > 2 ^ 40 || (bits (w 0) 7 4 == 0 && pair w 2 > 2 ^ 32) },
      .word 4 .range (fun v => v == 0 || v > 2 ^ 24), .word 5 .range (fun v => v == 0 || v > 2 ^ 24),
      .addr 6 64, .addr 8 64, .addr 10 64, .addr 12 64,
      { words := [1, 8, 9], name := 8, status := .badParam, fails := fun w => w 1 != 0xFFFFFFFF && pair w 8 != 0 },
      { words := [0, 12, 13], name := 12, status := .badParam, fails := fun w => !usesD w && pair w 12 != 0 },
      .range48 6 shape (fun w => (matBytes w).1),
      .range48 8 (1 :: shape) (fun w => if w 1 = 0xFFFFFFFF then (matBytes w).2.1 else 0),
      .range48 10 shape (fun w => (matBytes w).2.2.1),
      .range48 12 shape (fun w => if usesD w then (matBytes w).2.2.2 else 0),
      .word 15 .badParam (fun v => bits v 30 23 == 255),
      .unusedUnless 16 [0] (fun w => bits (w 0) 3 0 == 6),
      { words := [0, 16], name := 16, status := .range, fails := fun w => bits (w 0) 3 0 == 6 && !isGfPrime (w 16) },
      .mask 17 0xFF, .word 17 .range (fun v => bits v 7 0 > 128)] }

/-- The checks of R487 on the model a MATMUL names. -/
def State.matModel (s : State) (c : Ctx) : Option (Status × Nat) :=
  if c.w 1 = 0xFFFFFFFF then none
  else match Tab.find? s.plot.models (c.w 1) with
    | none => some (.notPermitted, 1)
    | some m =>
      if srcPart c.src ≠ some m.owner then some (.notPermitted, 1)
      else if m.format.code ≠ bits (c.w 0) 3 0 then some (.badParam, 0)
      else if m.k ≠ pair c.w 2 then some (.badParam, 2)
      else if m.n ≠ c.w 5 then some (.badParam, 5)
      else none

/-- Claim a range unless it is not used. -/
def Ctx.claimIf (c : Ctx) (s : State) (use : Bool) (n v len : Nat) (k : State → BodyOut × State) : BodyOut × State :=
  if use then c.claim s n v len false (fun _ s => k s) else k s

/-- Log 76 DEDUCED. -/
def bodyMatmul : Body := fun c s =>
  match s.matModel c with
  | some (st, n) => failAt st n s
  | none =>
    if !s.hasSlots c.src then failAt .range 0 s
    else
      let (a, b, o, d) := matBytes c.w
      c.claimIf s true 6 (pair c.w 6) a (fun s =>
        c.claimIf s (c.w 1 == 0xFFFFFFFF) 8 (pair c.w 8) b (fun s =>
          c.claim s 10 (pair c.w 10) o true (fun _ s =>
            c.claimIf s (usesD c.w) 12 (pair c.w 12) d (fun s => c.start s .matmul 18 (bits (c.w 17) 7 0) []))))

def execMatmul (src : Source) (pkt : Packet) (s : State) : Host.Outcome State Fault Refusal := runRow specMatmul bodyMatmul src pkt s

/-- The format a 4-bit code names. -/
def fmtOf (c : Nat) : Format := (formatOf c).getD .int8

/-- Source bytes of a REDUCE_IDX. -/
def reduceBytes (w : Params) : Nat := w 1 * (fmtOf (bits (w 0) 7 4)).rowBytes (w 2)

def specReduceIdx : OpSpec :=
  { code := 0x0402, callP := true, callC := true, used := List.range 8
    checks := [.mask 0 0xF1, .word 0 .badParam (fun v => 8 ≤ bits v 7 4), .word 1 .range (fun v => v == 0 || v > 2 ^ 20),
      .word 2 .range (fun v => v == 0 || v > 2 ^ 24), .addr 4 1, .addr 6 1, .range48 4 [0, 1, 2] reduceBytes, .range48 6 [1] (fun w => 8 * w 1)] }

def bodyReduceIdx : Body := fun c s =>
  if !s.hasSlots c.src then failAt .range 0 s
  else c.claim s 4 (pair c.w 4) (reduceBytes c.w) false (fun _ s =>
    c.claim s 6 (pair c.w 6) (8 * c.w 1) true (fun _ s => c.start s .reduceIdx 8 0 []))

def execReduceIdx (src : Source) (pkt : Packet) (s : State) : Host.Outcome State Fault Refusal :=
  runRow specReduceIdx bodyReduceIdx src pkt s

/-- Bytes of an ELTWISE operand. -/
def eltBytes (w : Params) : Nat := (fmtOf (bits (w 0) 7 4)).rowBytes (w 1)

/-- ADD and MUL have a second operand. [log 77 DEDUCED] -/
def usesB (w : Params) : Bool := bits (w 0) 3 0 < 2

def specEltwise : OpSpec :=
  { code := 0x0403, callP := true, callC := true, used := List.range 9
    checks := [.mask 0 0xFF, .word 0 .badParam (fun v => 4 ≤ bits v 3 0), .word 0 .badParam (fun v => 8 ≤ bits v 7 4),
      .word 0 .range (fun v => bits v 3 0 == 3 && bits v 7 4 != 6), .word 1 .range (fun v => v == 0 || v > 2 ^ 28),
      .addr 2 1, .addr 4 1, .addr 6 1, .range48 2 [0, 1] eltBytes, .range48 4 [0, 1] (fun w => if usesB w then eltBytes w else 0),
      .range48 6 [0, 1] eltBytes,
      { words := [0, 8], name := 8, status := .range, fails := fun w => bits (w 0) 3 0 == 3 && !isPrime32 (w 8) }] }

/-- Log 77 DEDUCED. -/
def bodyEltwise : Body := fun c s =>
  if !s.hasSlots c.src then failAt .range 0 s
  else c.claim s 2 (pair c.w 2) (eltBytes c.w) false (fun _ s =>
    c.claimIf s (usesB c.w) 4 (pair c.w 4) (eltBytes c.w) (fun s =>
      c.claim s 6 (pair c.w 6) (eltBytes c.w) true (fun _ s => c.start s .eltwise 9 0 [])))

def execEltwise (src : Source) (pkt : Packet) (s : State) : Host.Outcome State Fault Refusal := runRow specEltwise bodyEltwise src pkt s

/-! ### CODED_DECODE (R356, R357, R359) -/

/-- The groups that fall to this device and have survivors (R351). -/
def State.groupsHere (s : State) (r : Round) : List Nat :=
  r.groups.filter (fun g => !(r.groupSurvivors g).isEmpty &&
    ((r.clients.filter (fun c => c / r.policy.shares == g)).head?.bind r.reconDev) == some (s.selfIn r))

/-- The t lowest positions of a group with stored records. -/
def Round.decodeFrom (r : Round) (g : Nat) : List Nat :=
  ((List.map (fun (y : Nat × CodedRec) => y.1) r.codedStore).filter (fun c => c / r.policy.shares == g)).take r.policy.threshold

def specCodedDecode : OpSpec :=
  { code := 0x0207, callP := true, used := [0, 1], checks := [.mask 1 0xFF, .word 1 .range (fun v => v > 128)] }

/-- CODED_DECODE; a REVEAL_COMBINE that executes refuses it (R359), and a record store that holds bad data aborts the round (Table 1.5). -/
def bodyCodedDecode : Body := fun c s =>
  c.round s (· == .revealing) (fun e r =>
    if !r.policy.coded || r.decoding || s.combining e then fail .notPermitted s
    else match Tab.find? r.badData storesKey with
    | some st => fail st (s.badRoundData e st)
    | none =>
      let gs := s.groupsHere r
      if gs.any (fun g => !r.codedDone.contains g && decide ((r.decodeFrom g).length < r.policy.threshold)) then fail .notPermitted s
      else if !s.hasSlots c.src then failAt .range 0 s
      else
        let left := diffNat gs r.codedDone
        let s := s.modRound e (fun r => { r with decoding := true })
        if left.isEmpty && s.stripsIdle e then
          okRes [] ((s.modRound e (fun r => { r with decoding := false })).changeRound e .unmasked)
        else if left.isEmpty then (.run (.coded e s.plot.nextJob), s)
        else
          let (id, s) := s.startJob c.src c.id r.part (.coded e) [] (c.w 1) left
          (.run (.coded e id), s.checkReach))

def execCodedDecode (src : Source) (pkt : Packet) (s : State) : Host.Outcome State Fault Refusal :=
  runRow specCodedDecode bodyCodedDecode src pkt s

/-- The product of (x − β) over a list, coefficients in ascending order, modulo p. -/
def polyFrom (p : Nat) : List Nat → List Nat
  | [] => [1 % p]
  | b :: t =>
    let q := polyFrom p t
    List.zipWith (fun x y => (x + y) % p) (0 :: q) ((q.map (fun c => (p - b % p) * c % p)) ++ [0])

/-- Column j of the inverse of the Vandermonde matrix over the points `bs`: the coefficients of the Lagrange polynomial of
point `b` (R357). -/
def lagrange (p : Nat) (bs : List Nat) (b : Nat) : List Nat :=
  let others := bs.filter (· != b)
  let den := others.foldl (fun d o => d * ((b + p - o % p) % p) % p) (1 % p)
  let inv := invMod p den
  (polyFrom p others).map (fun c => c * inv % p)

/-- The rows of A and B of a coded group's decode: the matrix M, and the stored vectors by element. -/
def Round.groupMatrices (r : Round) (p g : Nat) : List (List Nat) × List (List Nat) :=
  let js := r.decodeFrom g
  let bs := js.map (fun c => c % r.policy.shares + 1)
  let cols := bs.map (lagrange p bs)
  let vecs := js.map (fun c => ((Tab.find? r.codedStore c).map (·.vals)).getD [])
  ((List.range r.codedK).map (fun k => cols.map (fun l => l.getD k 0)), vecs)

/-- Bring element `i` of the concatenated layout to its segment. -/
def placeElement : List Nat → Nat → Nat → Option (Nat × Nat)
  | [], _, _ => none
  | len :: t, seg, i => if i < len then some (seg, i) else placeElement t (seg + 1) (i - len)

/-- SUB items for the values `vals` of layout elements from `i` on, one item for each strip met. -/
def subItems (m : Modulus) (lens : List Nat) : Nat → Nat → List Nat → List StripItem
  | 0, _, _ => []
  | fuel + 1, i, vals =>
    if vals.isEmpty then []
    else match placeElement lens 0 i with
      | none => []
      | some (seg, x) =>
        let j := x / m.strip
        let n := min (m.strip - x % m.strip) (lens.getD seg 0 - x)
        { seg := seg, rep := 0, strip := j, sub := true, what := .decoded x (vals.take n) } :: subItems m lens fuel (i + n) (vals.drop n)

/-- A group's decode is whole: its items are queued (R357). -/
def State.groupDone (s : State) (e g : Nat) (outs : List (Nat × List Int)) : State :=
  match s.round? e with
  | none => s
  | some r =>
    let m := r.modulus.getD .m16
    let l := r.codedL
    let row (k : Nat) : List Nat :=
      outs.flatMap (fun (_, vs) => let w := vs.length / r.codedK; (window vs (k * w) w).map Int.toNat)
    let lens := r.segs.map (·.len)
    let items := (List.range r.codedK).flatMap (fun k => subItems m lens (l + lens.length) (k * l) ((row k).take (r.totalElements - k * l)))
    s.setRound e { r with strips := r.strips ++ items, codedDone := insertNat g r.codedDone }

/-! ### Reading a tile's operands -/

/-- Rows of bytes, `stride` apart. -/
def State.readRows (s : State) (pb : Byte) (ps : Pages) (a stride len : Nat) : Nat → Except Status (List Bytes) × State
  | 0 => (.ok [], s)
  | n + 1 =>
    match s.readRange pb ps a len with
    | (.error st, s) => (.error st, s)
    | (.ok b, s) =>
      match s.readRows pb ps (a + stride) stride len n with
      | (.error st, s) => (.error st, s)
      | (.ok t, s) => (.ok (b :: t), s)

/-- The rows of B that a tile's columns take, K block by K block where a model holds them: `held` are the first of them, which the Plot's
shadow registers hold already (R486, R488). -/
def State.tileB (s : State) (j : Job) (t : Tile) (f : Format) (k : Nat) (held : List (List Nat)) : Except Status (List (List Nat)) × State :=
  let pb := partByte (some j.part)
  match s.modelOf j with
  | some m =>
    (match s.partition? m.owner with
     | none => (.error .targetReset, s)
     | some r =>
       let rb := f.rowBytes 128
       let h := min k held.length
       match s.readRows pb (storePages r m.chunks m.storeBytes) (t.col0 / 128 * (m.kBlocks * f.blockBytes) + rb * h) rb rb (k - h) with
       | (.error st, s) => (.error st, s)
       | (.ok rows, s) => (.ok (held.take h ++ rows.map (fun b => f.elements b t.cols)), s))
  | none =>
    match s.readRows pb (s.jobPages j) (pair j.word 8 + t.col0 * f.bits / 8) (f.rowBytes (j.word 5)) (f.rowBytes t.cols) k with
    | (.error st, s) => (.error st, s)
    | (.ok rows, s) => (.ok (rows.map (fun b => f.elements b t.cols)), s)

/-- Columns of a list of rows. -/
def columns (n : Nat) (rows : List (List Nat)) : List (List Nat) := (List.range n).map (fun c => rows.map (fun r => r.getD c 0))

/-- The accumulators of a tile and its flags. -/
def MatSpec.tile (t : MatSpec) (row0 col0 : Nat) (rows cols : List (List Nat)) : List Int × Nat :=
  let es := (List.zip (List.range rows.length) rows).flatMap (fun (i, r) =>
    (List.zip (List.range cols.length) cols).map (fun (c, col) => t.element (row0 + i) (col0 + c) r col))
  (es.map (·.1), es.foldl (fun g e => g ||| e.2) 0)

/-- What a Plot computes for a tile: what it will drain, flags and clamps, and the weight rows that its passes took, in order. -/
structure TileSum where
  acc : List Int := []
  flags : Nat := 0
  clamped : Nat := 0
  weights : List (List Nat) := []

def sumMatmul (s : State) (j : Job) (t : Tile) (held : List (List Nat)) : Except Status TileSum × State :=
  let m := s.specOf j
  let k := pair j.word 2
  let rb := m.fmt.rowBytes k
  match s.readRows (partByte (some j.part)) (s.jobPages j) (pair j.word 6 + rb * t.row0) rb rb t.rows with
  | (.error st, s) => (.error st, s)
  | (.ok rows, s) =>
    match s.tileB j t m.fmt k held with
    | (.error st, s) => (.error st, s)
    | (.ok b, s) =>
      let (acc, g) := m.tile t.row0 t.col0 (rows.map (fun r => m.fmt.elements r k)) (columns t.cols b)
      (.ok { acc := acc, flags := g, weights := b }, s)

def sumReduce (s : State) (j : Job) (t : Tile) : Except Status TileSum × State :=
  let f := fmtOf (bits (j.word 0) 7 4)
  let rb := f.rowBytes (j.word 2)
  match s.readRows (partByte (some j.part)) (s.jobPages j) (pair j.word 4 + rb * t.row0) rb rb t.rows with
  | (.error st, s) => (.error st, s)
  | (.ok rows, s) =>
    (.ok { acc := rows.flatMap (fun r =>
      let w := winner f (!bit (j.word 0) 0) (f.elements r (j.word 2))
      [(w.1 : Int), (f.widen w.2 : Int)]) }, s)

def sumEltwise (s : State) (j : Job) (t : Tile) : Except Status TileSum × State :=
  let f := fmtOf (bits (j.word 0) 7 4)
  let off := t.row0 * f.bits / 8
  let n := f.rowBytes t.rows
  let pb := partByte (some j.part)
  match s.readRange pb (s.jobPages j) (pair j.word 2 + off) n with
  | (.error st, s) => (.error st, s)
  | (.ok a, s) =>
    match if usesB j.word then s.readRange pb (s.jobPages j) (pair j.word 4 + off) n else (.ok [], s) with
    | (.error st, s) => (.error st, s)
    | (.ok b, s) =>
      let es := (List.range t.rows).map (fun k =>
        eltwise f (bits (j.word 0) 3 0) (j.word 8) (Config.freeNat (s.freeCtr + k)) (f.element a k) (f.element b k))
      let s := { s with freeCtr := s.freeCtr + t.rows }
      (.ok { acc := es.map (fun e => (e.1 : Int)), clamped := (es.filter (·.2)).length }, s)

/-- A coded group's tile: a record store that holds bad data aborts the round (Table 1.5). -/
def sumCoded (s : State) (e : Nat) (j : Job) (t : Tile) : Except Status TileSum × State :=
  match s.round? e with
  | none => (.error .aborted, s)
  | some r =>
    match Tab.find? r.badData storesKey with
    | some st => (.error st, s.badRoundData e st)
    | none =>
      let m := s.specOf j
      let (a, b) := r.groupMatrices m.p (j.groups.getD (t.tile / r.groupTiles) 0)
      let b := b.map (fun v => window v t.col0 t.cols)
      let (acc, g) := m.tile t.row0 t.col0 (window a t.row0 t.rows) (columns t.cols b)
      (.ok { acc := acc, flags := g, weights := b }, s)

/-- Log 80 DEDUCED. -/
def State.tileSum (s : State) (j : Job) (t : Tile) (held : List (List Nat)) : Except Status TileSum × State :=
  match j.kind with
  | .matmul => sumMatmul s j t held
  | .reduceIdx => sumReduce s j t
  | .eltwise => sumEltwise s j t
  | .coded e => sumCoded s e j t

/-- Plot cycles of a tile (R457), without the first block's shadow load where the registers hold it (R488); of a tile of REDUCE_IDX or
ELTWISE no rule gives them. [log 79 DESIGN CHOICE] -/
def State.tileCycles (s : State) (j : Job) (t : Tile) (matched : Bool) : Nat × State :=
  let m := s.specOf j
  let mat (k : Nat) : Nat := (if matched then 0 else 128) +
    ceilDiv k (kBlock m.fmt m.mode) * max (t.rows * rowCycles m.fmt m.mode) 128 + 256 + t.rows + 8 * ceilDiv t.rows 128
  match j.kind with
  | .matmul => (mat (pair j.word 2), s)
  | .coded e => (mat (((s.round? e).map (·.policy.threshold)).getD 0), s)
  | _ => s.freeNat

/-! ### TILE_CLAIM (R459, R466, R467, R480 to R482, R494, R499, R662) -/

/-- An uncorrectable error of Plot `k`'s SRAM: its tile goes back, a second one disables the Plot (R467). [log 89 DEDUCED] -/
def State.plotError (s : State) (k : Nat) (p : Fin 64) : State :=
  let s := s.returnTile k
  let x := s.plotOf k
  let off := decide (2 ≤ x.uncorrectable + 1)
  let s := s.setPlot k { x with uncorrectable := x.uncorrectable + 1, disabled := x.disabled || off }
  let s := s.logErr 4 (plotIsland k) (partByte (some p)) (if off then .island else .contained) .sramUce
  if off then (s.raisePf .island).checkReach else s

/-- A block of weights loads into the shadow registers. -/
def Plot.load (b : List (List Nat)) (x : Plot) : Plot := { x with shadowRegs := b }

/-- The swap: what the shadow registers hold becomes active, and what was active is theirs (R439). [log 80 DEDUCED] -/
def Plot.swap (x : Plot) : Plot := { x with shadowRegs := x.activeRegs, activeRegs := x.shadowRegs }

/-- A tile's passes, block after block: each is loaded while the one before streams, and the swap comes at the pass boundary (R439, R461). -/
def Plot.passes (blocks : List (List (List Nat))) (x : Plot) : Plot := blocks.foldl (fun x b => (x.load b).swap) x

/-- With the last pass ended: a tile with a model has loaded its first block again, which stays for the next tile (R486). -/
def Plot.streamed (weights : List (List Nat)) (kb : Nat) (model : Bool) (x : Plot) : Plot :=
  let x := x.passes (pieces kb weights)
  if model then x.load (weights.take kb) else x

/-- A tile runs in Plot `k`: what it holds when its last pass ends, the counters it moved. Its passes replace what the shadow registers held,
so the Plot has no tag until the tile has ended (R486). [log 80 DEDUCED] -/
def State.runTile (s : State) (k d : Nat) (t : Tile) (j : Job) (stalls : Nat) : State :=
  let m := s.specOf j
  let tag := s.tagOf j t
  let held := if tag.isSome && (s.plotOf k).shadow == tag then (s.plotOf k).shadowRegs else []
  let (r, s) := s.tileSum j t held
  let (n, s) := s.tileCycles j t (!held.isEmpty)
  let s := match r with
    | .ok x => s.modPlot k (fun p => { p.streamed x.weights (kBlock m.fmt m.mode) tag.isSome with
        claimed := some d, acc := x.acc, flags := x.flags, clamped := x.clamped, bad := none, shadow := none })
    | .error st => s.modPlot k (fun p => { p with claimed := some d, acc := [], flags := 0, clamped := 0, bad := some st, shadow := none })
  if s.isCold j.part then s
  else (s.modPlot k (fun p => { p with stall := satAdd64 p.stall stalls })).modPartition j.part (fun r =>
    { r with profPlot := satAdd64 r.profPlot (n + stalls) })

/-- A free Plot, its island in RUN, takes the claim. -/
def State.claimTile (s : State) (k : Nat) (found : TileFound) (stalls d : Nat) (t : Tile) (j : Job) : State :=
  let round : Option Nat := match j.kind with
    | .coded e => some e
    | _ => none
  let s := s.allocPlot k j.part round
  let s := { s with part := { s.part with sharesServed := j.part.val }, plot := { s.plot with
      lastClaimable := Tab.insert s.plot.lastClaimable j.part.val s.now } }
  match found with
  | .descriptorUncorrectable =>
    let s := (s.freeTile d).logErr 3 .fe (partByte (some j.part)) .contained .sramUce 0 0 .eccUncorrectable
    ((s.modJob t.job (fun j => { j with failed := some (j.failed.getD .eccUncorrectable) })).checkJob t.job).refill j.part
  | _ =>
    let isl := plotIsland k
    let t := { t with state := .claimed, claimer := some (Fin.ofNat 128 k), claimEpoch := (s.island isl).epoch }
    let s := (s.setTile d t).setLease 0 d (islandLease s j.part isl)
    let s := s.runTile k d t j stalls
    match found with
    | .sramUncorrectable => s.plotError k j.part
    | .corrected =>
      let s := if s.isCold j.part then s else s.modPlot k (fun p => { p with eccCorrected := satAdd32 p.eccCorrected 1 })
      s.logErr 4 isl (partByte (some j.part)) .ce .sramCe
    | _ => s

/-- A Plot that may claim: its island and FE in RUN, not DISABLED, no tile in hand, no pause of claims. -/
def State.plotFree (s : State) (k : Nat) : Bool :=
  s.running (plotIsland k) && s.running .fe && !(s.plotOf k).disabled && (s.plotOf k).claimed.isNone && !s.power.claimPause && !s.power.stopped

/-- TILE_CLAIM: a free Plot claims a descriptor and runs it. -/
def actTileClaim (k : Fin 128) (found : TileFound) (stalls : Nat) (s : State) : State :=
  if !s.plotFree k.val then s
  else match s.plotServes k.val with
    | none => s
    | some p =>
      match s.chooseTile p (s.plotOf k.val).shadow with
      | none => s
      | some (d, t, j) => (s.claimTile k.val found stalls d t j)

def execTileClaim (k : Fin 128) (found : TileFound) (stalls : Nat) (s : State) : Host.Outcome State Fault Refusal :=
  s.conclude (actTileClaim k found stalls s)

/-! ### TILE_COMPLETE (R449 to R456, R468, R478, R483) -/

/-- Read D for a tile: its rows of elements, or zeros where nothing is fused. -/
def State.tileD (s : State) (j : Job) (t : Tile) (m : MatSpec) : Except Status (List Nat) × State :=
  if !(m.fuseAdd || m.fuseMul) then (.ok (List.replicate (t.rows * t.cols) 0), s)
  else
    let b := m.dBytes
    match s.readRows (partByte (some j.part)) (s.jobPages j) (pair j.word 12 + b * (j.word 5 * t.row0 + t.col0)) (b * j.word 5) (b * t.cols) t.rows with
    | (.error st, s) => (.error st, s)
    | (.ok rows, s) => (.ok (rows.flatMap (fun r => residues b r)), s)

/-- Drain a MATMUL tile: bad data in D, or the flags it ends with. -/
def drainMatmul (s : State) (j : Job) (t : Tile) (x : Plot) : Except Status Nat × State :=
  let m := s.specOf j
  match s.tileD j t m with
  | (.error st, s) => (.error st, s)
  | (.ok ds, s) =>
    let es := List.zipWith m.drain x.acc ds
    let rows := pieces (m.out.bytes * t.cols) (es.flatMap (fun e => leBytes m.out.bytes e.1))
    let s := s.writeC (s.jobPages j) (j.tileC m t) (m.out.bytes * j.word 5) rows
    (.ok (es.foldl (fun g e => g ||| e.2) x.flags), s)

/-- Drain a tile: what is written, and its status flags; a coded decode's MOD_P is fused into its drain (R357, Table 13.6). [log 80 DEDUCED] -/
def State.drainTile (s : State) (j : Job) (t : Tile) (x : Plot) : Except Status Nat × State :=
  match x.bad with
  | some st => (.error st, s)
  | none =>
    match j.kind with
    | .matmul => drainMatmul s j t x
    | .reduceIdx =>
      (.ok x.flags, s.writeRange (s.jobPages j) (pair j.word 6 + 8 * t.row0) (x.acc.flatMap (fun v => leBytes 4 v.toNat)))
    | .eltwise =>
      let f := fmtOf (bits (j.word 0) 7 4)
      (.ok x.flags, s.writeRange (s.jobPages j) (pair j.word 6 + t.row0 * f.bits / 8) (f.pack (x.acc.map Int.toNat)))
    | .coded _ =>
      let p := (s.specOf j).p
      (.ok x.flags, s.modJob t.job (fun j => { j with outs := Tab.insert j.outs t.tile (x.acc.map (fun v => v % (p : Int))) }))

/-- A coded decode goes on to a group's SUB items once all its tiles are in. -/
def State.checkGroup (s : State) (id : Nat) (t : Tile) : State :=
  match s.job? id with
  | none => s
  | some j =>
    match j.kind with
    | .coded e =>
      (match s.round? e with
       | none => s
       | some r =>
         let n := r.groupTiles
         let g := t.tile / n
         let mine := List.filter (fun (y : Nat × List Int) => y.1 / n == g) j.outs
         if mine.length < n then s
         else
           let rest := List.filter (fun (y : Nat × List Int) => y.1 / n != g) j.outs
           (s.groupDone e (j.groups.getD g 0) mine).modJob id (fun j => { j with outs := rest }))
    | _ => s

/-- The results a drained tile adds to its command (R453, R456). -/
def Job.addTile (j : Job) (n flags clamped : Nat) : Job :=
  { j with statusOr := j.statusOr ||| flags, flagged := j.flagged + (if flags = 0 then 0 else 1), clamped := j.clamped + clamped, drained := j.drained ++ [n] }

/-- The tile in Plot `k` ends: drained, its descriptor freed, its command completed with the last. -/
def State.endTile (s : State) (k d : Nat) (t : Tile) (j : Job) : State :=
  let x := s.plotOf k
  let tag := if x.bad.isNone then s.tagOf j t else none
  let (r, s) := s.drainTile j t x
  let s := match r with
    | .ok g => s.modJob t.job (fun j => j.addTile t.tile g x.clamped)
    | .error st => s.modJob t.job (fun j => { j with failed := some (j.failed.getD st) })
  let s := s.modPlot k (fun x => { x.cleared with shadow := tag })
  let s := { s with plot := { s.plot with lastClaimable := Tab.insert s.plot.lastClaimable j.part.val s.now } }
  let s := ((s.freeTile d).progressSrc j.src 1).checkGroup t.job t
  (s.checkJob t.job).refill j.part

/-- The last pass of the tile in Plot `k` ends: its descriptor shows DRAINING, and the flags so far (Table 14.3). -/
def State.drainBegins (s : State) (k d : Nat) (t : Tile) : State :=
  if t.state = .claimed then s.setTile d { t with state := .draining, status := (s.plotOf k).flags } else s

/-- TILE_COMPLETE: the drain of the tile in Plot `k` begins, or completes. -/
def actTileComplete (k : Fin 128) (drained : Bool) (s : State) : State :=
  match (s.plotOf k.val).claimed with
  | none => s
  | some d =>
    if !s.running (plotIsland k.val) || !s.running .fe then s
    else match Tab.find? s.plot.tiles d with
      | none => (s.modPlot k.val Plot.cleared)
      | some t =>
        match s.job? t.job with
        | none => ((s.modPlot k.val Plot.cleared).freeTile d)
        | some j => if drained then s.endTile k.val d t j else s.drainBegins k.val d t

def execTileComplete (k : Fin 128) (drained : Bool) (s : State) : Host.Outcome State Fault Refusal := s.conclude (actTileComplete k drained s)

/-- IDLE_PLOT_RELEASE: an allocated Plot whose partition has had no claimable tile for 1 ms releases its allocation (R662). -/
def actIdlePlotRelease (k : Fin 128) (s : State) : State :=
  let x := s.plotOf k.val
  match x.alloc with
  | none => s
  | some p =>
    if x.claimed.isSome || s.canClaim p || s.now < Tab.get s.plot.lastClaimable 0 p.val + 1000000 then s
    else (s.releasePlot k.val)

def execIdlePlotRelease (k : Fin 128) (s : State) : Host.Outcome State Fault Refusal := s.conclude (actIdlePlotRelease k s)

end Sys2Proof.Machine
end

