-- ==== Sys2Proof/Machine/Experts.lean ====
section
/-!
DEFINITION. EXPAND (R318 to R320), small models and expert routing (R484 to R500): MODEL_LOAD, PLACEMENT_SET, ROUTE_TOPK.
-/

namespace Sys2Proof.Machine
open Sys2Proof

/-! ### EXPAND -/

/-- The modulus of an EXPAND. -/
def expandModulus (w : Params) : Modulus := (modulusOf (bits (w 0) 10 8) (w 1)).getD .m16

def specExpand : OpSpec :=
  { code := 0x0300, callP := true, used := List.range 10
    checks := [.mask 0 0x701, .word 0 .badParam (fun v => 5 ≤ bits v 10 8), .unusedUnless 1 [0] (fun w => bits (w 0) 10 8 == 4),
      { words := [0, 1], name := 1, status := .range, fails := fun w => bits (w 0) 10 8 == 4 && !goodPrime (w 1) },
      .mask 3 0xFFFFFF, .word 3 .badParam (fun v => bits v 23 16 == 0 || bits v 23 16 > 3),
      .word 5 .range (fun v => v == 0),
      { words := [4, 5], name := 4, status := .range, fails := fun w => w 4 + w 5 > 2 ^ 28 },
      .addr 6 1, .addr 8 1, .range48 6 [] (fun _ => 32),
      .range48 8 [0, 5] (fun w => w 5 * (expandModulus w).width)] }

/-- The Sower EXPAND runs on (R664). [log 84 DEDUCED] -/
def State.expandSower (s : State) (p : Fin 64) : Option Nat :=
  ((List.range 32).map (fun i => (p.val % 32 + i) % 32)).find? s.bedServes

/-- EXPAND with its Sower at hand. -/
def expandOn (c : Ctx) (p : Fin 64) (s : State) : BodyOut × State :=
  let m := expandModulus c.w
  let len := c.w 5 * m.width
  c.claim s 6 (pair c.w 6) 32 false (fun kp s =>
    c.claim s 8 (pair c.w 8) len true (fun dp s =>
      c.read s kp (pair c.w 6) 32 (fun key s =>
        let cipher : Cipher := if bit (c.w 0) 0 then .aes256ctr else .chacha20
        let vals := maskResidues cipher m key (maskNonce (c.w 2) (bits (c.w 3) 15 0) (bits (c.w 3) 23 16)) (c.w 4) (c.w 5)
        let bytes := c.w 5 * m.streamBytes
        let s := s.writeRange dp (pair c.w 8) (vals.flatMap (leBytes m.width))
        let s := s.modPartition p (fun q => if q.coldFrame then q else { q with profSower := satAdd64 q.profSower bytes })
        okRes [] (s.progressSrc c.src (bytes / mib)))))

/-- EXPAND: mask residues of a stream, in element order (R318). Its Sower is leased for the command's single step; one that a strip
operation has leased is waited for (R320, R322). Where no Sower serves it waits for its island, or ends with TARGET_RESET or
ECC_UNCORRECTABLE. [log 84 DEDUCED] -/
def bodyExpand : Body := fun c s =>
  match srcPart c.src with
  | none => fail .notPermitted s
  | some p =>
    if s.isCold p then fail .notPermitted s
    else match s.expandSower p with
      | some k => if (s.lease? 2 k).isSome then (.run (.held (.sow (Fin.ofNat 32 k))), s) else expandOn c p s
      | none => c.needs s (.sow (Fin.ofNat 32 p.val)) (fun s => fail .eccUncorrectable s)

def execExpand (src : Source) (pkt : Packet) (s : State) : Host.Outcome State Fault Refusal := runRow specExpand bodyExpand src pkt s

/-! ### MODEL_LOAD (R485 to R487) -/

def specModelLoad : OpSpec :=
  { code := 0x0404, callP := true, callC := true, used := List.range 5
    checks := [.mask 1 0xF, .word 1 .badParam (fun v => 7 ≤ bits v 3 0), .addr 2 64, .word 4 .range (fun v => v == 0 || v > 2 ^ 28),
      .range48 2 [4] (fun w => w 4)] }

/-- The partition whose model region holds an ID, for a caller: its own, or for the control plane the one whose region it
is. -/
def State.modelPartition (s : State) (src : Source) (id : Nat) : Option (Fin 64) :=
  if 16384 ≤ id then none
  else match srcPart src with
    | some p => if s.inRegion p id then some p else none
    | none => (List.map (fun (y : Nat × Partition) => Fin.ofNat 64 y.1) s.part.parts).find? (fun p => s.inRegion p id)

/-- The header of a model's weights against P4: BAD_PARAM or RANGE of P2 (R485). -/
def modelHeader (f : Format) (h : Bytes) (len : Nat) : Option Status :=
  let k := leNat (slice h 4 4)
  let n := leNat (slice h 8 4)
  if leNat (h.take 4) != 0x4C444F4D || !allZero (h.drop 12) then some .badParam
  else if k == 0 || decide (2 ^ 20 < k) || n == 0 || decide (2 ^ 16 < n) || len != 64 + alignUp64 (k * f.rowBytes n) then some .range
  else none

/-- Read weights in a partition's or the control plane's memory and store them. -/
def loadModel (c : Ctx) (p : Fin 64) (s : State) : BodyOut × State :=
  let f := fmtOf (bits (c.w 1) 3 0)
  if c.w 4 < 64 then failAt .range 2 s
  else c.claim s 2 (pair c.w 2) (c.w 4) false (fun ps s =>
    c.read s ps (pair c.w 2) 64 (fun h s =>
      match modelHeader f h (c.w 4) with
      | some st => failAt st 2 s
      | none =>
        c.read s ps (pair c.w 2 + 64) (c.w 4 - 64) (fun b s =>
          match s.storeModel p (c.w 0) f (leNat (slice h 4 4)) (leNat (slice h 8 4)) b with
          | none => failAt .range 0 s
          | some s => okRes [] ((s.unbind p (c.w 0)).progressSrc c.src (c.w 4 / mib)))))

def bodyModelLoad : Body := fun c s =>
  match s.modelPartition c.src (c.w 0) with
  | none => failAt .range 0 s
  | some p =>
    if s.modelBusy (c.w 0) || (s.isCold p && (srcPart c.src).isNone) then fail .notPermitted s
    else loadModel c p s

def execModelLoad (src : Source) (pkt : Packet) (s : State) : Host.Outcome State Fault Refusal :=
  runRow specModelLoad bodyModelLoad src pkt s

/-! ### PLACEMENT_SET (R489, R496) -/

def layerKey (p : Fin 64) (l : Nat) : Nat := 4096 * p.val + l

/-- The expert count of a bank. -/
def LayerTable.bankCount (t : LayerTable) (b : Bool) : Nat := if b then t.count1 else t.count0

def LayerTable.count (t : LayerTable) : Nat := t.bankCount t.active

def specPlacementSet : OpSpec :=
  { code := 0x0405, callP := true, callC := true, used := List.range 4
    checks := [.word 0 .range (fun v => v > 4095), .word 1 .range (fun v => v == 0 || v > 1024), .addr 2 64,
      .range48 2 [1] (fun w => 64 * w 1)] }

/-- One entry's fault, if any: replica count, reserved bytes, model IDs in the region. -/
def State.entryFault (s : State) (p : Fin 64) (e : Bytes) : Option Status :=
  let r := (e.getD 0 0).toNat
  let ids := (List.range 16).map (fun k => leNat (slice e (4 + 2 * k) 2))
  if !allZero (slice e 1 3) || !allZero (slice e 36 28) || !(ids.drop r).all (· == 0) then some .badParam
  else if r == 0 || decide (16 < r) || (ids.take r).any (fun x => !s.inRegion p x) then some .range
  else none

/-- The first fault among entries, BAD_PARAM before RANGE. -/
def State.tableFault (s : State) (p : Fin 64) (es : List Bytes) : Option Status :=
  let fs := es.filterMap (s.entryFault p)
  if fs.contains .badParam then some .badParam else fs.head?

/-- The layer's chunk, taken from the quota at the first PLACEMENT_SET. -/
def State.layerFor (s : State) (p : Fin 64) (l : Nat) : Option (LayerTable × State) :=
  match Tab.find? s.plot.layers (layerKey p l) with
  | some t => some (t, s)
  | none => match s.allocChunks p 1 with
    | some ([k], s) => some ({ chunk := k }, s)
    | _ => none

/-- Bank `b` of a layer's table: its physical address. [log 83 DEDUCED] -/
def State.bankAddr (s : State) (p : Fin 64) (t : LayerTable) (b : Bool) : Nat :=
  ((s.partition? p).map (fun r => r.phys (t.chunk * chunkBytes))).getD 0 + 65536 * b2n b

/-- Write the inactive bank and swap (R489). -/
def State.setPlacement (s : State) (p : Fin 64) (l : Nat) (es : Bytes) : Option State :=
  match s.layerFor p l with
  | none => none
  | some (t, s) =>
    let b := !t.active
    let n := es.length / 64
    let t := { t with active := b, count0 := if b then t.count0 else n, count1 := if b then n else t.count1 }
    let s := s.writePhys (s.bankAddr p t b) es
    some { s with plot := { s.plot with layers := Tab.insert s.plot.layers (layerKey p l) t } }

/-- A ROUTE_TOPK of a partition's layer that executes uses bank `b` (R496). -/
def State.bankInUse (s : State) (p : Fin 64) (l : Nat) (b : Bool) : Bool :=
  s.q.cmds.any (fun c => match c.phase with
    | .executing (.route l' b') => srcPart c.src == some p && l' == l && b' == b
    | _ => false)

/-- PLACEMENT_SET; its inactive bank may be one that a ROUTE_TOPK still uses (R496). [log 81 DEDUCED, 83 DEDUCED] -/
def bodyPlacementSet : Body := fun c s =>
  match srcPart c.src with
  | none => failAt .range 0 s
  | some p =>
    if (Tab.find? s.plot.layers (layerKey p (c.w 0))).any (fun t => s.bankInUse p (c.w 0) (!t.active)) then fail .notPermitted s
    else c.claim s 2 (pair c.w 2) (64 * c.w 1) false (fun ps s =>
      c.read s ps (pair c.w 2) (64 * c.w 1) (fun b s =>
        match s.tableFault p (pieces 64 b) with
        | some st => failAt st 2 s
        | none => match s.setPlacement p (c.w 0) b with
          | none => failAt .range 0 s
          | some s => okRes [] s))

def execPlacementSet (src : Source) (pkt : Packet) (s : State) : Host.Outcome State Fault Refusal :=
  runRow specPlacementSet bodyPlacementSet src pkt s

/-! ### ROUTE_TOPK (R490 to R493) -/

/-- Score bytes of a ROUTE_TOPK. -/
def scoreBytes (w : Params) : Nat := w 2 * (fmtOf (bits (w 0) 7 4)).rowBytes (w 1)

def routeBytes (w : Params) : Nat := 8 * w 2 * bits (w 0) 3 0

def specRouteTopk : OpSpec :=
  { code := 0x0401, callP := true, callC := true, used := List.range 11
    checks := [.mask 0 0xFF, .word 0 .range (fun v => bits v 3 0 == 0 || bits v 3 0 > 8),
      .word 0 .badParam (fun v => bits v 7 4 != 4 && bits v 7 4 != 5 && bits v 7 4 != 7),
      .word 1 .range (fun v => v == 0 || v > 1024), .word 2 .range (fun v => v == 0 || v > 2 ^ 20), .word 3 .range (fun v => v > 4095),
      { words := [0, 1], name := 0, status := .range, fails := fun w => bits (w 0) 3 0 > w 1 },
      .addr 4 1, .addr 6 1, .addr 8 1, .range48 4 [0, 1, 2] scoreBytes, .range48 6 [0, 2] routeBytes, .range48 8 [0, 2] routeBytes,
      .word 10 .range (fun v => v == 0 || v > 2 ^ 20)] }

/-- A choice of a token: expert, replica, rank, score and whether it spilled. -/
structure Choice where
  token : Nat
  rank : Nat
  expert : Nat
  replica : Nat
  score : Nat
  spilled : Bool

/-- Assign a token's choices in rank order; `loads` counts each replica's assignments at key 16 × expert + replica. -/
def assignChoices (f : Format) (reps : List Nat) (cap token : Nat) : Nat → List (Nat × Nat) → Tab Nat → List Choice × Tab Nat
  | _, [], loads => ([], loads)
  | rank, (e, v) :: t, loads =>
    let r := token % max 1 (reps.getD e 1)
    let n := Tab.get loads 0 (16 * e + r)
    let full := decide (cap ≤ n)
    let loads := if full then loads else Tab.insert loads (16 * e + r) (n + 1)
    let (l, loads) := assignChoices f reps cap token (rank + 1) t loads
    ({ token := token, rank := rank, expert := e, replica := r, score := f.widen v, spilled := full } :: l, loads)

/-- Route tokens in ascending ordinal (R492). -/
def routeTokens (f : Format) (k : Nat) (reps : List Nat) (cap : Nat) : Nat → List (List Nat) → Tab Nat → List Choice
  | _, [], _ => []
  | token, row :: t, loads =>
    let (l, loads) := assignChoices f reps cap token 0 (topK f k (List.zip (List.range row.length) row)) loads
    l ++ routeTokens f k reps cap (token + 1) t loads

/-- The record of a choice, and of a spilled one (R493). -/
def Choice.record (c : Choice) : Bytes := leBytes 2 c.expert ++ leBytes 1 c.replica ++ leBytes 1 (b2n c.spilled) ++ leBytes 4 c.score
def Choice.spill (c : Choice) : Bytes := leBytes 4 c.token ++ leBytes 2 c.expert ++ leBytes 1 c.rank ++ leBytes 1 c.replica

/-- Replica counts of a bank. -/
def State.readReplicas (s : State) (p : Fin 64) (t : LayerTable) (b : Bool) : Except Status (List Nat) × State :=
  let a := s.bankAddr p t b
  let n := 64 * t.bankCount b
  match s.consumeLines (partByte (some p)) (linesOf a n) with
  | (some st, s) => (.error st, s)
  | (none, s) => (.ok ((pieces 64 (memRead s.part.mem a n)).map (fun e => (e.getD 0 0).toNat)), s)

/-- ROUTE_TOPK at stage 4 takes the layer's active bank for its whole run (R490); a caller without a placement table for the layer gets
NOT_PERMITTED. [log 81 DEDUCED] -/
def bodyRouteTopk : Body := fun c s =>
  match (srcPart c.src).bind (fun p => Tab.find? s.plot.layers (layerKey p (c.w 3))) with
  | none => failAt .notPermitted 3 s
  | some t =>
    if t.count ≠ c.w 1 then failAt .range 1 s
    else c.claim s 4 (pair c.w 4) (scoreBytes c.w) false (fun _ s =>
      c.claim s 6 (pair c.w 6) (routeBytes c.w) true (fun _ s =>
        c.claim s 8 (pair c.w 8) (routeBytes c.w) true (fun _ s => (.run (.route (c.w 3) t.active), s))))

/-- What a ROUTE_TOPK with words `w` and translations `ps` makes of bank `b`: its records written and the spilled ones counted, or what bad
data ends it with, no record written (R491 to R493, R500). -/
def State.route (s : State) (p : Fin 64) (w : Params) (ps : Pages) (b : Bool) : Except Status Nat × State :=
  let f := fmtOf (bits (w 0) 7 4)
  match Tab.find? s.plot.layers (layerKey p (w 3)) with
  | none => (.error .revoked, s)
  | some t => match s.readReplicas p t b with
    | (.error st, s) => (.error st, s)
    | (.ok reps, s) => match s.readRange (partByte (some p)) ps (pair w 4) (scoreBytes w) with
      | (.error st, s) => (.error st, s)
      | (.ok d, s) =>
        let rows := (pieces (f.rowBytes (w 1)) d).map (fun r => f.elements r (w 1))
        let cs := routeTokens f (bits (w 0) 3 0) reps (w 10) 0 rows []
        let spills := cs.filter (·.spilled)
        let s := s.writeRange ps (pair w 6) (cs.flatMap Choice.record)
        (.ok spills.length, s.writeRange ps (pair w 8) (spills.flatMap Choice.spill))

/-- ROUTE_TOPK ends. -/
def State.endRoute (s : State) (c : Cmd) (b : Bool) : State :=
  match srcPart c.src with
  | none => s
  | some p => match s.route p c.w c.pages b with
    | (.error st, s) => s.complete c.src c.id st []
    | (.ok n, s) => s.complete c.src c.id .ok [w32 n]

def execRouteTopk (src : Source) (pkt : Packet) (s : State) : Host.Outcome State Fault Refusal :=
  runRow specRouteTopk bodyRouteTopk src pkt s

end Sys2Proof.Machine
end

