-- ==== Sys2Proof/Machine/ShedCmds.lean ====
section
/-!
DEFINITION. KEY_WRITE, KEY_DERIVE, KEY_ERASE and KEY_INFO (Table 5.14, R693 to R697).
-/

namespace Sys2Proof.Machine
open Sys2Proof

/-- Usage and destination word: RSVD bits, and mask bits 6 and 7, at 0 (R693). -/
def usageWord (n : Nat) : Check := .mask n 0x3F1F

/-- Key bytes: 16, 32 or 48; 32 with ENCRYPT or DECRYPT (R693). -/
def keyBytesWord (n uw : Nat) : List Check :=
  [.word n .range (fun v => v != 16 && v != 32 && v != 48),
   { words := [n, uw], name := n, status := .range, fails := fun w => bits (w uw) 1 0 != 0 && w n != 32 }]

def specKeyWrite : OpSpec :=
  { code := 0x0600, big := true, callC := true, callM := true, noIndirect := true, used := [0, 1, 2] ++ (List.range 12).map (· + 8),
    checks := [.mask 0 0x3FFF, usageWord 1] ++ keyBytesWord 2 1 }

/-- The bytes of the words from `n` on. -/
def wordBytes (w : Params) (n count : Nat) : Bytes := (List.range count).flatMap (fun k => leBytes 4 (w (n + k)))

/-- KEY_WRITE fills an EMPTY tenant slot with ORIGIN 0, once the Shed has done its work; a request to a Shed that is not in RUN is held, or
refused, at its crossing (R76, R91), as are those of the commands below. [log 152 DEDUCED] -/
def bodyKeyWrite : Body := fun c s => c.needs s .shed fun s =>
  let n := bits (c.w 0) 7 0
  match s.keyDest n with
  | some st => fail st s
  | none =>
    (.run (.keyStore n (Fin.ofNat 64 (bits (c.w 0) 13 8)) (bits (c.w 1) 4 0) (bits (c.w 1) 15 8) (c.w 2) false
      ((wordBytes c.w 8 12).take (c.w 2))), s)

def execKeyWrite (src : Source) (pkt : Packet) (s : State) : Host.Outcome State Fault Refusal :=
  runRow specKeyWrite bodyKeyWrite src pkt s

def specKeyDerive : OpSpec :=
  { code := 0x0601, callP := true, callC := true, used := List.range 12,
    checks := [.mask 0 0xFFFF, usageWord 1, .word 3 .range (fun v => v > 32)] ++ keyBytesWord 2 1 }

def useDerive : SlotUse := { usage := fun u => u.getLsbD 3, mask := 2, length := none }

/-- KEY_DERIVE: HKDF-SHA-256 of the source key, the label, the source's owner and the info bytes (R695). -/
def bodyKeyDerive : Body := fun c s => c.needs s .shed fun s =>
  let a := bits (c.w 0) 7 0
  let b := bits (c.w 0) 15 8
  if a < 16 || b < 16 then fail .notPermitted s
  else match s.useSlot c.src a useDerive false with
    | (.error st, s) => fail st s
    | (.ok key, s) =>
      match s.keyDest b with
      | some st => fail st s
      | none =>
        let owner := (s.slot a).owner
        if (srcPart c.src).isSome && 8 ≤ s.derivedSlots owner then failAt .range 0 s
        else
          let info := ascii "ARKDERV1" ++ leBytes 1 owner.val ++ (wordBytes c.w 4 8).take (c.w 3)
          (.run (.keyStore b owner (bits (c.w 1) 4 0) (bits (c.w 1) 15 8) (c.w 2) (srcPart c.src).isSome (hkdf256 key [] info (c.w 2))), s)

def execKeyDerive (src : Source) (pkt : Packet) (s : State) : Host.Outcome State Fault Refusal :=
  runRow specKeyDerive bodyKeyDerive src pkt s

def specKeyErase : OpSpec := { code := 0x0602, callC := true, callM := true, used := [0], checks := [.mask 0 0xFF] }

/-- KEY_ERASE scrubs a VALID or BAD slot; an EMPTY one completes with OK. -/
def bodyKeyErase : Body := fun c s => c.needs s .shed fun s =>
  let n := bits (c.w 0) 7 0
  if n < 16 || s.slotBound n then fail .notPermitted s else (.run (.keyErase n), s)

def execKeyErase (src : Source) (pkt : Packet) (s : State) : Host.Outcome State Fault Refusal :=
  runRow specKeyErase bodyKeyErase src pkt s

def specKeyInfo : OpSpec := { code := 0x0603, callP := true, callC := true, callM := true, used := [0], checks := [.mask 0 0xFF] }

/-- Usage, mask, length and state of a device slot (Table 20.2). -/
def State.deviceSlotInfo (s : State) (n : Nat) : List Nat :=
  let held := if n < 2 then s.shed.pufRoot.isSome else s.shed.batteryRoot.isSome
  if 4 < n || !held then [0, 0, 0]
  else if n = 0 then [0x10 + 2 ^ 8 * 8, 32 * 2 ^ 16, 1]
  else [0, 32 * 2 ^ 16, 1]

/-- KEY_INFO: a P caller sees its own tenant slots, C and M callers every slot (Table 20.5). -/
def bodyKeyInfo : Body := fun c s => c.needs s .shed fun s =>
  let n := bits (c.w 0) 7 0
  let r := s.slot n
  let may := match c.src with
    | .part p _ => decide (16 ≤ n) && r.state != .empty && r.owner == p
    | _ => true
  if !may then fail .notPermitted s
  else if n < 16 then okRes (s.deviceSlotInfo n) s
  else okRes [r.usage.toNat + 2 ^ 8 * r.mask.toNat, r.owner.val + 2 ^ 16 * r.length, r.state.code] s

def execKeyInfo (src : Source) (pkt : Packet) (s : State) : Host.Outcome State Fault Refusal :=
  runRow specKeyInfo bodyKeyInfo src pkt s

end Sys2Proof.Machine
end

