-- ==== Sys2Proof/Machine/Contexts.lean ====
section
/-!
DEFINITION. The Digest and AEAD contexts (R734 to R737) and the commands that take them: DIGEST, AEAD_SEAL, AEAD_OPEN,
WEIGHTS_LOAD; the binding records (R731 to R733).
-/

namespace Sys2Proof.Machine
open Sys2Proof

/-! ### Contexts -/

/-- Context numbers of an engine: 0 to 15 Digest, 16 to 31 AEAD. -/
def engineBase (aead : Bool) : Nat := if aead then 16 else 0

def contextClass (aead : Bool) : Nat := if aead then 6 else 5

def State.holderOf (s : State) (c : Nat) : Option (Source × Nat) := Tab.find? s.attest.contexts c

def contextsOf (aead : Bool) : List Nat := (List.range 16).map (· + engineBase aead)

/-- Contexts of an engine that a requester holds. -/
def State.heldBy (s : State) (aead : Bool) (src : Source) : Nat :=
  ((contextsOf aead).filter (fun c => (s.holderOf c).any (fun h => srcPart h.1 == srcPart src))).length

/-- Log 87 DEDUCED. -/
def State.freeContext (s : State) (aead : Bool) : Option Nat := (contextsOf aead).find? (fun c => (s.holderOf c).isNone)

def State.waiters (s : State) (aead : Bool) : List (Source × Nat) := if aead then s.attest.waitAead else s.attest.waitDigest

def State.setWaiters (s : State) (aead : Bool) (l : List (Source × Nat)) : State :=
  if aead then { s with attest := { s.attest with waitAead := l } } else { s with attest := { s.attest with waitDigest := l } }

/-- The lease of an agent. -/
def agentLease (s : State) (src : Source) : Option Lease :=
  (srcAgent src).map (fun a => { owner := srcPart src, holder := .agent a (s.agentEpoch a) })

/-- Context `c` given to a command, under its lease. -/
def State.giveContext (s : State) (aead : Bool) (c : Nat) (src : Source) (id : Nat) : State :=
  let put (w : Work) : Work := match w with
    | .context a _ key iv aad input => .context a (some c) key iv aad input
    | .weights d e key cs b h o => if aead then .weights d (some c) key cs b h o else .weights (some c) e key cs b h o
    | w => w
  let s := { s with attest := { s.attest with contexts := Tab.insert s.attest.contexts c (src, id) } }
  let s := s.modCmd src id (fun x => match x.phase with
    | .executing w => { x with phase := .executing (put w) }
    | _ => x)
  match agentLease s src with
  | some l => s.setLease (contextClass aead) (c - engineBase aead) l
  | none => s

/-- Take a context, or join the queue of commands that wait for one; those that wait come first (R735, R741). [log 87 DEDUCED] -/
def State.seekContext (s : State) (aead : Bool) (src : Source) (id : Nat) : State :=
  match s.freeContext aead with
  | some c => if s.heldBy aead src < 4 && (s.waiters aead).isEmpty then s.giveContext aead c src id
      else s.setWaiters aead (s.waiters aead ++ [(src, id)])
  | none => s.setWaiters aead (s.waiters aead ++ [(src, id)])

/-- CONTEXT_GRANT: a free context goes to the oldest waiting command whose requester holds fewer than 4 (R735). -/
def actContextGrant (aead : Bool) (s : State) : State :=
  if !s.running .dig then s
  else match s.freeContext aead, (s.waiters aead).find? (fun w => decide (s.heldBy aead w.1 < 4)) with
    | some c, some (src, id) => ((s.setWaiters aead ((s.waiters aead).filter (· != (src, id)))).giveContext aead c src id)
    | _, _ => s

def execContextGrant (aead : Bool) (s : State) : Host.Outcome State Fault Refusal := s.conclude (actContextGrant aead s)

/-- Scrub and return a context. -/
def State.dropContext (s : State) (c : Nat) : State :=
  ({ s with attest := { s.attest with contexts := Tab.erase s.attest.contexts c } }).dropLease (contextClass (decide (16 ≤ c))) (c % 16)

/-- Return everything a command holds or waits for in the engines. -/
def State.dropContexts (s : State) (src : Source) (id : Nat) : State :=
  let cs := (List.range 32).filter (fun c => s.holderOf c == some (src, id))
  let s := cs.foldl State.dropContext s
  { s with attest := { s.attest with
      waitDigest := s.attest.waitDigest.filter (· != (src, id)), waitAead := s.attest.waitAead.filter (· != (src, id)) } }

/-- What a command that loads weights gives back when it fails: the store it took (R730). -/
def State.dropWeights (s : State) (src : Source) (id : Nat) : State :=
  match s.cmd? src id with
  | none => s
  | some c => match c.phase, srcPart src with
    | .executing (.weights _ _ _ cs _ _ _), some p => s.scrubAll p cs
    | _, _ => s

/-- End a command of the engines with a failure. -/
def State.failContext (s : State) (src : Source) (id : Nat) (st : Status) (res : List W32) : State :=
  ((s.dropWeights src id).dropContexts src id).complete src id st res

/-- A reset of DIG: every command that holds a context ends with TARGET_RESET, every context is scrubbed (R742). -/
def State.digReset (s : State) : State :=
  let hs := (List.range 32).filterMap s.holderOf
  let s := hs.foldl (fun s h => match s.cmd? h.1 h.2 with
    | some _ => s.failContext h.1 h.2 .targetReset []
    | none => s) s
  { s with attest := { s.attest with contexts := [], runDigest := 0, runAead := 16 } }

/-- Shears revokes context `c` (R188). -/
def State.revokeContext (s : State) (c : Nat) : State :=
  match s.holderOf c with
  | none => s
  | some (src, id) => s.failContext src id .revoked []

/-! ### Binding records (R731 to R733) -/

/-- The fields that a record's tag covers. -/
def Binding.body (b : Binding) : Bytes :=
  leBytes 4 b.model ++ leBytes 2 b.generation.toNat ++ fit 16 b.blobId ++ fit 48 b.blobDigest ++ leBytes 8 b.time

/-- A record passes its check. -/
def State.bindingOk (s : State) (b : Binding) : Bool :=
  match s.weightRoot with
  | some k => b.tag == hmac256 k b.body
  | none => false

/-- Write a model's record. -/
def State.bind (s : State) (p : Fin 64) (model : Nat) (blobId digest : Bytes) : State :=
  let b : Binding := { model := model, generation := Tab.get s.plot.modelGen 0 model, blobId := blobId, blobDigest := digest, time := s.now }
  let b := { b with tag := ((s.weightRoot).map (fun k => hmac256 k b.body)).getD [] }
  s.setBindings p ((s.bindingsOf p).filter (fun x => x.model != model) ++ [b])

/-- Empty a model entry: its store is scrubbed, its record removed. -/
def State.emptyModel (s : State) (p : Fin 64) (model : Nat) : State := (s.dropModel model).unbind p model

/-! ### DIGEST, AEAD_SEAL, AEAD_OPEN -/

def useDigest : SlotUse := { usage := fun u => u.getLsbD 3 || u.getLsbD 4, mask := 1, length := none }
def useSeal : SlotUse := { usage := fun u => u.getLsbD 0, mask := 0, length := some 32 }
def useOpen : SlotUse := { usage := fun u => u.getLsbD 1, mask := 0, length := some 32 }

def specDigest : OpSpec :=
  { code := 0x0700, callP := true, callC := true, used := [0, 2, 3, 4, 5, 6, 7]
    checks := [.mask 0 0xFF03, .word 0 .badParam (fun v => bits v 1 0 < 2 && bits v 15 8 != 0), .addr 2 1,
      .pair64 4 .range (fun v => v > 2 ^ 40), .addr 6 1, .range48 2 [4, 5] (fun w => pair w 4), .range48 6 [] (fun _ => 48)] }

/-- Start work in an engine: it waits for its context (R734). -/
def Ctx.engine (c : Ctx) (s : State) (aead : Bool) (key iv aad : Bytes) : BodyOut × State :=
  let w : Work := .context aead none key iv aad []
  let s := s.modCmd c.src c.id (fun x => { x with phase := .executing w })
  (.run w, s.seekContext aead c.src c.id)

/-- The key of an HMAC, or none. -/
def Ctx.digestKey (c : Ctx) (s : State) (k : Bytes → State → BodyOut × State) : BodyOut × State :=
  if bits (c.w 0) 1 0 < 2 then k [] s
  else match s.useSlot c.src (bits (c.w 0) 15 8) useDigest false with
    | (.error st, s) => fail st s
    | (.ok key, s) => k key s

def bodyDigest : Body := fun c s =>
  c.digestKey s (fun key s =>
    c.claim s 2 (pair c.w 2) (pair c.w 4) false (fun _ s =>
      c.claim s 6 (pair c.w 6) 48 true (fun _ s => c.needs s .dig (fun s => c.engine s false key [] []))))

def execDigest (src : Source) (pkt : Packet) (s : State) : Host.Outcome State Fault Refusal := runRow specDigest bodyDigest src pkt s

/-- AEAD_SEAL and AEAD_OPEN: `grow` and `shrink` turn input bytes into output bytes. -/
def specAead (code lo hi : Nat) (out : Nat → Nat) : OpSpec :=
  { code := code, callP := true, callC := true, used := List.range 12
    checks := [.mask 0 0xFF, .word 1 .range (fun v => v > 65536), .addr 2 1, .pair64 4 .range (fun v => v < lo || v > hi), .addr 6 1, .addr 8 1,
      .addr 10 1, .range48 2 [4, 5] (fun w => pair w 4), .range48 6 [4, 5] (fun w => out (pair w 4)), .range48 8 [] (fun _ => 12),
      .range48 10 [1] (fun w => w 1)] }

def sealOut (n : Nat) : Nat := n + 16
def openOut (n : Nat) : Nat := n - 16

def specAeadSeal : OpSpec := specAead 0x0604 0 (2 ^ 36 - 32) sealOut
def specAeadOpen : OpSpec := specAead 0x0605 16 (2 ^ 36 - 16) openOut

/-- Log 87 DEDUCED. -/
def bodyAead (use : SlotUse) (out : Nat → Nat) : Body := fun c s =>
  match s.useSlot c.src (bits (c.w 0) 7 0) use false with
  | (.error st, s) => fail st s
  | (.ok key, s) =>
    c.claim s 2 (pair c.w 2) (pair c.w 4) false (fun _ s =>
      c.claim s 6 (pair c.w 6) (out (pair c.w 4)) true (fun _ s =>
        c.claim s 8 (pair c.w 8) 12 false (fun ip s =>
          c.claim s 10 (pair c.w 10) (c.w 1) false (fun ap s =>
            c.read s ip (pair c.w 8) 12 (fun iv s =>
              c.read s ap (pair c.w 10) (c.w 1) (fun aad s =>
                c.needs s .dig (fun s => c.engine s true key iv aad)))))))

def bodyAeadSeal : Body := bodyAead useSeal sealOut
def bodyAeadOpen : Body := bodyAead useOpen openOut

def execAeadSeal (src : Source) (pkt : Packet) (s : State) : Host.Outcome State Fault Refusal :=
  runRow specAeadSeal bodyAeadSeal src pkt s

def execAeadOpen (src : Source) (pkt : Packet) (s : State) : Host.Outcome State Fault Refusal :=
  runRow specAeadOpen bodyAeadOpen src pkt s

/-- The 48 bytes a DIGEST writes: after SHA-256 or its HMAC the last 16 are free, as no rule gives them. [log 86 DESIGN CHOICE] -/
def digestOut (alg : Nat) (key input free : Bytes) : Bytes :=
  match alg with
  | 0 => sha256 input ++ free
  | 1 => sha384 input
  | 2 => hmac256 key input ++ free
  | _ => hmac384 key input

/-- The outcome of a whole message: status, and where its output is written. [log 86 DESIGN CHOICE] -/
def State.endMessage (s : State) (c : Cmd) (key iv aad input : Bytes) : State :=
  let a := pair c.w 6
  let op := c.pkt.header.op.toNat
  if op = 0x0700 then
    let (free, s) := s.freeBytes 16
    (((s.writeRange c.pages a (digestOut (bits (c.w 0) 1 0) key input free)).dropContexts c.src c.id)).complete c.src c.id .ok []
  else if op = 0x0604 then
    let ct := gcmCrypt key iv input
    ((s.writeRange c.pages a (ct ++ gcmTag key iv aad ct)).dropContexts c.src c.id).complete c.src c.id .ok []
  else
    let n := input.length - 16
    let ct := input.take n
    if gcmTag key iv aad ct == input.drop n then
      ((s.writeRange c.pages a (gcmCrypt key iv ct)).dropContexts c.src c.id).complete c.src c.id .ok []
    else ((s.zeroRange c.pages a n).dropContexts c.src c.id).complete c.src c.id .authFail []

/-! ### WEIGHTS_LOAD (R727 to R730, R739) -/

def useWeights : SlotUse := { usage := fun u => u.getLsbD 2, mask := 4, length := some 32 }

def specWeightsLoad : OpSpec :=
  { code := 0x0703, callP := true, used := List.range 6
    checks := [.mask 1 0xFF, .addr 2 64, .pair64 4 .range (fun v => v == 0 || v > 2 ^ 32), .range48 2 [4, 5] (fun w => pair w 4)] }

def blobDevices (h : Bytes) : Nat := leNat (slice h 6 2)
def blobPayload (h : Bytes) : Nat := leNat (slice h 28 4)
def blobIv (h : Bytes) : Bytes := slice h 32 12
def blobId (h : Bytes) : Bytes := slice h 8 16

/-- Where the ciphertext of a blob begins. -/
def blobStart (h : Bytes) : Nat := 64 + 64 * blobDevices h

/-- The total of R727. -/
def blobTotal (h : Bytes) : Nat := alignUp64 (blobStart h + blobPayload h + 16)

/-- Step 2 of R729: header, device entries and the padding after the tag. [log 88 DEDUCED] -/
def blobFormed (b : Bytes) (len : Nat) : Bool :=
  let h := b.take 64
  let n := blobDevices h
  leNat (h.take 4) == 0x57424C42 && leNat (slice h 4 1) == 1 && allZero (slice h 44 20) && allZero (slice h 26 2) && leNat (slice h 25 1) / 2 == 0 &&
    decide (1 ≤ n) && decide (n ≤ 256) && decide (64 < blobPayload h) && blobPayload h % 64 == 0 && len == blobTotal h &&
    ((List.range n).all (fun k => allZero (slice b (64 + 64 * k + 56) 8))) && allZero (b.drop (blobStart h + blobPayload h + 16))

/-- The content key of the first entry that names this part: a BINDING_REFUSED reason, or the key (R728, R729). [log 88 DEDUCED] -/
def bindingKey (slotKey b : Bytes) (p : Fin 64) (cold : Bool) : Except Nat Bytes :=
  let h := b.take 64
  let entry? := ((List.range (blobDevices h)).map (fun k => slice b (64 + 64 * k) 64)).find? (fun e => e.take 16 == udid)
  match entry? with
  | none => .error 1
  | some e =>
    let q := leNat (slice h 24 1)
    if q ≠ 0xFF && q ≠ p.val then .error 2
    else if bit (leNat (slice h 25 1)) 0 && !cold then .error 3
    else match aesUnwrap (hkdf256 slotKey udid (ascii "ARKWBND1" ++ blobId h) 32) (slice e 16 40) with
      | none => .error 4
      | some k => .ok k

/-- The formats whose byte length fits a payload of K × N elements (R485): a blob names none. [log 88 DEDUCED] -/
def formatsFor (k n payload : Nat) : List Format :=
  ([.int4, .int8, .fp8e4m3, .fp8e5m2, .bf16, .fp16, .gf16] : List Format).filter (fun f => payload == 64 + alignUp64 (k * f.rowBytes n))

/-- The chunks that the store of the model within a blob needs. -/
def blobChunks (key b : Bytes) : Nat :=
  let h := b.take 64
  let m := gcmCrypt key (blobIv h) (slice b (blobStart h) 64)
  let k := leNat (slice m 4 4)
  let n := leNat (slice m 8 4)
  match formatsFor k n (blobPayload h) with
  | f :: _ => ceilDiv (ceilDiv k 128 * ceilDiv n 128 * f.blockBytes) chunkBytes
  | [] => ceilDiv (blobPayload h) chunkBytes

/-- Steps 3 to 6 of R729 and the start of stage 5. [log 88 DEDUCED] -/
def startWeights (c : Ctx) (p : Fin 64) (slotKey b : Bytes) (s : State) : BodyOut × State :=
  let id := c.w 0
  if !s.inRegion p id || 16384 ≤ id then failAt .range 0 s
  else if s.modelBusy id then fail .notPermitted s
  else match bindingKey slotKey b p (s.isCold p) with
    | .error n => (.done .bindingRefused [w32 n], s)
    | .ok key =>
      let full := decide (16 ≤ (s.bindingsOf p).length) && !(s.bindingsOf p).any (fun x => x.model == id)
      if full then failAt .range 0 s
      else c.needs s .dig (fun s =>
        match s.allocChunks p (blobChunks key b) with
        | none => failAt .range 0 s
        | some (cs, s) =>
          let s := s.emptyModel p id
          let w : Work := .weights none none key cs [] 0 0
          let s := s.modCmd c.src c.id (fun x => { x with phase := .executing w })
          (.run w, (s.seekContext false c.src c.id).seekContext true c.src c.id))

def bodyWeightsLoad : Body := fun c s =>
  match srcPart c.src with
  | none => fail .notPermitted s
  | some p =>
    match s.useSlot c.src (bits (c.w 1) 7 0) useWeights false with
    | (.error st, s) => fail st s
    | (.ok slotKey, s) =>
      c.claim s 2 (pair c.w 2) (pair c.w 4) false (fun ps s =>
        c.read s ps (pair c.w 2) (pair c.w 4) (fun b s =>
          if !blobFormed b (pair c.w 4) then failAt .badParam 2 s else startWeights c p slotKey b s))

def execWeightsLoad (src : Source) (pkt : Packet) (s : State) : Host.Outcome State Fault Refusal :=
  runRow specWeightsLoad bodyWeightsLoad src pkt s

/-- Both engines are done with a blob: the tag decides, then the model within (R730). -/
def State.endWeights (s : State) (c : Cmd) (p : Fin 64) (key : Bytes) (cs : List Nat) (b : Bytes) : State :=
  let h := b.take 64
  let a := blobStart h
  let ct := slice b a (blobPayload h)
  if gcmTag key (blobIv h) (b.take a) ct != slice b (a + blobPayload h) 16 then s.failContext c.src c.id .authFail []
  else
    let m := gcmCrypt key (blobIv h) ct
    let k := leNat (slice m 4 4)
    let n := leNat (slice m 8 4)
    let (x, s) := s.freeNat
    let fs := formatsFor k n (blobPayload h)
    let f := fs.getD (x % max 1 fs.length) .int8
    match modelHeader f (m.take 64) (blobPayload h) with
    | some st => s.failContext c.src c.id st [w32 2]
    | none =>
      let s := (s.dropContexts c.src c.id).scrubAll p cs
      match s.storeModel p (c.w 0) f k n (m.drop 64) with
      | none => s.complete c.src c.id .range [w32 0]
      | some s => (s.bind p (c.w 0) (blobId h) (sha384 b)).complete c.src c.id .ok []

/-! ### TURN_END (R736) -/

/-- The context an engine runs: the one that had the last turn while it has a holder, else the next one up. -/
def State.nextContext (s : State) (aead : Bool) (after : Nat) : Option Nat :=
  let l := contextsOf aead
  ((l.filter (fun c => decide (after < c))) ++ (l.filter (fun c => decide (c ≤ after)))).find? (fun c => (s.holderOf c).isSome)

def State.runningContext (s : State) (aead : Bool) : Option Nat :=
  let r := if aead then s.attest.runAead else s.attest.runDigest
  if (s.holderOf r).isSome then some r else s.nextContext aead r

def State.setRunning (s : State) (aead : Bool) (c : Nat) : State :=
  if aead then { s with attest := { s.attest with runAead := c } } else { s with attest := { s.attest with runDigest := c } }

/-- A turn of a DIGEST or AEAD command: up to 1 MiB of input, and with its last byte the end of the message. -/
def State.turnMessage (s : State) (c : Cmd) (aead : Bool) (g : Option Nat) (key iv aad input : Bytes) : State :=
  let total := pair c.w 4
  let n := min mib (total - input.length)
  match s.readRange (srcPartByte c.src) c.pages (pair c.w 2 + input.length) n with
  | (.error st, s) => s.failContext c.src c.id st []
  | (.ok d, s) =>
    let all := input ++ d
    let s := s.progressSrc c.src 1
    if all.length < total then s.modCmd c.src c.id (fun x => { x with phase := .executing (.context aead g key iv aad all) })
    else s.endMessage c key iv aad all

/-- A turn of a WEIGHTS_LOAD in one of its engines. -/
def State.turnWeights (s : State) (c : Cmd) (p : Fin 64) (aead : Bool) (dg ag : Option Nat) (key : Bytes) (cs : List Nat) (b : Bytes)
    (hashed opened : Nat) : State :=
  let total := pair c.w 4
  let done := if aead then opened else hashed
  let next := min total (done + mib)
  match s.readRange (srcPartByte c.src) c.pages (pair c.w 2 + b.length) (next - b.length) with
  | (.error st, s) => s.failContext c.src c.id st []
  | (.ok d, s) =>
    let b := b ++ d
    let h := if aead then hashed else next
    let o := if aead then next else opened
    let s := s.progressSrc c.src 1
    let s := s.modCmd c.src c.id (fun x => { x with phase := .executing (.weights dg ag key cs b h o) })
    if h = total && o = total then s.endWeights c p key cs b else s

/-- One turn of a command in an engine. -/
def State.turn (s : State) (aead : Bool) (c : Cmd) : State :=
  match c.phase with
  | .executing (.context a g key iv aad input) => s.turnMessage c a g key iv aad input
  | .executing (.weights dg ag key cs b h o) =>
    (match srcPart c.src with
     | some p => s.turnWeights c p aead dg ag key cs b h o
     | none => s)
  | _ => s

/-- TURN_END: the engine's context has had its turn; the next ready one follows, the same where it is alone. -/
def actTurnEnd (aead : Bool) (s : State) : State :=
  if !s.running .dig then s
  else match s.runningContext aead with
    | none => s
    | some k =>
      match (s.holderOf k).bind (fun h => s.cmd? h.1 h.2) with
      | none => s
      | some c =>
        let s := s.turn aead c
        (s.setRunning aead ((s.nextContext aead k).getD k))

def execTurnEnd (aead : Bool) (s : State) : Host.Outcome State Fault Refusal := s.conclude (actTurnEnd aead s)

end Sys2Proof.Machine
end

