-- ==== Sys2Proof/Machine/Attest.lean ====
section
/-!
DEFINITION. The attestation unit (R718 to R723, R733, R738): PROVE and ATTEST_REPORT.
-/

namespace Sys2Proof.Machine
open Sys2Proof

/-! ### PROVE (R719) -/

def specProve : OpSpec :=
  { code := 0x0701, callP := true, callC := true, used := List.range 6
    checks := [.mask 0 0xFF, .word 1 .range (fun v => v < 16 || v > 64), .addr 2 1, .addr 4 1, .range48 2 [1] (fun w => w 1),
      .range48 4 [] (fun _ => 48)] }

/-- Mode of a partition in evidence: 0 OPEN, 1 COLD_FRAME, 0xFF where there is none. -/
def State.modeByte (s : State) (p : Fin 64) : Nat := if s.created p then b2n (s.isCold p) else 0xFF

/-- The message of R719. -/
def State.proveMessage (s : State) (slot : Nat) (challenge : Bytes) : Bytes :=
  let owner := (s.slot slot).owner
  ascii "ARKPROV1" ++ udid ++ leBytes 1 (b2n s.shed.debug) ++ leBytes 1 (if slot = 0 then 0xFF else owner.val) ++
    leBytes 1 (if slot = 0 then 0xFF else s.modeByte owner) ++ leBytes 1 challenge.length ++ challenge

def bodyProve : Body := fun c s =>
  let slot := bits (c.w 0) 7 0
  match s.useSlot c.src slot useProve true with
  | (.error st, s) => fail st s
  | (.ok key, s) =>
    c.claim s 2 (pair c.w 2) (c.w 1) false (fun ps s =>
      c.claim s 4 (pair c.w 4) 48 true (fun op s =>
        c.read s ps (pair c.w 2) (c.w 1) (fun ch s => okRes [] (s.writeRange op (pair c.w 4) (hmac384 key (s.proveMessage slot ch))))))

def execProve (src : Source) (pkt : Packet) (s : State) : Host.Outcome State Fault Refusal := runRow specProve bodyProve src pkt s

/-! ### ATTEST_REPORT (R720 to R723, R733) -/

def specAttestReport : OpSpec :=
  { code := 0x0702, callP := true, callC := true, used := List.range 6
    checks := [.mask 0 1, .unusedUnless 1 [0] (fun w => bit (w 0) 0), .addr 2 1, .addr 4 64, .range48 2 [] (fun _ => 32),
      .range48 4 [] (fun _ => 1024)] }

/-- Byte strings compared from byte 0. -/
def bytesBelow : Bytes → Bytes → Bool
  | [], [] => false
  | [], _ :: _ => true
  | _ :: _, [] => false
  | a :: s, b :: t => decide (a.toNat < b.toNat) || (a == b && bytesBelow s t)

def insertBytes (a : Bytes) : List Bytes → List Bytes
  | [] => [a]
  | b :: t => if bytesBelow b a then b :: insertBytes a t else a :: b :: t

def sortBytes (l : List Bytes) : List Bytes := l.foldr insertBytes []

/-- The digests of the programs that run in a partition. -/
def State.programs (s : State) (p : Fin 64) : List Bytes :=
  sortBytes ((List.range 8).filterMap (fun k =>
    let r := s.taskOf { part := p, slot := Fin.ofNat 8 k }
    if taskRunning r then some (fit 48 r.digest) else none))

/-- The digests of the blobs bound in a partition. -/
def State.weights (s : State) (p : Fin 64) : List Bytes := sortBytes ((s.bindingsOf p).map (fun b => fit 48 b.blobDigest))

/-- Records that fail their check leave with their model entry, latched on PF vector 7 (R733). -/
def State.checkBindings (s : State) (p : Fin 64) : State :=
  ((s.bindingsOf p).filter (fun b => !s.bindingOk b)).foldl (fun s b => (s.emptyModel p b.model).raisePf .shed) s

/-- What a report says of the policy in force: a round's, a partition's, or nothing (R722). -/
structure ReportPolicy where
  floor : Nat := 0
  sigmaNum : Nat := 0
  sigmaDen : Nat := 0
  noise : Nat := 0
  cipher : Nat := 0
  roundKey : Bytes := []
  roundId : Nat := 0
  withKey : Bool := false

def roundReport (r : Round) : ReportPolicy :=
  { floor := r.policy.floor, sigmaNum := r.policy.sigmaNum, sigmaDen := r.policy.sigmaDen, noise := b2n r.policy.noiseRequired
    cipher := r.policy.cipher.code, roundKey := r.pub, roundId := r.id.toNat, withKey := true }

def partReport (q : Policy) : ReportPolicy :=
  { floor := q.floor, sigmaNum := q.sigmaNum, sigmaDen := q.sigmaDen, noise := b2n q.noiseRequired, cipher := q.cipher }

/-- The report's bytes without the TAG (Table 21.2). -/
def State.report (s : State) (p : Option (Fin 64)) (slot : Nat) (nonce : Bytes) (q : ReportPolicy) : Bytes :=
  let progs := (p.map s.programs).getD []
  let wts := (p.map s.weights).getD []
  let pin := min 13 progs.length
  let win := min (13 - pin) wts.length
  let len := 320 + 48 * (pin + win) + 48
  let flags := b2n q.withKey + 2 * b2n (decide (pin + win < progs.length + wts.length)) + 4 * b2n s.shed.pufFail + 8 * b2n s.shed.batteryRoot.isSome
  leBytes 4 0x41545250 ++ [1, 0] ++ leBytes 2 len ++ leBytes 1 ((p.map (·.val)).getD 0xFF) ++ leBytes 1 (b2n s.shed.debug) ++
    leBytes 1 ((p.map s.modeByte).getD 0xFF) ++ leBytes 1 flags ++ leBytes 1 progs.length ++ leBytes 1 wts.length ++ leBytes 1 pin ++
    leBytes 1 win ++ leBytes 8 s.now ++ leBytes 4 q.roundId ++ leBytes 2 s.fidField ++ leBytes 1 slot ++ [0] ++ udid ++ fit 32 nonce ++
    sha384 Config.bootRom ++ fwDigest s.power.mgmtFw ++ fwDigest s.power.seqFw ++ leBytes 4 q.floor ++ leBytes 4 q.sigmaNum ++
    leBytes 4 q.sigmaDen ++ leBytes 1 q.noise ++ leBytes 1 q.cipher ++ zeros 2 ++ fit 32 q.roundKey ++ sha384 (progs.flatten ++ wts.flatten) ++
    (progs.take pin).flatten ++ (wts.take win).flatten

/-- Write a report and its TAG. -/
def finishReport (c : Ctx) (p : Option (Fin 64)) (slot : Nat) (key : Bytes) (q : ReportPolicy) (s : State) : BodyOut × State :=
  c.claim s 2 (pair c.w 2) 32 false (fun ps s =>
    c.claim s 4 (pair c.w 4) 1024 true (fun op s =>
      c.read s ps (pair c.w 2) 32 (fun nonce s =>
        let s := match p with
          | some p => s.checkBindings p
          | none => s
        let b := s.report p slot nonce q
        okRes [b.length + 48] (s.writeRange op (pair c.w 4) (b ++ hmac384 key b)))))

/-- ATTEST_REPORT of a partition, under its attestation slot. -/
def reportPart (c : Ctx) (p : Fin 64) (s : State) : BodyOut × State :=
  match s.partition? p with
  | none => fail .notPermitted s
  | some r =>
    match s.attestKey p with
    | (.error st, s) => fail st s
    | (.ok key, s) =>
      if !bit (c.w 0) 0 then finishReport c (some p) r.slot key (partReport r.policy) s
      else match (s.roundEntry p (c.w 1)).bind s.round? with
        | none => failAt .badParam 1 s
        | some x => finishReport c (some p) r.slot key (roundReport x) s

def bodyAttestReport : Body := fun c s =>
  match srcPart c.src with
  | some p => reportPart c p s
  | none =>
    if bit (c.w 0) 0 then fail .notPermitted s
    else match s.useSlot c.src 0 useProve true with
      | (.error st, s) => fail st s
      | (.ok key, s) => finishReport c none 0 key {} s

def execAttestReport (src : Source) (pkt : Packet) (s : State) : Host.Outcome State Fault Refusal :=
  runRow specAttestReport bodyAttestReport src pkt s

end Sys2Proof.Machine
end

