-- ==== Sys2Proof/Machine/Gate.lean ====
section
/-!
DEFINITION. The Release gate: slots, checks, marks, noise, dequantization, export and the release record (ch. 11), and the
sampler's service (R764).
-/

namespace Sys2Proof.Machine
open Sys2Proof

def State.gate? (s : State) (k : Nat) : Option GateSlot := Tab.find? s.rounds.gate k

def State.setGate (s : State) (k : Nat) (g : GateSlot) : State :=
  { s with rounds := { s.rounds with gate := Tab.insert s.rounds.gate k g } }

def GateSlot.bytes (g : GateSlot) (r : Round) : Nat :=
  (r.segs.getD g.seg { len := 0 }).len * (if g.scale = 0 then (r.modulus.getD .m16).width else 4)

/-! ### Ends of a release -/

/-- Results of a RELEASE (Table 5.7). -/
def GateSlot.results (g : GateSlot) : List Nat := [g.seg, g.exported.length % 2 ^ 32, g.exported.length / 2 ^ 32]

/-- End a RELEASE that holds a slot. -/
def State.endRelease (s : State) (k : Nat) (st : Status) (res : List Nat) : State :=
  match s.gate? k with
  | none => s
  | some g => ((s.freeSlot k).complete g.src g.cmd st (res.map w32)).closeIfReleased g.entry

/-- The slot of a command that exports. -/
def State.slotOf (s : State) (src : Source) (cmd : Nat) : Option Nat :=
  List.findSome? (fun (y : Nat × GateSlot) => if y.2.src == src && y.2.cmd == cmd then some y.1 else none) s.rounds.gate

/-! ### Checks, marks (Table 11.2, R373 to R376, R388) -/

def specRelease : OpSpec :=
  { code := 0x0209, callP := true, used := List.range 8,
    checks := [.mask 2 0x1FFFF03, .word 2 .badParam (fun v => bits v 1 0 == 3), .word 2 .badParam (fun v => bits v 1 0 != 2 && v / 256 != 0),
      .word 3 .badParam (fun v => bit v 31 || bits v 30 23 == 255), .addr 4 64, .addr 6 64, .range48 6 [] (fun _ => 128)] }

/-- Translate the record's range and a device destination (check 8). -/
def State.releaseRanges (s : State) (g : GateSlot) (r : Round) : Except (Status × Nat) GateSlot × State :=
  let record (dp : Pages) (s : State) : Except (Status × Nat) GateSlot × State :=
    match s.claim g.src g.recordAddr 128 true with
    | (.error st, s) => (.error (st, 6), s)
    | (.ok rp, s) => (.ok { g with recPages := rp, dstPages := dp }, s)
  if g.dest != 1 then record [] s
  else if 2 ^ 48 < g.addr + g.bytes r then (.error (.badParam, 4), s)
  else match s.claim g.src g.addr (g.bytes r) true with
    | (.error st, s) => (.error (st, 4), s)
    | (.ok dp, s) => record dp s

/-- Checks 1 to 8 in order; contributor counts that cannot be read abort the round (R394). [log 61 DEDUCED] -/
def State.releaseChecks (s : State) (g : GateSlot) : Except (Status × Nat) GateSlot × State :=
  match s.round? g.entry with
  | none => (.error (.notPermitted, 0), s)
  | some r =>
    let sg := r.segs.getD g.seg { len := 0 }
    if r.state != .sealed && r.state != .released then (.error (.notPermitted, 0), s)
    else if r.segs.length ≤ g.seg then (.error (.range, 1), s)
    else if r.tokenHolder != s.selfIn r || sg.marked || (s.isCold r.part && r.policy.sigmaNum = 0) then (.error (.notPermitted, 0), s)
    else match Tab.find? r.badData countsKey with
    | some st => (.error (st, 0), s.badRoundData g.entry st)
    | none =>
    if sg.contributors < r.policy.floor then (.error (.belowFloor, 0), s)
    else if r.policy.sigmaNum != 0 && !s.random.serving then (.error (.noiseUnavailable, 0), s)
    else match s.attestKey r.part with
      | (.error .targetReset, s) => (.error (.targetReset, 0), s)
      | (.error _, s) => (.error (.keySlotBad, 0), s)
      | (.ok key, s) => s.releaseRanges { g with key := key } r

/-- Every acknowledgement of the mark is in: the export begins. -/
def State.startExport (s : State) (k : Nat) : State :=
  match s.gate? k with
  | none => s
  | some g => if g.marking.isEmpty then s.setGate k { g with exporting := true } else s

/-- Mark the segment, here and on every live participant, a mirroring secondary among them (R376, R377, R626). -/
def State.markSegment (s : State) (k : Nat) : State :=
  match s.gate? k with
  | none => s
  | some g =>
    match s.round? g.entry with
    | none => s
    | some r =>
      let peers := if r.policy.fabric then s.peersOf r else []
      let mirror := if s.graft.state = .mirroring && s.graft.role = .primary && s.graft.mirrorRounds.contains g.entry then [s.graft.partner] else []
      let s := s.setRound g.entry { r with segs := r.segs.modify g.seg (fun x => { x with marked := true }) }
      let s := s.setGate k { g with probing := false, marking := unionNat peers mirror }
      let s := s.sendRound g.entry peers (.mark r.part.val r.id g.seg r.tokenEpoch)
      let s := if mirror.isEmpty then s else s.sendMirror (.mark r.part.val r.id g.seg) (.mark k)
      s.startExport k

/-- Checks 9 and 10: a probe goes to the target of a remote destination. -/
def State.probe (s : State) (k : Nat) (g : GateSlot) (r : Round) : State :=
  let h := s.requestHeader g.src .probe g.target g.window
  let data := leBytes 8 g.addr ++ leBytes 8 (g.bytes r)
  if s.spetar.fid = some g.target then
    (match s.serveProbe h data with
     | (.ok, s) => s.markSegment k
     | (st, s) => s.endRelease k st [])
  else if !s.canSend g.target then s.endRelease k .remoteUnreachable []
  else
    let o : Outstanding :=
      { header := { h with vc := 3 }, payload := data, bytes := 0, serial := s.serialOf g.src g.cmd, purpose := .probe g.src g.cmd }
    (s.setGate k { g with probing := true }).sendRequests g.target [o]

/-- Checks 1 to 8 of slot `k`, and what follows when they pass; `mark` is whether its probe has been answered. -/
def State.checkRelease (s : State) (k : Nat) (g : GateSlot) (mark : Bool) : State :=
  match s.releaseChecks g with
  | (.error (st, n), s) => (s.freeSlot k).complete g.src g.cmd st (rejectResults st n)
  | (.ok g, s) =>
    let s := s.setGate k g
    match s.round? g.entry with
    | none => s
    | some r =>
      if g.dest = 2 && !mark then s.probe k g r
      else if s.muted r then s.endRelease k .linkDown []
      else s.markSegment k

/-- Another slot's probe for the same segment is out: that RELEASE is decided first (R388). -/
def State.segProbed (s : State) (k : Nat) (g : GateSlot) : Bool :=
  List.any s.rounds.gate (fun (y : Nat × GateSlot) => y.1 != k && y.2.probing && y.2.entry == g.entry && y.2.seg == g.seg)

/-- Check the RELEASE of slot `k` in its turn. -/
def State.decideSlot (s : State) (k : Nat) : State :=
  match s.gate? k with
  | none => s
  | some g =>
    if s.segProbed k g then { s with rounds := { s.rounds with gateHeld := s.rounds.gateHeld ++ [k] } } else s.checkRelease k g false

/-- Put a RELEASE into slot `k` and check it. [log 61 DEDUCED] -/
def State.takeSlot (s : State) (k : Nat) (g : GateSlot) : State :=
  ((s.setGate k g).modCmd g.src g.cmd (fun c => { c with phase := .executing (.releaseSlot k) })).decideSlot k

/-- A probe has ended: the slots that waited for it are checked in order. -/
def State.decideHeld (s : State) : State :=
  s.rounds.gateHeld.foldl (fun s k => s.decideSlot k) { s with rounds := { s.rounds with gateHeld := [] } }

/-- A probe is answered: with OK the checks hold as one step with the mark (R374), and the segment is marked. -/
def State.probeEnded (s : State) (src : Source) (cmd : Nat) (st : Status) : State :=
  match s.slotOf src cmd with
  | none => s
  | some k => match s.gate? k with
    | none => s
    | some g =>
      let g := { g with probing := false }
      let s := s.setGate k g
      (if st = .ok then s.checkRelease k g true else s.endRelease k st []).decideHeld

/-- What a RELEASE's words ask. -/
def gateOf (src : Source) (cmd e : Nat) (w : Params) : GateSlot :=
  { src := src, cmd := cmd, entry := e, seg := w 1, dest := bits (w 2) 1 0, window := bits (w 2) 15 8, target := bits (w 2) 24 16
    scale := w 3, addr := pair w 4, recordAddr := pair w 6 }

def State.freeGate (s : State) : Option Nat := (List.range 8).find? (fun k => (s.gate? k).isNone)

/-- RELEASE: it takes a slot where one is free and nobody waits, else it waits in arrival order; its checks are made when it holds one
(R374). On a secondary a mirrored RELEASE exports nothing (R626). [log 61 DEDUCED] -/
def bodyRelease : Body := fun c s =>
  c.round s (fun _ => true) (fun e _ =>
    if c.shadow then (.done .ok [], s)
    else match s.freeGate with
      | some k =>
        if s.rounds.gateQueue.isEmpty then (.run (.releaseSlot k), s.takeSlot k (gateOf c.src c.id e c.w))
        else (.run (.releaseWait e), { s with rounds := { s.rounds with gateQueue := s.rounds.gateQueue ++ [(c.src, c.id)] } })
      | none => (.run (.releaseWait e), { s with rounds := { s.rounds with gateQueue := s.rounds.gateQueue ++ [(c.src, c.id)] } }))

def execRelease (src : Source) (pkt : Packet) (s : State) : Host.Outcome State Fault Refusal := runRow specRelease bodyRelease src pkt s

/-- RELEASE_SLOT_GRANT: a free slot goes to the RELEASE that has waited longest. -/
def actReleaseSlotGrant (slot : Fin 8) (s : State) : State :=
  match s.gate? slot.val, s.rounds.gateQueue with
  | none, (src, id) :: t =>
    let s := { s with rounds := { s.rounds with gateQueue := t } }
    (match s.cmd? src id with
     | none => s
     | some c => (match c.phase with
       | .executing (.releaseWait e) => (s.takeSlot slot.val (gateOf src id e (fun n => c.words.getD n 0)))
       | _ => s))
  | _, _ => s

def execReleaseSlotGrant (slot : Fin 8) (s : State) : Host.Outcome State Fault Refusal := s.conclude (actReleaseSlotGrant slot s)

/-- A participant marks the segment and acknowledges; a message of another token epoch is discarded (R372, R376). -/
def State.onMark (s : State) (e origin seg : Nat) (epoch : W16) : State :=
  match s.round? e with
  | none => s
  | some r =>
    if epoch != r.tokenEpoch || !r.participants.contains origin then s
    else
      let s := s.setRound e { r with segs := r.segs.modify seg (fun x => { x with marked := true }) }
      s.sendRound e [origin] (.markAck r.part.val r.id seg epoch)

/-- MARK. -/
def actMark (origin : Nat) (m : RoundMsg) (s : State) : State :=
  match m with
  | .mark part id seg epoch => s.onNamed part id (fun e => s.onMessage e origin m (fun o => s.onMark e o seg epoch))
  | _ => s

def execMark (o : RoundIn) (m : RoundMsg) (s : State) : Host.Outcome State Fault Refusal := s.conclude (s.takeRound o m (actMark o.h.src m))

/-- A device's acknowledgement of a mark. -/
def State.markAcked (s : State) (k origin : Nat) : State :=
  match s.gate? k with
  | none => s
  | some g => if g.exporting || g.probing then s else (s.setGate k { g with marking := g.marking.filter (· != origin) }).startExport k

/-- The slot that waits for acknowledgements of a segment's mark. -/
def State.markingSlot (s : State) (e seg : Nat) : Option Nat :=
  (List.range 8).find? (fun k => (s.gate? k).any (fun (g : GateSlot) => g.entry == e && g.seg == seg && !g.marking.isEmpty))

/-- MARK_ACK: one of another token epoch is discarded (R372). -/
def actMarkAck (origin : Nat) (m : RoundMsg) (s : State) : State :=
  match m with
  | .markAck part id seg epoch =>
    s.onNamed part id (fun e => match s.round? e, s.markingSlot e seg with
      | some r, some k => (match r.origin origin with
        | some o => if r.tokenEpoch = epoch then s.markAcked k o else s
        | none => s)
      | _, _ => s)
  | _ => s

def execMarkAck (o : RoundIn) (m : RoundMsg) (s : State) : Host.Outcome State Fault Refusal := s.conclude (s.takeRound o m (actMarkAck o.h.src m))

/-- The holder's new state of the round (R384); a participant whose sum is still on its way takes it when it is SEALED. [log 62 DEDUCED] -/
def State.onStateChange (s : State) (e origin : Nat) (closed : Bool) (epoch : W16) : State :=
  match s.round? e with
  | none => s
  | some r =>
    if epoch != r.tokenEpoch || origin != r.tokenHolder || r.state.isAborted then s
    else if r.state.rank < 5 then s.setRound e { r with ahead := some closed }
    else if closed then s.closeRound e
    else if r.state = .sealed then s.changeRound e .released
    else s

/-- ROUND_STATE_CHANGE. -/
def actRoundStateChange (origin : Nat) (m : RoundMsg) (s : State) : State :=
  match m with
  | .stateChange part id closed epoch => s.onNamed part id (fun e => s.onMessage e origin m (fun o => s.onStateChange e o closed epoch))
  | _ => s

def execRoundStateChange (o : RoundIn) (m : RoundMsg) (s : State) : Host.Outcome State Fault Refusal :=
  s.conclude (s.takeRound o m (actRoundStateChange o.h.src m))

/-! ### Noise (R378, R379) -/

/-- z mod M. -/
def noiseResidue (m : Modulus) (z : Int) : Nat := (z % (m.value : Int)).toNat

/-- Elements one strip holds. -/
def gateStrip (m : Modulus) : Nat := 65536 / m.width

/-- Slots that wait for samples: exporting with noise, fewer in hand than the elements left. -/
def State.noiseSlots (s : State) : List Nat :=
  (List.range 8).filter (fun k => match s.gate? k with
    | none => false
    | some g => match s.round? g.entry with
      | none => false
      | some r => g.exporting && r.policy.sigmaNum != 0 &&
          decide (g.samples.length < min (gateStrip (r.modulus.getD .m16)) ((r.segs.getD g.seg { len := 0 }).len - g.pos)))

/-- The sampler's users in order: slots ascending, then NOISE_FILL commands in dispatch order. -/
def State.samplerUsers (s : State) : List SamplerUser := s.noiseSlots.map .gate ++ s.fills.map (fun c => .fill c.src c.id)

/-- Give a batch to a gate slot. -/
def State.batchGate (s : State) (k : Nat) : State :=
  match s.gate? k with
  | none => s
  | some g =>
    match s.round? g.entry with
    | none => s
    | some r =>
      let (zs, s) := s.samples (min 4096 ((r.segs.getD g.seg { len := 0 }).len - g.pos - g.samples.length))
      s.samplerUsed.setGate k { g with samples := g.samples ++ zs }

/-- Give a batch to a NOISE_FILL: the samples are written, and with the last it completes. -/
def State.batchFill (s : State) (src : Source) (id : Nat) : State :=
  match (((s.cmd? src id).map (fun (c : Cmd) => c.phase)) : Option Phase) with
  | some (.executing (.noise ps dst total done)) =>
    let n := min 4096 (total - done)
    let (zs, s) := s.samples n
    let s := (s.samplerUsed.writeRange ps (dst + 8 * done) (zs.flatMap (fun z => leBytes 8 (unsignedOf 64 z)))).progressSrc src 1
    if done + n = total then s.complete src id .ok []
    else s.modCmd src id (fun c => { c with phase := .executing (.noise ps dst total (done + n)) })
  | _ => s

/-- SAMPLER_BATCH: up to 4,096 samples for the next user of the turn (R764). -/
def actSamplerBatch (s : State) : State :=
  let us := s.samplerUsers
  if !s.random.serving then s
  else
    let left := us.filter (fun u => !s.random.served.contains u)
    match (if left.isEmpty then us else left) with
    | [] => { s with random := { s.random with served := [] } }
    | u :: _ =>
      let s := { s with random := { s.random with served := if left.isEmpty then [u] else s.random.served ++ [u] } }
      (match u with
        | .gate k => s.batchGate k
        | .fill src id => s.batchFill src id)

def execSamplerBatch (s : State) : Host.Outcome State Fault Refusal := s.conclude (actSamplerBatch s)

/-! ### Dequantization (R380) -/

/-- The exported bytes of a noisy residue, and whether it was clamped. -/
def exportElement (m : Modulus) (scale r : Nat) : Bytes × Bool :=
  if scale = 0 then (leBytes m.width r, false)
  else
    let lifted : Int := if 2 * r < m.value then (r : Int) else (r : Int) - (m.value : Int)
    let (v, k) := FloatFmt.fp32.encode .nearest ((Num.ofInt lifted 0).mul (FloatFmt.fp32.decode scale))
    (leBytes 4 v, k)

/-! ### Export (R381, R382, R389, R392) -/

def State.modGate (s : State) (k : Nat) (f : GateSlot → GateSlot) : State :=
  match s.gate? k with
  | some g => s.setGate k (f g)
  | none => s

/-- A write of the export failed: the first failure decides, and nothing more is exported. -/
def GateSlot.fails (g : GateSlot) (st : Status) : GateSlot :=
  { g with failed := match g.failed with
    | some x => some x
    | none => some st }

/-- Write exported bytes to the destination from byte `off` of the export. -/
def State.exportBytes (s : State) (k : Nat) (g : GateSlot) (off : Nat) (d : Bytes) : State :=
  match g.dest with
  | 0 => s.hostWrite (srcFn g.src) (g.addr + off) d
  | 1 => s.writeRange g.dstPages (g.addr + off) d
  | _ =>
    let os := dataPackets (s.serialOf g.src g.cmd) (s.requestHeader g.src .write g.target g.window) (g.addr + off) d (.gate g.src g.cmd)
    if s.spetar.fid = some g.target then
      os.foldl (fun s o =>
        let (st, s) := s.serveWrite o.header o.payload
        if st = .ok then s else s.modGate k (fun g => g.fails st)) s
    else (s.modGate k (fun g => { g with writes := g.writes + os.length })).sendRequests g.target os

/-- The 128 bytes of a release record (Table 11.4). -/
def State.releaseRecord (s : State) (g : GateSlot) (r : Round) : Bytes :=
  let sg := r.segs.getD g.seg { len := 0 }
  let po := r.policy
  let flags := b2n (po.sigmaNum != 0) + 2 * b2n (g.scale != 0) + 4 * b2n (s.isCold r.part) + 8 * g.dest
  let body := leBytes 4 r.id.toNat ++ leBytes 2 g.seg ++ leBytes 1 flags ++ leBytes 1 (r.modulus.getD .m16).code ++ leBytes 4 sg.len ++
    leBytes 4 sg.contributors ++ leBytes 4 po.floor ++ leBytes 4 po.sigmaNum ++ leBytes 4 po.sigmaDen ++ leBytes 4 g.scale ++
    leBytes 4 g.saturated ++ leBytes 2 r.tokenEpoch.toNat ++ leBytes 2 s.ownFid ++ leBytes 8 s.now ++ sha256 g.exported
  body ++ hmac384 g.key (udid ++ body)

/-- Data of the export still waits in HIF for the link (R142, R382). -/
def State.exportWaits (s : State) (g : GateSlot) : Bool :=
  g.dest == 0 && s.hif.waiting.any (fun o => match o with
    | .write f a _ _ => f == srcFn g.src && decide (g.addr ≤ a) && decide (a < g.addr + g.exported.length)
    | _ => false)

/-- Every write of the export is answered: a failed one ends it with its status, once the others have ended too, and a target that was not
reached is lost to a round that it takes part in (R393, R586); else, when all data is visible, the record, RELEASED on the first success, the
completion (R383 to R385). -/
def State.finishRelease (s : State) (k : Nat) : State :=
  match s.gate? k with
  | none => s
  | some g =>
    match s.round? g.entry with
    | none => s
    | some r =>
      let all := (r.segs.getD g.seg { len := 0 }).len
      if g.writes ≠ 0 then s
      else match g.failed with
      | some st =>
        let s := s.endRelease k st g.results
        if st = .remoteUnreachable then s.participantLost g.entry g.target else s
      | none =>
      if g.pos < all || !g.exporting || s.exportWaits g then s
      else
        let s := s.writeRange g.recPages g.recordAddr (s.releaseRecord g r)
        let s := if r.state = .sealed then (s.changeRound g.entry .released).tellState g.entry false else s
        s.endRelease k .ok g.results

/-- Export the next `n` elements of a slot. -/
def State.exportStrip (s : State) (k : Nat) (g : GateSlot) (r : Round) (n : Nat) : State :=
  let m := r.modulus.getD .m16
  let vals := window ((r.segs.getD g.seg { len := 0 }).elements m 0) g.pos n
  let noisy := if r.policy.sigmaNum = 0 then vals else List.zipWith (fun v z => bedAdd m v (noiseResidue m z)) vals g.samples
  let outs := noisy.map (exportElement m g.scale)
  let bytes := outs.flatMap (·.1)
  let s := s.setGate k { g with
    pos := g.pos + n, samples := g.samples.drop n, exported := g.exported ++ bytes
    saturated := g.saturated + (outs.filter (·.2)).length }
  (s.exportBytes k g g.exported.length bytes).progressSrc g.src 1

/-- A slot that can export its next strip: it needs no noise, or has its samples, or the sampler no longer serves. -/
def State.stripReady (s : State) (k : Nat) : Bool :=
  match s.gate? k with
  | none => false
  | some g => match s.round? g.entry with
    | none => false
    | some r =>
      let n := min (gateStrip (r.modulus.getD .m16)) ((r.segs.getD g.seg { len := 0 }).len - g.pos)
      g.exporting && g.failed.isNone && decide (0 < n) && (r.policy.sigmaNum == 0 || decide (n ≤ g.samples.length) || !s.random.serving)

/-- GATE_STRIP: the gate exports one strip of the slot whose turn it is (R382). Without noise for an element the export ends
there (R392), and bad data in replica 0 aborts the round (R394). A HELD primary exports nothing (R616). -/
def actGateStrip (slot : Fin 8) (s : State) : State :=
  let ready := (List.range 8).filter s.stripReady
  let turn := (ready.filter (fun k => decide (s.rounds.lastGate < k))).head?.or ready.head?
  if turn != some slot.val || s.graft.role = .held || !s.running .fe then s
  else match s.gate? slot.val with
    | none => s
    | some g => match s.round? g.entry with
      | none => s
      | some r =>
        let n := min (gateStrip (r.modulus.getD .m16)) ((r.segs.getD g.seg { len := 0 }).len - g.pos)
        let s := { s with rounds := { s.rounds with lastGate := slot.val } }
        match Tab.find? r.badData g.seg with
        | some st => (s.endRelease slot.val st g.results).badRoundData g.entry st
        | none =>
        if r.policy.sigmaNum != 0 && g.samples.length < n then
          let s := s.exportStrip slot.val g r g.samples.length
          (s.endRelease slot.val .noiseUnavailable (((s.gate? slot.val).map GateSlot.results).getD []))
        else ((s.exportStrip slot.val g r n).finishRelease slot.val)

def execGateStrip (slot : Fin 8) (s : State) : Host.Outcome State Fault Refusal := s.conclude (actGateStrip slot s)

end Sys2Proof.Machine
end

