-- ==== Sys2Proof/Machine/MgmtOps.lean ====
section
/-!
DEFINITION. What the rest of the part does through the Drinoner port: alert causes, responses, sensors and their events, the
power state of sensor 11, results kept for POLL (R785 to R792, R803).
-/

namespace Sys2Proof.Machine
open Sys2Proof

/-- CP_MGMT_ALERT's bits (R792). -/
inductive AlertCause where
  | thermal | powerState | tamper | time | entropy | result | restarted | fwUpdate
deriving DecidableEq, Repr

def AlertCause.bitNo : AlertCause → Nat
  | .thermal => 0
  | .powerState => 1
  | .tamper => 2
  | .time => 3
  | .entropy => 4
  | .result => 5
  | .restarted => 6
  | .fwUpdate => 7

def State.modMgmt (s : State) (f : Mgmt → Mgmt) : State := { s with mgmt := f s.mgmt }

/-- Record something the port puts on its bus. -/
def State.mgmtSend (s : State) (o : MgmtOut) : State := s.modMgmt (fun m => { m with out := m.out ++ [o] })

/-- Latch an alert cause; in I3C mode with IBIs enabled it raises one (R792). [log 136 DEDUCED] -/
def State.latchAlert (s : State) (c : AlertCause) : State :=
  let s := s.modMgmt (fun m => { m with alert := m.alert ||| BitVec.ofNat 8 (2 ^ c.bitNo) })
  let s := if s.mgmt.i3c && s.mgmt.ibiEnabled then (s.mgmtSend (.ibi 0xA5)).modMgmt (fun m => { m with ibiAt := some s.now }) else s
  s.pfEvent .mailbox

/-- ALERT_N is low: a latched cause is enabled. -/
def State.alertLow (s : State) : Bool := s.mgmt.alert &&& s.mgmt.alertEn != 0

/-- Answer a request. The response stays here as the one not yet known to be taken, until the port's next. -/
def State.mgmtReply (s : State) (o : MgmtOut) : State := (s.mgmtSend o).modMgmt (fun m => { m with responses := [(o, s.now, 0)] })

/-- A discarded message or response is counted (R784, R800). [log 121 DEDUCED] -/
def State.discardMsg (s : State) : State := s.modMgmt (fun m => { m with discards := satAdd32 m.discards 1 })

/-! ### Sensors (Table 23.2) -/

/-- The states of Table 23.5, from 1 in the table's order; the recovery responder stays in AUX_ONLY (R841). [log 99 DEDUCED] -/
def State.powerState (s : State) : Nat :=
  if !s.mgmt.firmware then 1
  else if !s.power.pwrgdMain || s.power.noMgmtImage then 2
  else if s.power.mainHeld then 3
  else if !s.kelri.pf.valid then 4
  else 5

/-- The states of Table 12.2, from 1 in the order of sensor 10. -/
def SyncState.sensor : SyncState → Nat
  | .master => 1
  | .locked => 2
  | .acquiring => 3
  | .holdover => 4

/-- What a state sensor shows. -/
def State.stateSensor (s : State) (n : Nat) : Nat :=
  if n = 10 then s.time.state.sensor
  else if n = 11 then s.powerState
  else if n = 12 then (if s.shed.tamperLog.isEmpty then 1 else 2)
  else (if s.random.serving then 1 else 2)

/-- What a state sensor is taken to have shown before its first sample: its state after reset. [log 101 PRESUMED] -/
def sensorStart (n : Nat) : Nat := if n = 10 then 4 else if n = 13 then 2 else 1

def isStateSensor (n : Nat) : Bool := decide (10 ≤ n) && decide (n ≤ 13)

/-- Sensors powered from the main rails. -/
def mainSensor (n : Nat) : Bool := n = 1 || (decide (3 ≤ n) && decide (n ≤ 7)) || n = 13

/-- A sensor can be read: main-powered ones need the main side in RUN (R786). -/
def State.sensorUp (s : State) (n : Nat) : Bool := !mainSensor n || s.kelri.pf.valid

/-- Send a PlatformEventMessage where a receiver is set (R787). -/
def State.sendEvent (s : State) (n : Nat) (v : Int) : State :=
  if s.mgmt.eventReceiver.isNone then s
  else (s.mgmtSend (.event n v)).modMgmt (fun m => { m with events := m.events ++ [{ sensor := n, value := v, resends := 0, sentAt := s.now }] })

/-- The alert a state sensor's change latches (R792). [log 101 PRESUMED] -/
def stateAlert (n v : Nat) : Option AlertCause :=
  if n = 10 then some .time else if n = 11 then some .powerState else if n = 13 && v = 2 then some .entropy else none

/-- Sample a state sensor: a change sends its event and latches its cause. -/
def State.sampleState (s : State) (n : Nat) : State :=
  let v := s.stateSensor n
  let old := Tab.get s.mgmt.sensors (sensorStart n : Int) n
  if !s.mgmt.firmware || old = v then s
  else
    let s := (s.modMgmt (fun m => { m with sensors := Tab.insert m.sensors n (v : Int) })).sendEvent n v
    match stateAlert n v with
    | some c => s.latchAlert c
    | none => s

/-- A numeric sensor's thresholds: upper ones, then lower ones; sensor 9 is in millivolts. [log 101 PRESUMED] -/
def thresholds (n : Nat) : List Int × List Int :=
  if n = 1 then ([95, 100, 115], [])
  else if n = 2 then ([110], [-20])
  else if 3 ≤ n && n ≤ 6 then ([85], [])
  else if n = 7 then ([380], [])
  else if n = 8 then ([6], [])
  else if n = 9 then ([], [2400, 2200])
  else ([], [])

/-- A change from `a` to `b` crosses a threshold of the sensor. [log 122 DEDUCED] -/
def crosses (n : Nat) (a b : Int) : Bool :=
  (thresholds n).1.any (fun t => decide (t ≤ a) != decide (t ≤ b)) || (thresholds n).2.any (fun t => decide (a ≤ t) != decide (b ≤ t))

/-! ### Results of M commands (R790, R797) -/

/-- The record of an M command whose ticket was answered PENDING is kept and latches RESULT. [log 100 DEDUCED] -/
def State.keepPending (s : State) (t : Fin 4) (c : Cmd) (st : Status) (res : List W32) (time : Nat) : State :=
  let kept := (Tab.find? s.mgmt.tickets t.val).isSome
  let s := s.keepResult t c st res time
  if kept then s.latchAlert .result else s

end Sys2Proof.Machine
end

