-- ==== Sys2Proof/Machine/TimeOps.lean ====
section
/-!
DEFINITION. Synchronisation states, the time tree and the corrections of the TIME island (R400 to R410, Table 12.4).
-/

namespace Sys2Proof.Machine
open Sys2Proof

/-! ### ERR_EST (Table 12.2), in ps -/

def TimeUnit.now (t : TimeUnit) : Nat := t.t40 / 2 ^ 40

/-- What a correction in progress has still to add, in ps. -/
def TimeUnit.remainingPs (t : TimeUnit) : Nat := ((t.slew.map (fun c => c.remaining.natAbs)).getD 0) * 1000 / 2 ^ 40

/-- Log 105 DEDUCED. -/
def TimeUnit.errEst (t : TimeUnit) : Nat :=
  match t.state with
  | .master => 0
  | .locked => 1300 * t.hops
  | .acquiring => t.errBasePs + t.remainingPs
  | .holdover => t.errBasePs + (t.now - t.errSince) * t.holdoverRate / 1000000

/-- Enter a state; HOLDOVER and ACQUIRING keep the estimate they are entered with. -/
def TimeUnit.enter (t : TimeUnit) (st : SyncState) : TimeUnit :=
  if t.state = st then t
  else match st with
    | .holdover => { t with state := st, errBasePs := t.errEst, errSince := t.now, parent := none, masterValid := false, hops := 0 }
    | .acquiring => { t with state := st, errBasePs := t.errEst }
    | .locked => { t with state := st, qualified := true }
    | .master => { t with state := st, qualified := true, parent := none, hops := 0 }

/-- A main-side warm reset moves a device that follows, or leads others, to HOLDOVER, and disarms general alarms (R423, R433). -/
def TimeUnit.mainDown (t : TimeUnit) : TimeUnit :=
  let t : TimeUnit := if t.state = .master && !t.othersFound then t else { t.enter .holdover with slew := none }
  { t with alarms := [], candidacyEnd := none, heard := [], nextExchange := [] }

def State.modTime (s : State) (f : TimeUnit → TimeUnit) : State := { s with time := f s.time }

/-- After a change of the unit: changes to and from HOLDOVER and of the master latch on PF vector 3, and sensor 10 samples
(R431, R792). -/
def State.timeChanged (s : State) (before : TimeUnit) : State :=
  let t := s.time
  let moved := (t.state == .holdover) != (before.state == .holdover) || t.masterValid != before.masterValid || t.masterId != before.masterId
  (if moved then s.raisePf .time else s).sampleState 10

/-- Log 105 DEDUCED. -/
def State.enterSync (s : State) (st : SyncState) : State := (s.modTime (fun t => t.enter st)).timeChanged s.time

/-! ### The time tree (R401, R402) -/

/-- Devices of other groups that `f` has a live global port to and that satisfy `want`, ascending. -/
def globalReach (m : List DevRec) (f : Nat) (want : Nat → Bool) : List Nat :=
  ((liveLinks m f).filterMap (fun (_, x) => if groupOf x != groupOf f && want x then some x else none)).foldl
    (fun acc x => insertNat x acc) []

/-- A group's root and the device it takes as parent, among the devices that satisfy `want`. -/
def groupRoot (m : List DevRec) (g : Nat) (want : Nat → Bool) : Option (Nat × Nat) :=
  (members m g).findSome? (fun f => ((globalReach m f want).head?).map (fun x => (f, x)))

/-- The groups of a map. -/
def groupsOf (m : List DevRec) : List Nat := (m.filterMap (·.fid)).foldl (fun acc f => insertNat (groupOf f) acc) []

/-- The groups other than `g` that lead to those of `gs` without it. -/
def tiedGroups (m : List DevRec) (ok : Nat → Bool) (g : Nat) : Nat → List Nat → List Nat
  | 0, gs => gs
  | n + 1, gs =>
    let reach (x : Nat) : Bool := gs.contains (groupOf x) && ok x
    tiedGroups m ok g n (gs ++ (groupsOf m).filter (fun h => h != g && !gs.contains h && (groupRoot m h reach).isSome))

/-- The root of group `g` and its parent: a device that satisfies `ok` in the master's group (R401), else any that does in a group that
follows the master without `g` (R402). [log 106 DEDUCED] -/
def rootFrom (m : List DevRec) (ok : Nat → Bool) (g top : Nat) : Option (Nat × Nat) :=
  match groupRoot m g (fun x => groupOf x == top && ok x) with
  | some r => some r
  | none => groupRoot m g (fun x => (tiedGroups m ok g m.length [top]).contains (groupOf x) && ok x)

/-- A device taken as MASTER or LOCKED under master `master`. [log 106 DEDUCED] -/
def TimeUnit.synced (t : TimeUnit) (master x : Nat) : Bool := x == master || !t.adrift.contains x

/-- The device `self` takes as parent under master `master`, `ok` telling the devices that are MASTER or LOCKED. [log 106 DEDUCED] -/
def timeParent (m : List DevRec) (ok : Nat → Bool) (self master : Nat) : Option Nat :=
  if self = master then none
  else if groupOf self = groupOf master then some master
  else (rootFrom m ok (groupOf self) (groupOf master)).map (fun (f, x) => if f = self then x else f)

/-- The port to the parent, and the hops to the master as the tree has them. -/
def State.parentPort (s : State) (master : Nat) : Option Nat :=
  match s.spetar.fid with
  | none => none
  | some self => (timeParent s.topology (s.time.synced master) self master).bind (fun x => (directPorts s.topology self x).head?)

def treeHops (m : List DevRec) (ok : Nat → Bool) (self master : Nat) : Nat → Nat
  | 0 => 0
  | n + 1 => match timeParent m ok self master with
    | none => 0
    | some x => 1 + treeHops m ok x master n

/-- Choose a parent under the master held; with none the device is in HOLDOVER. [log 106 DEDUCED] -/
def State.chooseParent (s : State) : State :=
  match s.parentPort s.time.masterId with
  | none => s.enterSync .holdover
  | some p =>
    if s.time.parent = some p && s.time.state = .locked then s
    else
      let h := treeHops s.topology (s.time.synced s.time.masterId) (s.spetar.fid.getD 0) s.time.masterId (2 * s.topology.length)
      let f (t : TimeUnit) : TimeUnit := { t.enter .acquiring with parent := some p, hops := h, lastExchange := t.now, slew := none }
      (s.modTime f).timeChanged s.time

/-- A device that follows a master chooses again where the map gives it another parent than the one it has (R401). -/
def State.followMap (s : State) : State :=
  let follows := s.running .time && (s.time.state == .locked || s.time.state == .acquiring)
  if follows && s.time.parent != s.parentPort s.time.masterId then s.chooseParent else s

/-! ### Election (R407 to R410) -/

/-- Ports over which a neighbour is reached now; a MISCABLED one carries no TIME frame (R564). -/
def State.livePorts (s : State) : List Nat := (List.range 16).filter (fun n => s.portActive n && !s.miscabled n)

/-- A port that is not down: a calibration only pauses it (R541). -/
def State.linkUp (s : State) (n : Nat) : Bool := s.portActive n || (s.port n).state == .calibrating

/-- When every port is down, a device that follows is in HOLDOVER (R431). -/
def State.timeUnlinked (s : State) : State :=
  let follows := s.running .time && (s.time.state == .locked || s.time.state == .acquiring)
  if follows && !(List.range 16).any s.linkUp then (s.modTime (fun t => { t with slew := none })).enterSync .holdover else s

/-- A better candidate: higher priority first, then lower fabric ID (R408). -/
def betterMaster (prio fid prio' fid' : Nat) : Bool := decide (prio' < prio) || (prio == prio' && decide (fid < fid'))

/-- Take generation one above the highest held or heard and lead. -/
def State.lead (s : State) (gen : W16) : State :=
  let fid := s.spetar.fid.getD 0
  let f (t : TimeUnit) : TimeUnit :=
    { t.enter .master with
        masterValid := true, masterId := fid, masterPriority := t.priority, generation := gen, highestHeard := gen, slew := none
        candidacyEnd := none, heard := [], nextAnnounce := t.now }
  (s.modTime f).timeChanged s.time

/-- One above the highest generation held or heard. -/
def TimeUnit.nextGeneration (t : TimeUnit) : W16 := (if t.generation.toNat < t.highestHeard.toNat then t.highestHeard else t.generation) + 1

/-- What a discovery tells TIME: whether others were found; alone in HOLDOVER, the device becomes MASTER (R410, R423). [log 106 DEDUCED] -/
def State.timeDiscovered (s : State) (others : Bool) : State :=
  let s := s.modTime (fun t => { t with othersFound := others })
  if !others && s.time.state = .holdover && s.running .time then s.lead s.time.nextGeneration else s

end Sys2Proof.Machine
end

