-- ==== Sys2Proof/Machine/Fabric.lean ====
section
/-!
DEFINITION. The source side of the fabric: answers, retransmission, give-up and congestion (R579, R581, R584 to R590, R605,
R606); discovery, fabric IDs and link state (R560 to R565, R573, R608); keepalives (R519).
-/

namespace Sys2Proof.Machine
open Sys2Proof

/-! ### Ends of a request -/

def State.outstanding? (s : State) (d psn : Nat) : Option Outstanding := Tab.find? (s.dest d).out psn

def State.dropOut (s : State) (d psn : Nat) : State :=
  let q := s.dest d
  s.setDest d { q with out := Tab.erase q.out psn }

/-- A command's remote signal is answered: its status takes the place of OK (R160). -/
def State.signalEnded (s : State) (src : Source) (id : Nat) (st : Status) : State :=
  match (((s.cmd? src id).map (fun (c : Cmd) => c.phase)) : Option Phase) with
  | some (.signalling own res) => s.finish src id (if own = .ok then st else own) res
  | _ => s

/-- A write of a release is answered. -/
def State.gateWritten (s : State) (src : Source) (cmd : Nat) (st : Status) : State :=
  match s.slotOf src cmd with
  | none => s
  | some k =>
    let s := s.modGate k (fun g => { g with writes := g.writes - 1 })
    (if st = .ok then s else s.modGate k (fun g => g.fails st)).finishRelease k

/-- A message that its target did not take: a Trellis message, or any other of a round, that was given up or refused (R358, R504, R519); an
open request is answered. [log 128 DEDUCED] -/
def State.messageLost (s : State) (d : Nat) (e? : Option Nat) (m : RoundMsg) (st : Status) : State :=
  let s := match RoundMsg.tree? m with
    | some x => s.peerGone (treeKey x) d
    | none => s
  let s := match e? with
    | some e => s.participantLost e d
    | none => s
  match m with
  | .openRequest part id _ _ _ => s.openAnswered part id (.error (st, 0))
  | _ => s

/-- A request is answered by ACK, NAK or its data. [log 128 DEDUCED] -/
def State.endRequest (s : State) (o : Outstanding) (st : Status) : State :=
  let d := o.header.dst
  match o.purpose with
  | .data src id => s.remoteEnded src id st
  | .read src id _ _ _ => s.remoteEnded src id st
  | .headerSignal src id => s.signalEnded src id st
  | .probe src id => s.probeEnded src id st
  | .gate src id => s.gateWritten src id st
  | .roundMsg e m => if st = .ok then s.contributionAcked e d else s.messageLost d (some e) m st
  | .message m => if st = .ok then s else s.messageLost d none m st
  | .keepalive _ => s

/-- A request is given up (R586). [log 128 DEDUCED] -/
def State.giveUp (s : State) (d : Nat) (o : Outstanding) : State :=
  match o.purpose with
  | .data src id => s.remoteEnded src id .remoteUnreachable
  | .read src id _ _ _ => s.remoteEnded src id .remoteUnreachable
  | .headerSignal src id => s.signalEnded src id .remoteUnreachable
  | .probe src id => s.probeEnded src id .remoteUnreachable
  | .gate src id => s.gateWritten src id .remoteUnreachable
  | .keepalive k => s.peerGone k d
  | .roundMsg e m => s.messageLost d (some e) m .remoteUnreachable
  | .message m => s.messageLost d none m .remoteUnreachable

/-! ### Congestion (Table 17.6) -/

def baseRtt (l : List (Nat × Nat)) (x : Nat) : Nat := l.foldl (fun b y => min b y.2) x

/-- An RTT sample to a destination: the window grows or shrinks, traffic diverts or returns. [log 68 DEDUCED] -/
def Dest.sample (q : Dest) (now rtt : Nat) (minimal nonMinimal : Bool) : Dest :=
  let rtts := (now, rtt) :: q.rtts.filter (fun y => decide (now ≤ y.1 + 10000000))
  let base := baseRtt rtts rtt
  let low := decide (rtt < base + 1000)
  let high := decide (base + 4000 < rtt)
  let grow := low && decide (q.lastGrow + base ≤ now)
  let shrink := high && decide (q.lastShrink + base ≤ now)
  let above := if high && minimal then q.above + 1 else 0
  let below := if low then q.below + 1 else 0
  { q with
    rtts := rtts, above := above, below := below
    window := if grow then min 524288 (q.window + 4096) else if shrink then max 4096 (q.window * 3 / 4) else q.window
    lastGrow := if grow then now else q.lastGrow
    lastShrink := if shrink then now else q.lastShrink
    diverted := match q.diverted with
      | none => if nonMinimal && decide (3 ≤ above) then some now else none
      | some t => if decide (t + 100000 ≤ now) && decide (3 ≤ below) then none else some t }

/-- Log 68 DEDUCED. -/
def State.rttSample (s : State) (d : Nat) (o : Outstanding) : State :=
  s.setDest d ((s.dest d).sample s.now (s.now - o.lastSend) o.route.2.isNone s.spetar.nonMinimal)

/-! ### ACK, NAK, READ_RESP -/

/-- An answer for this device. -/
def State.answered (s : State) (h : FabHeader) (psn : Nat) (st : Status) (sample : Bool) : State :=
  match s.outstanding? h.src psn with
  | none => s
  | some o =>
    let s := if sample then s.rttSample h.src o else s
    ((s.dropOut h.src psn).endRequest o st).pump h.src

/-- ACK. -/
def actAck (h : FabHeader) (data : Bytes) (s : State) : State :=
  if s.inTransit h then (s.forward h data)
  else if s.spetar.fid != some h.dst || !s.running .fab then s
  else (s.answered h (h.offset % 2 ^ 32) .ok true)

def execAck (a : Arrival) (h : FabHeader) (data : Bytes) (s : State) : Host.Outcome State Fault Refusal :=
  s.conclude (s.receive a (.packet none h data) (actAck h data))

/-- NAK: the packet ends with its status. -/
def actNak (h : FabHeader) (data : Bytes) (s : State) : State :=
  if s.inTransit h then (s.forward h data)
  else if s.spetar.fid != some h.dst || !s.running .fab then s
  else (s.answered h (h.offset % 2 ^ 32) (Status.ofCode h.status) false)

def execNak (a : Arrival) (h : FabHeader) (data : Bytes) (s : State) : Host.Outcome State Fault Refusal :=
  s.conclude (s.receive a (.packet none h data) (actNak h data))

/-- Bytes of a read received so far. -/
def gotBytes (l : List (Nat × Bytes)) : Nat := l.foldl (fun n y => n + y.2.length) 0

/-- A response of an outstanding read: written, and with the last byte the request ends; one that carries poison ends it
and writes nothing. -/
def State.readData (s : State) (h : FabHeader) (data : Bytes) : State :=
  match s.outstanding? h.src h.psn with
  | none => s
  | some o =>
    match o.purpose with
    | .read _ _ ps dst len =>
      if h.status != 0 then s.answered h h.psn .poisoned false
      else if o.got.any (fun y => y.1 == h.offset) || len < h.offset + data.length then s
      else
        let s := s.writeRange ps (dst + h.offset) data
        let got := (h.offset, data) :: o.got
        let q := s.dest h.src
        let s := s.setDest h.src { q with out := Tab.insert q.out h.psn { o with got := got } }
        if gotBytes got = len then s.answered h h.psn .ok true else s
    | _ => s

/-- READ_RESP. -/
def actReadResp (h : FabHeader) (data : Bytes) (s : State) : State :=
  if s.inTransit h then (s.forward h data)
  else if s.spetar.fid != some h.dst || !s.running .fab then s
  else (s.readData h data)

def execReadResp (a : Arrival) (h : FabHeader) (data : Bytes) (s : State) : Host.Outcome State Fault Refusal :=
  s.conclude (s.receive a (.packet none h data) (actReadResp h data))

/-! ### Retransmission -/

/-- When the resend after `n` is due, from the first send: 8, 24, 56, … µs. -/
def resendAt (n : Nat) : Nat := 8000 * (2 ^ (n + 1) - 1)

/-- The route of retry `n`. -/
def State.retryRoute (s : State) (d : Nat) (o : Outstanding) (n : Nat) : Option Route :=
  match s.spetar.fid with
  | none => none
  | some f => if n ≤ 1 then firstRoute s.topology f d o.serial else nextRoute s.topology f d o.route

/-- A resend counts in its command. -/
def State.countResend (s : State) (o : Outstanding) : State :=
  let up (src : Source) (id : Nat) : State := s.modRemote src id (fun w => match w with
    | .remote n x r f => .remote n (x + 1) r f
    | w => w)
  match o.purpose with
  | .data src id => up src id
  | .read src id _ _ _ => up src id
  | _ => s

/-- RETRANSMIT_TIMEOUT. -/
def actRetransmitTimeout (dest psn : Nat) (s : State) : State :=
  match s.outstanding? dest psn with
  | none => s
  | some o =>
    if 7 ≤ o.retries || s.now < o.firstSend + resendAt o.retries || !s.running .fab then s
    else
      let n := o.retries + 1
      let r := (s.retryRoute dest o n).map (fun r => (r.port, r.via))
      let route := r.getD o.route
      let o' := { o with retries := n, lastSend := s.now, route := route, header := { o.header with retry := n, via := route.2 } }
      let q := s.dest dest
      let s := s.setDest dest { q with out := Tab.insert q.out psn o', window := max 4096 (q.window / 2) }
      (if r.isSome then (s.countResend o).emit (wireOf route.1 o') else s.countResend o)

def execRetransmitTimeout (dest psn : Nat) (s : State) : Host.Outcome State Fault Refusal := s.conclude (actRetransmitTimeout dest psn s)

/-- RETRANSMIT_GIVE_UP. -/
def actRetransmitGiveUp (dest psn : Nat) (s : State) : State :=
  match s.outstanding? dest psn with
  | none => s
  | some o =>
    if s.now < o.firstSend + 2040000 then s
    else ((((s.dropOut dest psn).giveUp dest o).raisePf .fabric).pump dest)

def execRetransmitGiveUp (dest psn : Nat) (s : State) : Host.Outcome State Fault Refusal := s.conclude (actRetransmitGiveUp dest psn s)

/-! ### Keepalives -/

/-- The tree neighbours this node waits on, with the Trellis: of sums in progress, of harvests without a RESULT, and of
reveal barriers not yet closed. [log 51 DEDUCED] -/
def State.waitedOn (s : State) : List (Nat × Nat) :=
  let sums := List.flatMap (fun (y : Nat × Formed) => y.2.sums.flatMap (fun x =>
    if !x.started then []
    else
      let place (d : Nat) : Nat := ((s.sealRound y.1 x.key).map (fun (r : Round) => Tab.get r.replaced d d)).getD d
      (treePeers x.members x.self).map (fun d => (y.1, place d)))) s.trellis.formed
  let ors := List.flatMap (fun (y : Nat × Round) =>
    let r := y.2
    let open_ := (r.harvestOpen && r.harvest.stage != .idle) || (r.state == .harvested && r.barrier.isSome)
    if !r.policy.fabric || r.shadow || !open_ then []
    else (treePeers r.live (s.selfIn r) ++ (r.harvest.reach).toList).map (fun d => (tkey r.part r.policy.trellis, Tab.get r.replaced d d))) s.rounds.table
  (sums ++ ors).foldl (fun l y => if l.contains y then l else l ++ [y]) []

/-- KEEPALIVE: every 100 µs. [log 51 DEDUCED] -/
def actKeepalive (s : State) : State :=
  if s.now < s.trellis.nextKeepalive || !s.running .fab then s
  else
    let s := { s with trellis := { s.trellis with nextKeepalive := s.now + 100000 } }
    (s.waitedOn.foldl (fun s (k, d) =>
      if !s.time.qualified || s.spetar.fid.isNone then s
      else
        let o : Outstanding :=
          { header := { type := .keepalive, src := s.ownFid, dst := d, vc := 3 }, payload := [], bytes := 0, serial := s.spetar.serial
            purpose := .keepalive k }
        s.sendRequests d [o]) s)

def execKeepalive (s : State) : Host.Outcome State Fault Refusal := s.conclude (actKeepalive s)

/-! ### Fabric IDs (R561, R562) -/

def udidNum (u : Bytes) : Nat := beNat u

/-- Insert a record by ascending UDID. -/
def insertRec (d : DevRec) : List DevRec → List DevRec
  | [] => [d]
  | x :: t => if udidNum d.udid ≤ udidNum x.udid then d :: x :: t else x :: insertRec d t

/-- The devices a local link joins to `d`. -/
def localPeers (m : List DevRec) (d : DevRec) : List DevRec :=
  m.filter (fun x => d.ports.any (fun (p, u, q) => u == x.udid && isLocalPort p && isLocalPort q))

/-- Grow a set of devices over local links. -/
def growGroup (m : List DevRec) : Nat → List DevRec → List DevRec
  | 0, l => l
  | fuel + 1, l =>
    let more := (l.flatMap (localPeers m)).filter (fun x => !l.contains x)
    match more with
    | [] => l
    | x :: _ => growGroup m fuel (x :: l)

/-- Group candidates in ascending order of their lowest UDID, each ascending. -/
def candidatesAux : Nat → List DevRec → List (List DevRec)
  | 0, _ => []
  | _, [] => []
  | fuel + 1, d :: t =>
    let g := (growGroup (d :: t) (t.length + 1) [d]).foldl (fun l x => insertRec x l) []
    g :: candidatesAux fuel (t.filter (fun x => !g.contains x))

def candidates (m : List DevRec) : List (List DevRec) :=
  let l := m.foldl (fun l x => insertRec x l) []
  candidatesAux l.length l

/-- The fabric ID a device keeps through this discovery. -/
def keptId (full : Bool) (d : DevRec) : Option Nat := if full then none else d.fid

/-- The group a candidate has from a kept ID. -/
def heldGroup (full : Bool) (g : List DevRec) : Option Nat := (g.findSome? (keptId full)).map groupOf

/-- The group its lowest-UDID device requests. -/
def askedGroup (g : List DevRec) : Option Nat := (g.head?.bind (·.fidReq)).map groupOf

/-- Group numbers of the candidates in order: that of a kept ID, else the one requested or a free one. -/
def groupNumbers (full : Bool) (all : List (List DevRec)) : List Nat → List (List DevRec) → List (Option Nat)
  | _, [] => []
  | taken, g :: t =>
    let asked := all.filterMap askedGroup
    let free := (List.range 64).find? (fun n => !taken.contains n && !asked.contains n)
    let pick := match heldGroup full g, askedGroup g with
      | some n, _ => some n
      | none, some n => if taken.contains n then free else some n
      | none, none => free
    pick :: groupNumbers full all (taken ++ pick.toList) t

/-- Give a fabric ID, unless some device holds it. -/
def giveId (ids : List (Bytes × Nat)) (u : Bytes) (f : Nat) : List (Bytes × Nat) := if ids.any (fun y => y.2 == f) then ids else ids ++ [(u, f)]

/-- The devices of a candidate that have no ID receive one of group `n` while it has room: honoured requests, then the lowest free member
numbers, in ascending UDID (R561). -/
def fitGroup (ids : List (Bytes × Nat)) (n : Nat) (g : List DevRec) : List (Bytes × Nat) :=
  let room := 8 - (ids.filter (fun y => groupOf y.2 == n)).length
  let fresh := (g.filter (fun d => !ids.any (fun y => y.1 == d.udid))).take room
  let ids := fresh.foldl (fun ids d => match d.fidReq with
    | some f =>
      if groupOf f = n && !(g.any (fun x => decide (udidNum x.udid < udidNum d.udid) && x.fidReq.any (fun y => y % 8 == f % 8))) then
        giveId ids d.udid f else ids
    | none => ids) ids
  (fresh.filter (fun d => !ids.any (fun y => y.1 == d.udid))).foldl (fun ids d =>
    match (List.range 8).find? (fun k => !ids.any (fun y => y.2 == 8 * n + k)) with
    | some k => ids ++ [(d.udid, 8 * n + k)]
    | none => ids) ids

/-- The assignment over a map: kept IDs stand, and newcomers are fitted around them; candidates past the 64th receive none (R561, R562).
[log 67 DEDUCED] -/
def assignIds (full : Bool) (m : List DevRec) : List (Bytes × Nat) :=
  let cs := (candidates m).take 64
  let kept := m.filterMap (fun d => (keptId full d).map (fun f => (d.udid, f)))
  (List.zip cs (groupNumbers full cs (kept.map (fun y => groupOf y.2)) cs)).foldl (fun ids (g, n?) => match n? with
    | none => ids
    | some n => fitGroup ids n g) kept

/-! ### Discovery (R560, R563, R573, R608) -/

/-- The header of a device's own discovery or link-state message: it is for every device, and no rule numbers it. [log 145 DEDUCED] -/
def State.floodHeader (s : State) (t : PktType) : FabHeader :=
  { type := t, src := s.spetar.fid.getD (Config.headerField 4), dst := Config.headerField 0, psn := Config.headerField 1
    expiry := Config.headerField 5, last := true, vc := 3 }

/-- Send a record on every ACTIVE port. [log 69 DEDUCED] -/
def State.flood (s : State) (h : FabHeader) (d : DevRec) : State :=
  (List.range 16).foldl (fun s n => if s.portActive n then s.emit (.flood n h d) else s) s

/-- Flood the device's own record: a discovery message while one runs, else a link-state message (R560, R565). -/
def State.floodOwn (s : State) : State :=
  s.flood (s.floodHeader (if s.spetar.discovering.isSome then .discover else .linkState)) { s.ownRec with full := s.spetar.discovering == some true }

/-- Every device a known port names has been heard. -/
def State.floodClosed (s : State) : Bool :=
  let known := s.ownRec :: s.spetar.map.filter (fun d => s.spetar.seen.contains d.udid)
  known.all (fun d => d.ports.all (fun (_, u, _) => u == udid || s.spetar.seen.contains u))

/-- Devices that hold a fabric ID. -/
def State.devices (s : State) : Nat := (s.topology.filter (fun d => d.fid.isSome)).length

/-- Forget the sequence state of a pair. -/
def State.forgetPair (s : State) (f : Nat) : State :=
  let q := s.dest f
  { (s.setDest f { q with nextPsn := 0 }) with spetar := { (s.setDest f { q with nextPsn := 0 }).spetar with
      applied := Tab.erase s.spetar.applied f, highest := Tab.erase s.spetar.highest f } }

/-- End every request to every device (R608). -/
def State.endAllRequests (s : State) : State :=
  let all := List.flatMap (fun (y : Nat × Dest) =>
    List.map (fun (z : Nat × Outstanding) => (y.1, z.2)) y.2.out ++ y.2.unsent.map (fun o => (y.1, o))) s.spetar.dests
  let s := { s with spetar := { s.spetar with dests := [], applied := [], highest := [], windows := [] } }
  all.foldl (fun s (d, o) => s.giveUp d o) s

/-- The discovery completes: IDs, fresh pairs, the views where FABRIC_ID changes (R563), and the FAB_DISCOVER commands that wait for it.
[log 134 DEDUCED] -/
def State.endDiscovery (s : State) : State :=
  let full := s.spetar.discovering == some true
  let heard := s.spetar.map.filter (fun d => s.spetar.seen.contains d.udid)
  let ids := assignIds full (s.ownRec :: heard)
  let idOf (u : Bytes) : Option Nat := (ids.find? (fun y => y.1 == u)).map (·.2)
  let before := s.spetar.fid
  let own := idOf udid
  let fresh := heard.filterMap (fun d => if d.fid.isNone then idOf d.udid else none)
  let refused := s.spetar.fidReq.isSome && s.spetar.fidReq != own
  let s := { s with spetar := { s.spetar with
    fid := own, map := heard.map (fun d => { d with fid := idOf d.udid, full := false }), discovering := none
    fidConflict := if refused then satAdd32 s.spetar.fidConflict 1 else s.spetar.fidConflict } }
  let s := if before.isNone then { s with spetar := { s.spetar with dests := [], applied := [], highest := [] } }
    else if before != own then s.endAllRequests
    else fresh.foldl State.forgetPair s
  let s := if before != own then s.stepAllViews else s
  let s := s.timeDiscovered !heard.isEmpty
  let res := [w32 s.devices, w32 (own.getD 0xFFFFFFFF)]
  (s.raisePf .fabric).completeWork (fun w => match w with
    | .discover _ => some (.ok, res.map (·.toNat))
    | _ => none)

/-- Begin a discovery here. [log 67 DEDUCED] -/
def State.beginDiscovery (s : State) (full : Bool) : State :=
  ({ s with spetar := { s.spetar with discovering := some full, seen := [], discoveredAt := some s.now } }).floodOwn

def specFabDiscover : OpSpec := { code := 0x0500, callC := true, callM := true, used := [0], checks := [.mask 0 1] }

/-- FAB_DISCOVER: the flood, until every device named in it has been heard or 20 ms are over. -/
def bodyFabDiscover : Body := fun c s =>
  let full := bit (c.w 0) 0
  let open_ := List.any s.rounds.table (fun y => y.2.policy.fabric && !y.2.state.isAborted)
  if full && (open_ || !s.trellis.formed.isEmpty) then fail .notPermitted s
  else
    let w : Work := .discover (s.now + 20000000)
    let s := (s.modCmd c.src c.id (fun d => { d with phase := .executing w })).beginDiscovery full
    (.run w, if s.floodClosed then s.endDiscovery else s)

def execFabDiscover (src : Source) (pkt : Packet) (s : State) : Host.Outcome State Fault Refusal :=
  runRow specFabDiscover bodyFabDiscover src pkt s

/-- A discovery whose 20 ms are over completes with what has been heard. [log 67 DEDUCED] -/
def State.discoveryDue (s : State) (w : Work) : Bool :=
  match w with
  | .discover t => decide (t ≤ s.now)
  | _ => false

def specFabRoutes : OpSpec := { code := 0x0501, callC := true, used := [0], checks := [.mask 0 1] }

/-- FAB_ROUTES: routes are always those of the map as it stands; the bit allows diversion (R569). -/
def bodyFabRoutes : Body := fun c s => okRes [] { s with spetar := { s.spetar with nonMinimal := bit (c.w 0) 0 } }

def execFabRoutes (src : Source) (pkt : Packet) (s : State) : Host.Outcome State Fault Refusal :=
  runRow specFabRoutes bodyFabRoutes src pkt s

/-- Put a device's record into the map. [log 67 DEDUCED] -/
def State.noteDevice (s : State) (d : DevRec) : State :=
  { s with spetar := { s.spetar with map := d :: s.spetar.map.filter (fun x => x.udid != d.udid) } }

/-- A message of a discovery that has ended here: it was seen in it, with the same request and ports, and the 20 ms of a discovery are not over (R560). [log 67 DEDUCED] -/
def State.lateCopy (s : State) (d : DevRec) : Bool :=
  s.spetar.discovering.isNone && s.spetar.seen.contains d.udid && s.spetar.discoveredAt.any (fun t => decide (s.now < t + 20000000)) &&
    (devByUdid s.spetar.map d.udid).any (fun x => x.fidReq == d.fidReq && x.ports == d.ports)

/-- DISCOVER: a message not seen in this discovery is forwarded on every ACTIVE port; the first makes the device flood its
own record. -/
def actDiscover (h : FabHeader) (d : DevRec) (s : State) : State :=
  if !s.running .fab || d.udid = udid || s.lateCopy d then s
  else
    let s := if s.spetar.discovering.isNone then s.beginDiscovery d.full else s
    if s.spetar.seen.contains d.udid then s
    else
      let s := ({ s with spetar := { s.spetar with seen := s.spetar.seen ++ [d.udid] } }).noteDevice d
      let s := s.flood h d
      (if s.floodClosed then s.endDiscovery else s)

def execDiscover (a : Arrival) (h : FabHeader) (d : DevRec) (s : State) : Host.Outcome State Fault Refusal :=
  s.conclude (s.receive a (.flood a.port.val h d) (actDiscover h d))

/-- LINK_STATE: a record that says something new is forwarded; routes and the time tree follow the map (R401). [log 69 DEDUCED] -/
def actLinkState (h : FabHeader) (d : DevRec) (s : State) : State :=
  if !s.running .fab || d.udid = udid then s
  else if devByUdid s.spetar.map d.udid = some d then s
  else ((s.noteDevice d).flood h d).followMap

def execLinkState (a : Arrival) (h : FabHeader) (d : DevRec) (s : State) : Host.Outcome State Fault Refusal :=
  s.conclude (s.receive a (.flood a.port.val h d) (actLinkState h d))

end Sys2Proof.Machine
end

