-- ==== Sys2Proof/Machine/Tasks.lean ====
section
/-!
DEFINITION. How resident tasks stop, and their primitives (R219 to R221, Table 6.3). A program's own registers and control flow are
outside the spec: each event names the task, and what its primitive moves.
-/

namespace Sys2Proof.Machine
open Sys2Proof

/-! ### Stops (R221, R476) -/

/-- A task stops, and descriptors that waited take the slots of its units (R476). -/
def State.endTask (s : State) (t : TaskId) (st : TaskState) : State := (s.stopTask t st).refill t.part

/-- A task faults: stopped, with its cause in the error log (R221). [log 39 DEDUCED] -/
def State.faultTask (s : State) (t : TaskId) : State :=
  (s.endTask t .faulted).logErr 3 .fe (BitVec.ofNat 8 t.part.val) .contained .queueFault 0 (w32 (16 + t.slot.val))

def specResidentStop : OpSpec := { code := 0x0007, callP := true, used := [0], checks := [.mask 0 7] }

/-- RESIDENT_STOP moves a task from any state but STOPPED to STOPPED (R221, Table 5.5). [log 35 DEDUCED] -/
def bodyResidentStop : Body := fun c s =>
  match srcPart c.src with
  | none => fail .notPermitted s
  | some p =>
    let t : TaskId := { part := p, slot := Fin.ofNat 8 (bits (c.w 0) 2 0) }
    if (s.taskOf t).state = .stopped then fail .notPermitted s else okRes [] (s.endTask t .stopped)

def execResidentStop (src : Source) (pkt : Packet) (s : State) : Host.Outcome State Fault Refusal :=
  runRow specResidentStop bodyResidentStop src pkt s

/-! ### Primitives -/

/-- How a primitive ends: `none` where Table 6.3 does not allow it, or where it meets a fault. -/
abbrev Primitive := State → Option State × State

/-- A task's accesses carry its agent number, 16 + slot. -/
def taskAgent (t : TaskId) : Nat := 16 + t.slot.val

/-- Whether a queue is in the task's served mask. -/
def servedBy (r : Task) (q : Nat) : Bool := bit r.served.toNat q

/-! ### WAIT -/

/-- Whether what a WAIT names already holds. [log 39 DEDUCED] -/
def waitHolds (s : State) (t : TaskId) (fences : List (Nat × Nat)) (inbox : Bool) : Bool :=
  fences.any (fun (f, lim) => decide (lim ≤ (s.fence (fenceKey (some t.part) f)).toNat)) ||
    (inbox && !(s.taskOf t).inbox.isEmpty)

/-- Log 39 DEDUCED. -/
def primWait (t : TaskId) (fences : List (Nat × Nat)) (inbox : Bool) (served : List Nat) : Primitive := fun s =>
  let r := s.taskOf t
  if fences.length > 8 || fences.any (fun (f, _) => decide (4096 ≤ f)) || served.any (fun q => !servedBy r q) then (none, s)
  else if waitHolds s t fences inbox then (some s, s)
  else (some (s.setTask t { r with state := .waiting, wait := { fences := fences, inbox := inbox, records := served } }), s)

/-! ### READ, WRITE -/

def taskMemBytes : Nat := 2 ^ 18

/-- Whether a READ or WRITE has the form Table 6.3 allows: up to 4 KiB, inside task memory and the address space. -/
def moveForm (va loc len : Nat) : Bool := decide (len ≤ 4096) && decide (loc + len ≤ taskMemBytes) && decide (va + len ≤ 2 ^ 48)

def primRead (t : TaskId) (va loc len : Nat) : Primitive := fun s =>
  if !moveForm va loc len then (none, s)
  else
    match s.translate t.part (taskAgent t) va len false with
    | (.error _, s') => (none, s')
    | (.ok ps, s') =>
      match s'.readRange (BitVec.ofNat 8 t.part.val) ps va len with
      | (.error _, s'') => (none, s'')
      | (.ok d, s'') =>
        let r := s''.taskOf t
        (some (s''.setTask t { r with mem := memWrite r.mem loc d }), s'')

def primWrite (t : TaskId) (va loc len : Nat) : Primitive := fun s =>
  if !moveForm va loc len then (none, s)
  else
    match s.translate t.part (taskAgent t) va len true with
    | (.error _, s') => (none, s')
    | (.ok ps, s') => (some (s'.writeRange ps va (memRead (s'.taskOf t).mem loc len)), s')

/-! ### PUT_SLOT, TAKE_RECORD, TAKE_MESSAGE -/

def primPutSlot (t : TaskId) (q : Fin 16) (slot : Nat) (data : Bytes) : Primitive := fun s =>
  let k := s.queue (.part t.part q)
  let far := (slot + 2 ^ 32 - k.head.toNat) % 2 ^ 32
  if !servedBy (s.taskOf t) q.val || !k.tailSource || k.cmdLoc != .device || decide (slotsOf k.cmdLog2 ≤ far) then (none, s)
  else
    let a := k.cmdBase.toNat + 64 * (slot % slotsOf k.cmdLog2)
    match s.translate t.part (taskAgent t) a 64 true with
    | (.error _, s') => (none, s')
    | (.ok ps, s') => (some (s'.writeRange ps a (fit 64 data)), s')

/-- The record at CQ_HEAD of a queue whose completion ring lies in device memory. -/
def State.recordAtHead (s : State) (t : TaskId) (q : Fin 16) : Except Status Bytes × State :=
  let k := s.queue (.part t.part q)
  let a := k.cqBase.toNat + 32 * (k.cqHead.toNat % 2 ^ (k.cqLog2 - 5))
  match s.translate t.part (taskAgent t) a 32 false with
  | (.error st, s') => (.error st, s')
  | (.ok ps, s') => s'.readRange (BitVec.ofNat 8 t.part.val) ps a 32

/-- The record at CQ_HEAD: from device memory at once, from host memory by a read that the task waits for; an empty ring gives none.
[log 39 DEDUCED, 143 DESIGN CHOICE] -/
def primTakeRecord (t : TaskId) (q : Fin 16) : Primitive := fun s =>
  let k := s.queue (.part t.part q)
  if !servedBy (s.taskOf t) q.val then (none, s)
  else if k.cqHead = k.cqTail then (some s, s)
  else
    let advance (s : State) (d : Bytes) : State :=
      (s.modQueue (.part t.part q) (fun k => { k with cqHead := k.cqHead + 1 })).setTask t { s.taskOf t with taken := d }
    match k.cqLoc with
    | .host =>
      if s.readRoom (.vf t.part) = 0 then (some (s.setTask t { s.taskOf t with step := some (.takeRecord q) }), s)
      else
        let tag := s.nextRead (.vf t.part)
        let s := s.issueRead (.vf t.part) (k.cqBase.toNat + 32 * (k.cqHead.toNat % 2 ^ (k.cqLog2 - 5))) 32 (.record t q)
        (some (s.setTask t { s.taskOf t with fetching := some tag }), s)
    | .device =>
      match s.recordAtHead t q with
      | (.error _, s') => (none, s')
      | (.ok d, s') => (some (advance s' d), s')

/-- The record that a TAKE_RECORD read from host memory arrives: it is the task's, and CQ_HEAD advances. -/
def State.recordArrives (s : State) (t : TaskId) (q : Fin 16) (tag : Nat) (d : Bytes) : State :=
  if (s.taskOf t).fetching ≠ some tag then s
  else
    let s := s.modQueue (.part t.part q) (fun k => { k with cqHead := k.cqHead + 1 })
    (s.setTask t { s.taskOf t with taken := d, fetching := none }).progressBy (.task t) 1

/-- That read fails: the task is FAULTED. [log 143 DESIGN CHOICE] -/
def State.recordFails (s : State) (t : TaskId) (tag : Nat) : State :=
  if (s.taskOf t).fetching ≠ some tag then s else s.faultTask t

/-- The oldest RESIDENT_POST that waits for room in a task's inbox. -/
def State.waitingPost (s : State) (t : TaskId) : Option (Cmd × List W32) :=
  s.q.cmds.findSome? (fun c => match c.phase with
    | .executing (.post u m) => if u == t then some (c, m) else none
    | _ => none)

def primTakeMessage (t : TaskId) : Primitive := fun s =>
  let r := s.taskOf t
  match r.inbox with
  | [] => (none, s)
  | m :: rest =>
    let s := s.setTask t { r with inbox := rest, taken := bytesOf m }
    match s.waitingPost t with
    | none => (some s, s)
    | some (c, m') =>
      let r' := s.taskOf t
      (some ((s.setTask t { r' with inbox := r'.inbox ++ [m'] }).complete c.src c.id .ok []), s)

/-! ### SIGNAL, OWN_FENCE, DROP_FENCE -/

def primSignal (t : TaskId) (fence : Nat) (op : FenceOp) (v : W64) : Primitive := fun s =>
  let k := fenceKey (some t.part) fence
  if 4096 ≤ fence || (s.taskOf t).lost.contains fence || !s.mayWriteFence k (some (.task t)) then (none, s)
  else (some (s.signalFence k op v (some (.task t))).2, s)

/-- FENCE_OWN leases a task holds. -/
def State.fencesHeld (s : State) (t : TaskId) : Nat :=
  (List.filter (fun (y : Nat × Lease) => fenceHeldBy t y.1 y.2) s.q.leases).length

def primOwnFence (t : TaskId) (fence : Nat) : Primitive := fun s =>
  let k := fenceKey (some t.part) fence
  let r := s.taskOf t
  match s.fenceOwner k with
  | some a => if a == .task t then (some s, s) else (none, s)
  | none =>
    if 4096 ≤ fence || 8 ≤ s.fencesHeld t then (none, s)
    else (some ((s.setLease 4 k { owner := some t.part, holder := .agent (.task t) r.epoch }).setTask t
      { r with lost := r.lost.filter (· != fence) }), s)

def primDropFence (t : TaskId) (fence : Nat) : Primitive := fun s =>
  let k := fenceKey (some t.part) fence
  if 4096 ≤ fence || (s.taskOf t).lost.contains fence then (none, s)
  else match s.fenceOwner k with
    | none => (some s, s)
    | some a => if a == .task t then (some (s.dropLease 4 k), s) else (none, s)

/-! ### Steps -/

/-- The primitive that a step is (Table 6.3). -/
def primitiveOf (t : TaskId) : TaskStep → Primitive
  | .wait fences inbox served => primWait t fences inbox served
  | .read va loc len => primRead t va loc len
  | .write va loc len => primWrite t va loc len
  | .putSlot q slot data => primPutSlot t q slot data
  | .takeRecord q => primTakeRecord t q
  | .takeMessage => primTakeMessage t
  | .signal fence op v => primSignal t fence op v
  | .ownFence fence => primOwnFence t fence
  | .dropFence fence => primDropFence t fence

/-- A primitive is not complete while the task sleeps in it, or its record is still to come. -/
def Task.midStep (r : Task) : Bool := r.state == .waiting || r.fetching.isSome || r.step.isSome

/-- The step of a task in its dispatch slot: it counts for the agent's progress when it is complete (R222), or moves the task to FAULTED
(R219, R221). -/
def State.runStep (s : State) (t : TaskId) : State :=
  match (s.taskOf t).step with
  | none => s
  | some p =>
    let s := s.setTask t { s.taskOf t with step := none }
    match primitiveOf t p s with
    | (some s', _) => if (s'.taskOf t).midStep then s' else s'.progressBy (.task t) 1
    | (none, s') => s'.faultTask t

/-- A running task comes to its next primitive: it runs in the slot that R208 to R210 give it, now where the sequencer's next slot is the
task's, else in a later DISPATCH. Nothing happens to a task that does not run, or whose step before is not complete. -/
def State.taskStep (s : State) (t : TaskId) (p : TaskStep) : State :=
  let r := s.taskOf t
  if r.state != .running || r.step.isSome || r.fetching.isSome then s
  else
    let csq := t.slot.val % 4
    let s := s.setTask t { r with step := some p }
    match s.slotChoice csq with
    | some (.task u, k) => if u == t then (s.giveSlot csq (.task t) k).runStep t else s
    | _ => s

/-- WAIT: the task sleeps until one of the conditions named holds. -/
def actTaskWait (t : TaskId) (fences : List (Nat × Nat)) (inbox : Bool) (served : List Nat) (s : State) : State := s.taskStep t (.wait fences inbox served)

def execTaskWait (t : TaskId) (fences : List (Nat × Nat)) (inbox : Bool) (served : List Nat) (s : State) : Host.Outcome State Fault Refusal :=
  s.conclude (actTaskWait t fences inbox served s)

/-- READ: partition memory to task memory. -/
def actTaskRead (t : TaskId) (va loc len : Nat) (s : State) : State := s.taskStep t (.read va loc len)

def execTaskRead (t : TaskId) (va loc len : Nat) (s : State) : Host.Outcome State Fault Refusal := s.conclude (actTaskRead t va loc len s)

/-- WRITE: task memory to partition memory. -/
def actTaskWrite (t : TaskId) (va loc len : Nat) (s : State) : State := s.taskStep t (.write va loc len)

def execTaskWrite (t : TaskId) (va loc len : Nat) (s : State) : Host.Outcome State Fault Refusal := s.conclude (actTaskWrite t va loc len s)

/-- PUT_SLOT: one slot of a served queue's ring, below HEAD + S. -/
def actPutSlot (t : TaskId) (q : Fin 16) (slot : Nat) (data : Bytes) (s : State) : State := s.taskStep t (.putSlot q slot data)

def execPutSlot (t : TaskId) (q : Fin 16) (slot : Nat) (data : Bytes) (s : State) : Host.Outcome State Fault Refusal :=
  s.conclude (actPutSlot t q slot data s)

/-- TAKE_RECORD: the next completion record of a served queue; its CQ_HEAD advances. -/
def actTakeRecord (t : TaskId) (q : Fin 16) (s : State) : State := s.taskStep t (.takeRecord q)

def execTakeRecord (t : TaskId) (q : Fin 16) (s : State) : Host.Outcome State Fault Refusal := s.conclude (actTakeRecord t q s)

/-- TAKE_MESSAGE: the oldest message leaves the inbox, and a RESIDENT_POST that waited enters (R220). -/
def actTakeMessage (t : TaskId) (s : State) : State := s.taskStep t .takeMessage

def execTakeMessage (t : TaskId) (s : State) : Host.Outcome State Fault Refusal := s.conclude (actTakeMessage t s)

/-- SIGNAL: ADD or MAX on a fence that no other agent owns; a lease lost to Shears makes it fail (R226). -/
def actTaskSignal (t : TaskId) (fence : Nat) (op : FenceOp) (v : W64) (s : State) : State := s.taskStep t (.signal fence op v)

def execTaskSignal (t : TaskId) (fence : Nat) (op : FenceOp) (v : W64) (s : State) : Host.Outcome State Fault Refusal :=
  s.conclude (actTaskSignal t fence op v s)

/-- OWN_FENCE takes a FENCE_OWN lease on a fence that is free, or already held by the task; at most 8. -/
def actOwnFence (t : TaskId) (fence : Nat) (s : State) : State := s.taskStep t (.ownFence fence)

def execOwnFence (t : TaskId) (fence : Nat) (s : State) : Host.Outcome State Fault Refusal := s.conclude (actOwnFence t fence s)

/-- DROP_FENCE releases it (R934). -/
def actDropFence (t : TaskId) (fence : Nat) (s : State) : State := s.taskStep t (.dropFence fence)

def execDropFence (t : TaskId) (fence : Nat) (s : State) : Host.Outcome State Fault Refusal := s.conclude (actDropFence t fence s)

end Sys2Proof.Machine
end

