-- ==== Sys2Proof/Machine/QueueRegs.lean ====
section
/-!
DEFINITION. Register writes of queues, fences and partitions with behaviour of their own: doorbells, CTRL, the fence
window, page-table roots, faults and chunk releases (ch. 6, ch. 19, ch. 27).
-/

namespace Sys2Proof.Machine
open Sys2Proof

/-- The registers of a partition's VF are there: the VF is present and answers (R134, R150), the partition exists, and no FLR is in progress
(R887); their island is in RUN (R90). -/
def State.vfOpen (s : State) (p : Fin 64) : Bool := s.barAnswers (.vf p) && s.created p && !s.flrActive p && s.running .fe

/-- A doorbell write that a closed VF discards is counted (R141). -/
def State.closedDoorbell (s : State) : State := { s with hif := { s.hif with closedCount := s.hif.closedCount + 1 } }

/-- What follows a write to a VF register that is not open. -/
def State.vfDiscard (s : State) (p : Fin 64) (doorbell : Bool) : State :=
  if !s.barAnswers (.vf p) then s.unanswered
  else if !s.running .fe then s.dropWrite .fe
  else if doorbell then s.closedDoorbell
  else s

/-! ### Tails, completion heads -/

/-- A tail written by software: ignored and counted where a fence gives the tail (R202). -/
def Queue.writeTail (q : Queue) (v : W32) : Queue :=
  if q.tailSource then { q with ignored := satAdd32 q.ignored 1 } else q.offer v

/-- Write the held records of a queue in completion order while it can take them (R206, R935). -/
def State.flushAux (s : State) (src : Source) : Nat → State
  | 0 => s
  | fuel + 1 =>
    match s.nextDone src with
    | none => s
    | some c =>
      if (s.queue src).cqFull || (s.queue src).stop == .recordFault then s
      else match c.phase with
        | .done _ st res time => (s.writeNextRecord src c st res time).flushAux src fuel
        | _ => s

/-- What follows the records: a round that no command names any more may close (R42). -/
def State.flushRecords (s : State) (src : Source) : State :=
  let t := s.flushAux src (s.cmdsOf src).length
  if t.q.cmds.length < s.q.cmds.length then t.closeAborted else t

/-- CQ_HEAD is set, and records that waited for room are written (R206). -/
def State.setCqHead (s : State) (src : Source) (v : W32) : State :=
  (s.modQueue src (fun q => { q with cqHead := v })).flushRecords src

/-- PT_DOORBELL_TAIL: a new tail (R201, R202, R892); an aligned 64-bit write also gives the new CQ_HEAD, which takes
effect first (R895). -/
def actPtDoorbellTail (p : Fin 64) (q : Fin 16) (tail : W32) (cqHead : Option W32) (s : State) : State :=
  if !s.vfOpen p then (s.vfDiscard p true)
  else
    let s := match cqHead with
      | some h => s.setCqHead (.part p q) h
      | none => s
    (s.modQueue (.part p q) (fun k => k.writeTail tail))

def execPtDoorbellTail (p : Fin 64) (q : Fin 16) (tail : W32) (cqHead : Option W32) (s : State) : Host.Outcome State Fault Refusal :=
  s.conclude (actPtDoorbellTail p q tail cqHead s)

/-- PT_DOORBELL_CQ_HEAD (R206, R892). -/
def actPtDoorbellCqHead (p : Fin 64) (q : Fin 16) (v : W32) (s : State) : State :=
  if !s.vfOpen p then (s.vfDiscard p false) else (s.setCqHead (.part p q) v)

def execPtDoorbellCqHead (p : Fin 64) (q : Fin 16) (v : W32) (s : State) : Host.Outcome State Fault Refusal :=
  s.conclude (actPtDoorbellCqHead p q v s)

/-! ### Queue states (R223, Table 6.4b) -/

/-- The wait kind a command at stage 5 shows, `none` where it shows EXECUTING: a HARVEST waits for its deadline and then for the Trellis that
a fabric round has, a SHARES_SUBMIT while its records are held for the reveal barrier (R223, R339). [log 21 DEDUCED] -/
def State.workKind (s : State) : Work → Option WaitKind
  | .fenceWait _ _ => some .fence
  | .barrier _ => some .barrier
  | .harvest e => match Tab.find? s.rounds.table e with
    | none => none
    | some r => if s.now < r.policy.deadline then some .deadline else if r.policy.fabric then some .peer else none
  | .shares _ held _ _ _ _ _ _ => if held.isEmpty then none else some .peer
  | .trellis _ _ => some .peer
  | .seal _ => some .peer
  | .releaseWait _ => some .peer
  | .context _ none _ _ _ _ => some .peer
  | .weights none _ _ _ _ _ _ => some .peer
  | .weights _ none _ _ _ _ _ => some .peer
  | _ => none

/-- What one command in flight shows: executing, waiting with a kind, or nothing (its record is held by a stopped
queue). [log 21 DEDUCED] -/
def State.cmdShows (s : State) (c : Cmd) : Option (Option WaitKind) :=
  match c.phase with
  | .executing w => some (s.workKind w)
  | .signalling _ _ => some none
  | .done _ _ _ _ =>
    if (s.queue c.src).stop == .recordFault then none
    else if (s.queue c.src).cqFull then some (some .cqFull)
    else some none
  | .ready => some (if c.held.isSome then none else some (if (s.queue c.src).cqFull then .cqFull else .dispatch))
  | .waiting => some (some ((s.waitKind c).getD (if (s.queue c.src).cqFull then .cqFull else .dispatch)))

/-! What lies ahead in a command ring -/

/-- The address of the ring slot `n` past HEAD. [log 36 DEDUCED] -/
def Queue.slotAddr (q : Queue) (n : Nat) : Nat := q.cmdBase.toNat + 64 * ((q.head.toNat + n) % slotsOf q.cmdLog2)

/-- The addresses of the next slots offered, two at most: those a RING_JUMP has left, else those the tail covers (R186, R201). -/
def Queue.offered (q : Queue) : List Nat :=
  match q.jump with
  | some j => (List.range (min 2 j.left)).map (fun k => j.addr + 64 * k)
  | none => (List.range (min 2 (q.tail - q.head).toNat)).map q.slotAddr

/-- The size bit of a first slot. [log 42 DEDUCED] -/
def isBig (b : Bytes) : Bool := (packetOf b).header.size

/-- One slot of a device ring. [log 36 DEDUCED] -/
def State.readSlot (s : State) (src : Source) (a : Nat) : Except Status Bytes × State :=
  match s.claim src a 64 false with
  | (.error _, s') => (.error .translationFault, s')
  | (.ok ps, s') => s'.readRange (srcPartByte src) ps a 64

/-- Whether the queue has a whole packet left to fetch (R186): two slots are, and one is unless it begins a 128-byte packet, as its bytes
show in device memory and as a read found it in a host ring. -/
def State.packetLeft (s : State) (src : Source) : Bool :=
  let q := s.queue src
  match q.offered with
  | [] => false
  | [a] =>
    if q.cmdLoc = .host && q.jump.isNone then q.half != some q.head
    else (match (s.readSlot src a).1 with
      | .ok b => !isBig b
      | .error _ => true)
  | _ => true

/-- A queue's state (0 IDLE, 1 EXECUTING, 2 WAITING, 3 STOPPED) and its wait kind (R206, R223): what its commands give, then CQ_FULL while
its completion ring is full, then what its fetch position gives. A packet that is offered and not yet fetched shows as awaiting dispatch.
[log 21 DEDUCED, 144 DESIGN CHOICE] -/
def State.queueState (s : State) (src : Source) : Nat × Option WaitKind :=
  let l := (s.cmdsOf src).filterMap s.cmdShows
  let q := s.queue src
  if l.contains none then (1, none)
  else if q.cqFull && (!l.isEmpty || q.stop == .none) then (2, some .cqFull)
  else match l with
    | some k :: _ => (2, some k)
    | _ => if q.stop != .none then (3, none) else if s.packetLeft src then (2, some .dispatch) else (0, none)

def WaitKind.code : WaitKind → Nat
  | .fence => 1
  | .barrier => 2
  | .chain => 3
  | .deadline => 4
  | .peer => 5
  | .cqFull => 6
  | .dispatch => 7

def StopCause.code : StopCause → Nat
  | .none => 0
  | .disabled => 1
  | .config => 2
  | .doorbellOverrun => 3
  | .fetchFault => 4
  | .recordFault => 5

/-! ### CTRL (R198 to R200, R893, R894) -/

/-- Whether a CTRL write puts every field it sets into its range (R872): VECTOR always, the ring sizes only where ring
settings may change (R198). [log 20 DEDUCED] -/
def ctrlForm (q : QueueId) (sets : Bool) (v : Nat) : Bool :=
  let lg (x : Nat) : Bool := decide (12 ≤ x) && decide (x ≤ 26)
  (!sets || (lg (bits v 12 8) && lg (bits v 20 16))) &&
    (match q with
     | .part _ _ => decide (1 ≤ bits v 27 24)
     | .cp _ => decide (16 ≤ bits v 31 24))

def ctrlVector (q : QueueId) (v : Nat) : Nat :=
  match q with
  | .part _ _ => bits v 27 24
  | .cp _ => bits v 31 24

/-- The ring settings a CTRL write carries. -/
def Queue.ctrl (r : Queue) (v : Nat) : Queue :=
  { r with
    cmdLoc := if bit v 1 then .host else .device
    cqLoc := if bit v 2 then .host else .device
    tailSource := bit v 3
    cmdLog2 := bits v 12 8
    cqLog2 := bits v 20 16 }

/-- Ring settings may change: STOPPED with ENABLE 0 and drained (R198, R200). [log 20 DEDUCED] -/
def Queue.settable (r : Queue) : Bool := !r.enable && !r.draining

/-- An enable that R199 or R893 refuses. -/
def State.enableRefused (s : State) (src : Source) : Bool :=
  let r := s.queue src
  (r.tailSource && r.cmdLoc == .host) ||
  (r.ownEn && !s.mayWriteFence (fenceKey (srcPart src) r.ownFence) (srcAgent src)) ||
  (r.ownEn && r.tailSource && r.ownFence == r.tailFenceNo)

/-- Enable a queue with the settings it has (R199, R202, R216). -/
def State.enableQueue (s : State) (src : Source) : State :=
  if s.enableRefused src then s.modQueue src (fun r => { r with stop := .config })
  else
    let base := match (s.queue src).tailFence with
      | some f => s.fence (fenceKey (srcPart src) f)
      | none => 0
    let s := s.modQueue src (fun r => { r with
      enable := true, stop := .none, head := 0, tail := 0, cqHead := 0, cqTail := 0, base := base, jump := none, last := none,
      fetching := none, half := none })
    match (s.queue src).fenceOwn, srcAgent src with
    | some f, some a => s.setLease 4 (fenceKey (srcPart src) f) { owner := srcPart src, holder := .agent a (s.queue src).epoch }
    | _, _ => s

/-- Resume a stopped queue: an overrun drops its tail to HEAD; a record fault lets the held records go (R235, R894,
R935). A jump in progress stays, so that fetch resumes at its slots. [log 41 DEDUCED, 164 DESIGN CHOICE] -/
def State.restartQueue (s : State) (src : Source) : State :=
  if (s.queue src).enable && (s.queueState src).1 == 3 then
    let s := s.modQueue src (fun r => { r with fetching := none })
    match (s.queue src).stop with
    | .doorbellOverrun => s.modQueue src (fun r => { r with stop := .none, tail := r.head })
    | .fetchFault => s.modQueue src (fun r => { r with stop := .none })
    | .recordFault => (s.modQueue src (fun r => { r with stop := .none })).flushRecords src
    | _ => s
  else s

/-- Clear ENABLE: fetching stops at once and the queue drains (R200). [log 41 DEDUCED] -/
def State.disableQueue (s : State) (src : Source) : State :=
  ((s.modQueue src (fun r => { r with enable := false, draining := true, stop := .none })).flushRecords src).drained src

/-- A write to a queue's CTRL. [log 20 DEDUCED] -/
def State.ctrlWrite (s : State) (q : QueueId) (v : Nat) : State :=
  let src := queueSrc q
  if !ctrlForm q (s.queue src).settable v then s
  else
    let r := s.queue src
    let s := s.setQueue src { r with vector := ctrlVector q v }
    if r.settable then
      let s := s.modQueue src (fun r => r.ctrl v)
      if bit v 0 then s.enableQueue src else s
    else if !r.enable then s
    else if bit v 0 then (if bit v 4 then s.restartQueue src else s)
    else s.disableQueue src

/-- The queue's registers are there. -/
def State.queueOpen (s : State) (q : QueueId) : Bool :=
  match q with
  | .part p _ => s.vfOpen p
  | .cp _ => s.barAnswers .pf && s.pfReaches .fe

def State.ctrlAccess (s : State) (q : QueueId) (v : W32) : State :=
  if s.queueOpen q then s.ctrlWrite q v.toNat
  else match q with
    | .part p _ => s.vfDiscard p false
    | .cp _ => if s.barAnswers .pf then s.dropWrite .fe else s.unanswered

/-- CTRL write with ENABLE 1 (R199, R893). -/
def actQueueEnable (q : QueueId) (v : W32) (s : State) : State := (s.ctrlAccess q (v ||| 1))

def execQueueEnable (q : QueueId) (v : W32) (s : State) : Host.Outcome State Fault Refusal := s.conclude (actQueueEnable q v s)

/-- CTRL write with ENABLE 0 (R200). -/
def actQueueDisable (q : QueueId) (v : W32) (s : State) : State :=
  (s.ctrlAccess q (v &&& ~~~1))

def execQueueDisable (q : QueueId) (v : W32) (s : State) : Host.Outcome State Fault Refusal := s.conclude (actQueueDisable q v s)

/-- CTRL write with RESTART (R894). -/
def actRestart (q : QueueId) (v : W32) (s : State) : State := (s.ctrlAccess q (v ||| 16))

def execRestart (q : QueueId) (v : W32) (s : State) : Host.Outcome State Fault Refusal := s.conclude (actRestart q v s)

/-- QUEUE_CLASS_WRITE: CP_QUEUE_CLASS, refused where it makes a fifth REALTIME queue of the partition, in effect from the
next dispatch window (R207, R233). -/
def actQueueClassWrite (p : Fin 64) (q : Fin 16) (v : W32) (s : State) : State :=
  let now (n : Nat) : Bool :=
    let r := s.queue (.part p (Fin.ofNat 16 n))
    r.classNext.getD r.realtime
  if !s.barAnswers .pf then s.unanswered
  else if !s.pfReaches .fe then (s.dropWrite .fe)
  else if v.getLsbD 0 && !now q.val && 4 ≤ ((List.range 16).filter now).length then
    { s with q := { s.q with classRefused := satAdd32 s.q.classRefused 1 } }
  else (s.modQueue (.part p q) (fun r => { r with classNext := some (v.getLsbD 0) }))

def execQueueClassWrite (p : Fin 64) (q : Fin 16) (v : W32) (s : State) : Host.Outcome State Fault Refusal :=
  s.conclude (actQueueClassWrite p q v s)

/-! ### Fence window (R213, R216, R234, R896) -/

/-- FENCE_WINDOW_WRITE: an aligned 64-bit write raises the fence to the value; a 32-bit write is ignored; a fence that an
agent owns refuses and counts. -/
def actFenceWindowWrite (p : Fin 64) (f : Nat) (wide : Bool) (v : W64) (s : State) : State :=
  if !s.vfOpen p then (s.vfDiscard p false)
  else if !wide || 4096 ≤ f then s
  else match s.signalFence (fenceKey (some p) f) .max v none with
    | (.ok, s') => s'
    | (_, s') =>
      { s' with q := { s'.q with fenceRefused := Tab.set s'.q.fenceRefused 0 p.val (satAdd32 (Tab.get s'.q.fenceRefused 0 p.val) 1) } }

def execFenceWindowWrite (p : Fin 64) (f : Nat) (wide : Bool) (v : W64) (s : State) : Host.Outcome State Fault Refusal :=
  s.conclude (actFenceWindowWrite p f wide v s)

/-! ### Page tables and chunks (R650, R657 to R659, R890) -/

/-- PT_PART_PT_ROOT: ROOT and ENABLE, with an invalidation (R654, R659). -/
def actPtPartPtRoot (p : Fin 64) (v : W64) (s : State) : State :=
  if !s.vfOpen p then (s.vfDiscard p false)
  else (s.modPartition p (fun r => { r with ptRoot := v &&& 0xFFFFFFFF0001, tlbBusy := some (r.tlbBusy.getD s.now) }))

def execPtPartPtRoot (p : Fin 64) (v : W64) (s : State) : Host.Outcome State Fault Refusal := s.conclude (actPtPartPtRoot p v s)

/-- PT_PART_TLB_INVAL: BUSY reads 1 until the invalidation is done (R659). -/
def actPtPartTlbInval (p : Fin 64) (v : W32) (s : State) : State :=
  if !s.vfOpen p then (s.vfDiscard p false)
  else if v.getLsbD 0 then (s.modPartition p (fun r => { r with tlbBusy := some (r.tlbBusy.getD s.now) }))
  else s

def execPtPartTlbInval (p : Fin 64) (v : W32) (s : State) : Host.Outcome State Fault Refusal := s.conclude (actPtPartTlbInval p v s)

/-- TLB_INVALIDATION_COMPLETE: BUSY clears. [log 40 DESIGN CHOICE] -/
def actTlbInvalidationComplete (p : Fin 64) (s : State) : State :=
  (s.modPartition p (fun r => { r with tlbBusy := none }))

def execTlbInvalidationComplete (p : Fin 64) (s : State) : Host.Outcome State Fault Refusal := s.conclude (actTlbInvalidationComplete p s)

/-- PT_PART_FAULT_CLEAR: the held fault goes (R890). -/
def actPtPartFaultClear (p : Fin 64) (v : W32) (s : State) : State :=
  if !s.vfOpen p then (s.vfDiscard p false)
  else if v.getLsbD 0 then (s.modPartition p (fun r => { r with fault := none, faultOverflow := 0 }))
  else s

def execPtPartFaultClear (p : Fin 64) (v : W32) (s : State) : Host.Outcome State Fault Refusal := s.conclude (actPtPartFaultClear p v s)

/-- PT_PART_CHUNK_RELEASE: a TENANT chunk moves to RELEASING (R650). -/
def actPtPartChunkRelease (p : Fin 64) (v : W32) (s : State) : State :=
  if !s.vfOpen p then (s.vfDiscard p false)
  else
    let c := bits v.toNat 16 0
    (s.modPartition p (fun r => if c < r.quota && r.chunkState c == .tenant then r.setChunk c .releasing else r))

def execPtPartChunkRelease (p : Fin 64) (v : W32) (s : State) : Host.Outcome State Fault Refusal := s.conclude (actPtPartChunkRelease p v s)

/-- Held translations: those of commands in flight that have not completed, of ingest rings, of windows (R658). -/
def State.heldPages (s : State) : List Nat :=
  s.q.cmds.flatMap (fun c => if c.phase.isDone then [] else c.pages.map (·.2)) ++
  List.flatMap (fun (y : Nat × Round) => (y.2.ring.map (·.pages)).getD []) s.rounds.table ++
  List.flatMap (fun (y : Nat × Window) => y.2.pages.map (·.2)) s.spetar.windows

def State.chunkHeld (s : State) (c : Nat) : Bool := s.heldPages.any (fun a => a / chunkBytes == c)

/-- CHUNK_RELEASE_SCRUB: a RELEASING chunk that no held translation names is scrubbed and becomes FREE (R650), or is
replaced where its read-back fails (R678). -/
def actChunkReleaseScrub (p : Fin 64) (chunk : Nat) (failed : Bool) (s : State) : State :=
  match s.partition? p with
  | none => s
  | some r =>
    if chunk < r.quota && r.chunkState chunk == .releasing && !s.chunkHeld (r.chunkMap.getD chunk 0) then
      (s.scrubQuota p chunk failed)
    else s

def execChunkReleaseScrub (p : Fin 64) (chunk : Nat) (failed : Bool) (s : State) : Host.Outcome State Fault Refusal :=
  s.conclude (actChunkReleaseScrub p chunk failed s)

end Sys2Proof.Machine
end

