-- ==== Sys2Proof/Machine/Links.lean ====
section
/-!
DEFINITION. Spetar links: port states, training, flooding, back-off, replay, PAUSE, and the optical engines' lock and
calibration (ch. 16), with the training-time checks of link encryption (R592, R593, R595).
-/

namespace Sys2Proof.Machine
open Sys2Proof

def State.oe (s : State) (e : Nat) : Oe := Tab.get s.spetar.oes {} e

def State.setOe (s : State) (e : Nat) (o : Oe) : State := { s with spetar := { s.spetar with oes := Tab.set s.spetar.oes {} e o } }

def State.modPort (s : State) (n : Nat) (f : Port → Port) : State := s.setPort n (f (s.port n))

/-- The engine of a port runs. -/
def State.oeRuns (s : State) (e : Nat) : Bool := s.running (.oe (Fin.ofNat 4 e))

/-! ### Sending from a port's queue, replay (R534 to R537) -/

def State.drainQueueAux (s : State) (n : Nat) : Nat → State
  | 0 => s
  | fuel + 1 =>
    match pickFrame (s.maySend n) (s.port n).queue with
    | none => s
    | some (o, t) => ((s.setPort n { s.port n with queue := t }).sendFrame n o).drainQueueAux n fuel

/-- What goes next from FAB into an engine's crossing: link frames and channel 3 first, else the oldest (R571). -/
def State.nextHeld (s : State) (e : Nat) : Option (Nat × FabOut) :=
  let may := (s.egressOf e).filter (fun y => s.crossingTakes y.1)
  (may.find? (fun y => y.2.channel == 4)).orElse (fun _ => (may.find? (fun y => y.2.channel == 3)).orElse (fun _ => may.head?))

/-- What waits in FAB for an engine goes on as the crossing takes it (R62). -/
def State.refillAux (s : State) (e : Nat) : Nat → State
  | 0 => s
  | fuel + 1 =>
    match s.nextHeld e with
    | none => s
    | some (n, o) =>
      let s := (s.setEgress e ((s.egressOf e).erase (n, o))).pushQueue n o
      (s.drainQueueAux n (s.port n).queue.length).refillAux e fuel

/-- Send what waits on a port while it may; what waits in FAB for its engine follows. -/
def State.drainQueue (s : State) (n : Nat) : State :=
  let s := s.drainQueueAux n (s.port n).queue.length
  s.refillAux (n / 4) (s.egressOf (n / 4)).length

/-- Resend every held frame in LSEQ order. -/
def State.resendHeld (s : State) (n : Nat) : State :=
  (s.port n).replay.foldl (fun s f => (s.setPort n ((s.port n).transmit f)).record f.what) s

/-- `a` covers LSEQ `b`. -/
def covers (a b : W16) : Bool := decide ((a - b).toNat < 32768)

/-- An ACK frees the frames it covers. -/
def State.ackFrames (s : State) (n : Nat) (ack : W16) : State :=
  let p := s.port n
  let left := p.replay.filter (fun f => !covers ack f.lseq)
  (s.setPort n { p with replay := left, lastAckAt := if left.length < p.replay.length then s.now else p.lastAckAt }).drainQueue n

/-- A frame that was to go over port `n` takes another route, or waits in FAB for this port; what belongs to the link is dropped (R537, R602). -/
def State.sendElsewhere (s : State) (n : Nat) (o : FabOut) : State :=
  match o with
  | .packet _ h d => s.forward h d
  | .message _ h m => s.forwardMsg h m
  | .graft _ _ => s.enqueue n o
  | .mirror _ _ _ _ => s.enqueue n o
  | _ => s

/-- Frames not yet sent go back for another route: those of the port's queue, and those that wait for it in FAB (R537, R602). -/
def State.reroute (s : State) (n : Nat) : State :=
  let q := (s.port n).queue ++ ((s.egressOf (n / 4)).filter (fun y => y.1 == n)).map (fun y => y.2)
  let s := (s.modPort n (fun p => { p with queue := [] })).setEgress (n / 4) ((s.egressOf (n / 4)).filter (fun y => y.1 != n))
  q.foldl (fun s o => s.sendElsewhere n o) s

/-! ### State changes (R536 to R538, R565) -/

/-- The causes that latch on PF vector 4 and discard the replay buffer. -/
def PortState.isDown : PortState → Bool
  | .linkDown _ => true
  | _ => false

/-- Move a port to a state; what waits on it leaves with ACTIVE, and where lock has failed (R537, R544). -/
def State.portTo (s : State) (n : Nat) (st : PortState) : State :=
  let p := s.port n
  if p.state = st then s
  else
    let was := p.state == .active
    let dark := st == .dazzled || st == .portFenced || st.isDown
    let s := s.setPort n { p with
      state := st, paused := none, trainingSince := none
      qualifiedAt := if dark then none else p.qualifiedAt
      activeSince := if st = .active then s.now else p.activeSince
      settledAt := if st = .settling then s.now else p.settledAt
      replay := if st = .portFenced || st.isDown then [] else p.replay
      losSince := none }
    let s := if was || st == .linkDown .synthLock then s.reroute n else s
    let s := if dark then (s.record (.fault n)).raisePf .port else s
    let s := s.timeUnlinked
    if (was || st = .active) && s.spetar.discoveredAt.isSome && s.running .fab then s.floodOwn else s

/-- Enter DAZZLED with the next back-off (R553). -/
def State.dazzle (s : State) (n : Nat) : State :=
  let p := s.port n
  let ms := if p.everDazzled then min 256 (2 * p.backoffMs) else 1
  (s.setPort n { p with backoffMs := ms, everDazzled := true, backoffUntil := s.now + ms * 1000000 }).portTo n .dazzled

/-- The steps of training start with the qualified signal: a fresh nonce, and the PARAM frame, whose link header carries the LSEQ that comes
next (Table 16.4, R593). [log 154 DEDUCED] -/
def State.startSteps (s : State) (n : Nat) : State :=
  let (nonce, s) := s.freeBytes 16
  let s := s.modPort n (fun p => { p with trainingSince := some s.now, nonce := nonce })
  let p := s.port n
  let o : FabOut := .param n udid (p.expected - 1) nonce
  (s.setPort n (p.transmit { lseq := p.lseq, since := s.now, what := o })).record o

/-- Enter TRAINING; the steps start with the qualified signal (R539). -/
def State.train (s : State) (n : Nat) : State :=
  let s := (s.portTo n .training).modPort n (fun p => { p with trainingSince := none })
  if (s.port n).qualifiedAt.isSome then s.startSteps n else s

/-- The port's synthesiser is locked and not calibrating. -/
def State.synthReady (s : State) (n : Nat) : Bool := (s.oe (n / 4)).locked && (s.oe (n / 4)).calibrating.isNone

/-- A training attempt fails: DAZZLED, and at the eighth in a row LINK_DOWN (R553, R557). -/
def State.trainFailed (s : State) (n : Nat) : State :=
  let k := (s.port n).trainFails + 1
  let s := s.modPort n (fun p => { p with trainFails := k })
  if 8 ≤ k then s.portTo n (.linkDown .trainFail) else s.dazzle n

/-- What starts when a signal is qualified: the steps of a port in TRAINING, or the training of a port that waits for it
(R553, R555, R556). -/
def State.onQualified (s : State) (n : Nat) : State :=
  let p := s.port n
  if p.qualifiedAt.isNone || !s.synthReady n then s
  else match p.state with
    | .training => if p.trainingSince.isNone then s.startSteps n else s
    | .dazzled => if p.backoffUntil ≤ s.now then s.train n else s
    | .linkDown .los => s.train n
    | .linkDown .peerFault => s.train n
    | _ => s

/-! ### Port registers (R549, R554) -/

/-- Start training, or wait for the synthesiser (R539, R544, R547). -/
def State.startTraining (s : State) (n : Nat) : State := if s.synthReady n then s.train n else s.portTo n .settling

/-- Empty the replay buffer and train; a DISABLED port stays so (R549). -/
def State.resetPort (s : State) (n : Nat) : State :=
  if (s.port n).state = .portFenced then s
  else
    let s := s.modPort n (fun p => { p with replay := [], trainFails := 0, retrainTimes := [] })
    if (s.port n).state = .disabled then s else s.startTraining n

/-- ENABLE takes effect: a fenced port stays fenced (R554). -/
def State.enablePort (s : State) (n : Nat) (en : Bool) : State :=
  let p := s.port n
  if en = p.enable then s
  else
    let s := s.setPort n (if en then { p with enable := true, trainFails := 0, retrainTimes := [] } else { p with enable := false })
    if p.state = .portFenced then s else if en then s.startTraining n else s.portTo n .disabled

/-- UNFENCE: DAZZLED with a back-off of 1 ms and no flood history; DISABLED where ENABLE was cleared meanwhile (R554). -/
def State.unfence (s : State) (n : Nat) : State :=
  if (s.port n).state != .portFenced then s
  else
    let s := (s.modPort n (fun p => { p with floodTimes := [], backoffMs := 1, everDazzled := true, backoffUntil := s.now + 1000000 })).portTo n .dazzled
    if (s.port n).enable then s else s.portTo n .disabled

/-- A write of CP_SPETAR_PORT_CTRL. -/
def State.portCtrl (s : State) (n : Nat) (v : W32) : State :=
  let s := s.enablePort n (v.getLsbD 0)
  let s := if v.getLsbD 1 then s.resetPort n else s
  if v.getLsbD 2 then s.unfence n else s

/-- A PF write of a port's control register, housed in the port's OE island (R90). -/
def State.portAccess (s : State) (n : Nat) (v : W32) : State :=
  let d : Island := .oe (Fin.ofNat 4 (n / 4))
  if !s.barAnswers .pf then s.unanswered else if s.pfReaches d then s.portCtrl n v else s.dropWrite d

/-- PORT_ENABLE. -/
def actPortEnable (port : Fin 16) (v : W32) (s : State) : State := (s.portAccess port.val v)

def execPortEnable (port : Fin 16) (v : W32) (s : State) : Host.Outcome State Fault Refusal := s.conclude (actPortEnable port v s)

/-- PORT_RESET. -/
def actPortReset (port : Fin 16) (v : W32) (s : State) : State := (s.portAccess port.val (v ||| 2))

def execPortReset (port : Fin 16) (v : W32) (s : State) : Host.Outcome State Fault Refusal := s.conclude (actPortReset port v s)

/-- UNFENCE. -/
def actUnfence (port : Fin 16) (v : W32) (s : State) : State := (s.portAccess port.val (v ||| 4))

def execUnfence (port : Fin 16) (v : W32) (s : State) : Host.Outcome State Fault Refusal := s.conclude (actUnfence port v s)

/-! ### Training (R539, R592, R593) -/

/-- LOS is asserted at an average power in 0.1 dBm: from −20.0 dBm down for certain, above −17.0 dBm never (Table 28.12). [log 155 DEDUCED] -/
def losAsserted (p : Int) : Bool := decide (p < -200) || (decide (p < -170) && decide (p < -200 + (Config.losAssert % 31 : Nat)))

/-- LOS is deasserted: from −15.0 dBm up for certain. [log 155 DEDUCED] -/
def aboveLos (p : Int) : Bool :=
  decide (-150 ≤ p) || (!losAsserted p && decide (-200 ≤ p) && decide (-150 - (Config.losClear % 51 : Nat) ≤ p))

/-- SIGNAL_QUALIFIED: the power on both lanes has stayed between LOS and CP_SPETAR_RX_HIGH for 2 µs, with both clock recoveries locked. -/
def actSignalQualified (port : Fin 16) (p0 p1 : Int) (s : State) : State :=
  let present (p : Int) : Bool := aboveLos p && decide (p ≤ (s.port port.val).rxHigh)
  if !s.oeRuns (port.val / 4) || !(s.port port.val).enable || !present p0 || !present p1 then s
  else ((s.modPort port.val (fun p => { p with qualifiedAt := some s.now, rxPower0 := p0, rxPower1 := p1, losSince := none })).onQualified port.val)

def execSignalQualified (port : Fin 16) (p0 p1 : Int) (s : State) : Host.Outcome State Fault Refusal :=
  s.conclude (actSignalQualified port p0 p1 s)

/-- Step 6 on an encrypted link: the fabric key's slot serves (R593). -/
def State.linkKey (s : State) : Option Bytes × State :=
  match s.checkSlot s.spetar.encSlot useFabric with
  | (.ok k, s) => (some k, s)
  | (.error _, s) => (none, s)

/-- The key of one direction of a link (R593). -/
def directionKey (fabric nonceTx nonceRx udidTx : Bytes) (portTx : Nat) : Bytes :=
  hkdf256 fabric (nonceTx ++ nonceRx) (ascii "ARKLINK1" ++ udidTx ++ [BitVec.ofNat 8 portTx]) 32

/-- Both directions' keys, from the two ends' nonces. -/
def Port.linkKeys (p : Port) (n : Nat) (peer : Peer) (peerPort : Nat) (fabric : Bytes) : Bytes × Bytes :=
  (directionKey fabric p.nonce peer.nonce udid n, directionKey fabric peer.nonce p.nonce peer.udid peerPort)

/-- The frames kept for resending, numbered anew: the extended LSEQ counts from 0 at the end of training, with LSEQ in its low 16 bits
(R594). [log 148 DEDUCED] -/
def renumber (l : List Frame) : List Frame :=
  match l with
  | [] => []
  | f :: _ => l.map (fun g => { g with ext := f.lseq.toNat + (g.lseq - f.lseq).toNat })

/-- The credit that kept frames hold. [log 65 DEDUCED] -/
def spentBy (l : List Frame) (encrypted : Bool) : Tab (List (Nat × Nat)) :=
  (l.foldl (fun (p : Port) f => p.spend f.what) { encrypted := encrypted }).spent

/-- The port as training leaves it: the replay buffer holds what the peer's ACK does not cover, and nothing held over 2 ms; with another
peer it is discarded (R536). Credit starts whole but for what the kept frames hold. [log 154 DEDUCED] -/
def Port.trained (p : Port) (at_ : Nat) (peer : Peer) (peerPort : Nat) (ack : W16) (keys : Option (Bytes × Bytes)) : Port :=
  let kept := if p.peerUdid = some peer.udid then p.replay.filter (fun f => !covers ack f.lseq && decide (at_ ≤ f.since + 2000000)) else []
  let base := (kept.head?.map (fun f => f.lseq)).getD p.lseq
  { p with
    peerUdid := some peer.udid, peerPort := some peerPort, replay := renumber kept, nextExt := base.toNat + (p.lseq - base).toNat
    spent := spentBy kept keys.isSome, owed := [], expected := peer.next, fecBad := 0, trainFails := 0, encrypted := keys.isSome, txKey := keys.map (·.1), rxKey := keys.map (·.2)
    lastAckAt := at_ }

/-- A port whose training is complete: ACTIVE; where its engine drains it sends PAUSE, and where the engine calibrates it is CALIBRATING
(R541). -/
def State.trainingDone (s : State) (n : Nat) : State :=
  let o := s.oe (n / 4)
  if o.calibrating.isSome then s.portTo n .calibrating
  else
    let s := (s.portTo n .active).resendHeld n
    (if o.draining.isSome then s.emit (.pause n) else s).drainQueue n

/-- TRAINING_COMPLETE: ACTIVE, under the direction keys of an encrypted link; both ends have the same mode, or training fails (R536, R592,
R593). -/
def actTrainingComplete (port : Fin 16) (peer : Peer) (peerPort : Nat) (ack : W16) (s : State) : State :=
  let n := port.val
  let p := s.port n
  let go (s : State) (keys : Option (Bytes × Bytes)) : State := (s.setPort n (p.trained s.now peer peerPort ack keys)).trainingDone n
  if p.state != .training || !p.trainingSince.any (fun t => decide (s.now ≤ t + 50000)) || !s.oeRuns (n / 4) then s
  else if peer.encrypted != s.spetar.encMode then s.trainFailed n
  else if !s.spetar.encMode then go s none
  else match s.linkKey with
    | (none, s) => s.trainFailed n
    | (some k, s) => go s (some (p.linkKeys n peer peerPort k))

def execTrainingComplete (port : Fin 16) (peer : Peer) (peerPort : Nat) (ack : W16) (s : State) : Host.Outcome State Fault Refusal :=
  s.conclude (actTrainingComplete port peer peerPort ack s)

/-- TRAINING_TIMEOUT. -/
def actTrainingTimeout (port : Fin 16) (s : State) : State :=
  let p := s.port port.val
  if p.state = .training && p.trainingSince.any (fun t => decide (t + 50000 < s.now)) then (s.trainFailed port.val) else s

def execTrainingTimeout (port : Fin 16) (s : State) : Host.Outcome State Fault Refusal := s.conclude (actTrainingTimeout port s)

/-! ### Flooding (R551 to R554, R556) -/

/-- A condition of Table 16.5 holds. -/
def Port.flooded (p : Port) (x : RxLevels) : Bool :=
  decide (p.rxHigh < x.p0) || decide (p.rxHigh < x.p1) || (x.lost0 && !losAsserted x.p0) || (x.lost1 && !losAsserted x.p1) || decide (4 ≤ p.burst)

/-- A flood event: the frame being sent, if any, ends with an error block; the eighth event within 10 s fences the port (R552, R554). -/
def State.floodEvent (s : State) (n : Nat) (cut : Bool) : State :=
  let s := if cut then (s.modPort n (fun p => p.sendBlocks [errorBlock])).record (.error n) else s
  let p := s.port n
  let times := s.now :: p.floodTimes.filter (fun t => decide (s.now ≤ t + 10000000000))
  let s := s.setPort n { p with floodEvents := satAdd32 p.floodEvents 1, floodTimes := times, fecBad := 0 }
  if 8 ≤ times.length then s.portTo n .portFenced else s.dazzle n

/-- FLOOD_DETECTED: what the receiver sees at the end of the 1 µs filter; below LOS the port is down in place of DAZZLED (R551). `cut` says
that a frame is being sent. [log 155 DEDUCED] -/
def actFloodDetected (port : Fin 16) (x : RxLevels) (cut : Bool) (s : State) : State :=
  let n := port.val
  let p := s.port n
  if !(p.state = .training || p.state = .active || p.state = .calibrating) || !p.flooded x then s
  else if losAsserted x.p0 || losAsserted x.p1 then s.portTo n (.linkDown .los)
  else s.floodEvent n cut

def execFloodDetected (port : Fin 16) (x : RxLevels) (cut : Bool) (s : State) : Host.Outcome State Fault Refusal :=
  s.conclude (actFloodDetected port x cut s)

/-- BACKOFF_EXPIRY. -/
def actBackoffExpiry (port : Fin 16) (s : State) : State :=
  let p := s.port port.val
  if p.state = .dazzled && p.backoffUntil ≤ s.now then (s.onQualified port.val) else s

def execBackoffExpiry (port : Fin 16) (s : State) : Host.Outcome State Fault Refusal := s.conclude (actBackoffExpiry port s)

/-- ACTIVE_HOLD: 1 s in ACTIVE returns the back-off to 1 ms. -/
def actActiveHold (port : Fin 16) (s : State) : State :=
  let p := s.port port.val
  if p.state = .active && p.activeSince + 1000000000 ≤ s.now then (s.setPort port.val { p with backoffMs := 1, everDazzled := false })
  else s

def execActiveHold (port : Fin 16) (s : State) : Host.Outcome State Fault Refusal := s.conclude (actActiveHold port s)

/-- LOS: the power on a lane falls below LOS; a qualified signal is one no more (R539, R551, R556). -/
def actLos (port : Fin 16) (p0 p1 : Int) (s : State) : State :=
  let n := port.val
  if !losAsserted p0 && !losAsserted p1 then s
  else
    let s := s.modPort n (fun p => { p with qualifiedAt := none, rxPower0 := p0, rxPower1 := p1 })
    match (s.port n).state with
    | .training => (s.portTo n (.linkDown .los))
    | .active => (s.portTo n (.linkDown .los))
    | .dazzled => (s.modPort n (fun p => { p with losSince := if p.losSince.isNone then some s.now else p.losSince }))
    | _ => s

def execLos (port : Fin 16) (p0 p1 : Int) (s : State) : Host.Outcome State Fault Refusal := s.conclude (actLos port p0 p1 s)

/-- LOS_IN_DAZZLED. -/
def actLosInDazzled (port : Fin 16) (s : State) : State :=
  let p := s.port port.val
  if p.state = .dazzled && p.losSince.any (fun t => decide (t + 10000000 ≤ s.now)) then (s.portTo port.val (.linkDown .los)) else s

def execLosInDazzled (port : Fin 16) (s : State) : Host.Outcome State Fault Refusal := s.conclude (actLosInDazzled port s)

/-- FAULT_PATTERN. -/
def actFaultPattern (port : Fin 16) (s : State) : State :=
  match (s.port port.val).state with
  | .training => (s.portTo port.val (.linkDown .peerFault))
  | .active => (s.portTo port.val (.linkDown .peerFault))
  | .calibrating => (s.portTo port.val (.linkDown .peerFault))
  | _ => s

def execFaultPattern (port : Fin 16) (s : State) : Host.Outcome State Fault Refusal := s.conclude (actFaultPattern port s)

/-! ### Replay (R531, R534, R557, R558, R595) -/

/-- A trailer of the far end: its FEC block is decoded, and the credit it returns is had (R529, R532). -/
def State.takeTrailer (s : State) (n : Nat) (r : LinkReport) : State := s.modPort n (fun p => (p.fecSeen r.line).regain r.creditVc.val r.credit)

/-- Resend, unless the far end has paused the port (R542). -/
def State.resend (s : State) (n : Nat) : State := if (s.port n).paused.isSome then s else s.resendHeld n

/-- LINK_ACK: a trailer's ACK frees the frames it covers. -/
def actLinkAck (port : Fin 16) (lseq : LinkReport) (s : State) : State :=
  if !s.portActive port.val then s else ((s.takeTrailer port.val lseq).ackFrames port.val lseq.ack)

def execLinkAck (port : Fin 16) (lseq : LinkReport) (s : State) : Host.Outcome State Fault Refusal := s.conclude (actLinkAck port lseq s)

/-- LINK_NAK: the frames its ACK covers are freed, every other is resent. -/
def actLinkNak (port : Fin 16) (lseq : LinkReport) (s : State) : State :=
  let n := port.val
  if !s.portActive n then s
  else
    let s := (s.takeTrailer n lseq).modPort n (fun p => { p with
      naks := satAdd32 p.naks 1, nakTimes := s.now :: p.nakTimes.filter (fun t => decide (s.now ≤ t + 1000000)) })
    ((s.ackFrames n lseq.ack).resend n)

def execLinkNak (port : Fin 16) (lseq : LinkReport) (s : State) : Host.Outcome State Fault Refusal := s.conclude (actLinkNak port lseq s)

/-- REPLAY_TIMEOUT: 4 µs without an ACK advance while frames are held. -/
def actReplayTimeout (port : Fin 16) (s : State) : State :=
  let n := port.val
  let p := s.port n
  match p.replay with
  | [] => s
  | f :: _ =>
    if s.portActive n && decide (max p.lastAckAt f.since + 4000 ≤ s.now) then
      ((s.setPort n { p with lastAckAt := s.now }).resend n)
    else s

def execReplayTimeout (port : Fin 16) (s : State) : Host.Outcome State Fault Refusal := s.conclude (actReplayTimeout port s)

/-- NAK_BURST: 256 NAKs within 1 ms retrain the port; the third such retrain within 1 s brings it down. -/
def actNakBurst (port : Fin 16) (s : State) : State :=
  let n := port.val
  let p := s.port n
  if p.state != .active || (p.nakTimes.filter (fun t => decide (s.now ≤ t + 1000000))).length < 256 then s
  else
    let times := s.now :: p.retrainTimes.filter (fun t => decide (s.now ≤ t + 1000000000))
    let s := s.setPort n { p with retrains := satAdd32 p.retrains 1, retrainTimes := times, nakTimes := [] }
    (if 3 ≤ times.length then s.portTo n (.linkDown .errorRate) else s.train n)

def execNakBurst (port : Fin 16) (s : State) : Host.Outcome State Fault Refusal := s.conclude (actNakBurst port s)

/-- REPLAY_BUFFER_ECC: the port is reset, unless it is fenced. -/
def actReplayBufferEcc (port : Fin 16) (s : State) : State :=
  let s := s.modPort port.val (fun p => { p with replay := [] })
  ((s.logErr 6 .fab 0xFF .contained .sramUce).resetPort port.val)

def execReplayBufferEcc (port : Fin 16) (s : State) : Host.Outcome State Fault Refusal := s.conclude (actReplayBufferEcc port s)

/-- A received frame fails: a NAK follows in the next trailer (R531, R534). -/
def State.frameBad (s : State) (n : Nat) : State :=
  let s := s.modPort n (fun p => { p with line := { p.line with nak := true } })
  s.record (.trailer n ((s.port n).expected - 1) true)

/-- FRAME_CRC_FAILURE; `line` is what arrived wrong of its FEC block (R529). -/
def actFrameCrcFailure (port : Fin 16) (line : LineErrors) (s : State) : State :=
  if !s.portActive port.val then s else ((s.modPort port.val (fun p => p.fecSeen line)).frameBad port.val)

def execFrameCrcFailure (port : Fin 16) (line : LineErrors) (s : State) : Host.Outcome State Fault Refusal :=
  s.conclude (actFrameCrcFailure port line s)

/-- TAG_FAILURE: as a CRC failure, counted; 16 within 1 ms bring the port down. -/
def actTagFailure (port : Fin 16) (s : State) : State :=
  let n := port.val
  let p := s.port n
  if p.state != .active || !p.encrypted then s
  else
    let times := s.now :: p.tagFails.filter (fun t => decide (s.now ≤ t + 1000000))
    let s := (s.setPort n { p with authFail := satAdd32 p.authFail 1, tagFails := times }).frameBad n
    (if 16 ≤ times.length then s.portTo n (.linkDown .errorRate) else s)

def execTagFailure (port : Fin 16) (s : State) : Host.Outcome State Fault Refusal := s.conclude (actTagFailure port s)

/-! ### PAUSE (R541, R542) -/

/-- PAUSE: sending stops, and the next trailer acknowledges it. -/
def actPause (port : Fin 16) (s : State) : State :=
  let s := s.modPort port.val (fun p => { p with paused := some s.now })
  s.record (.trailer port.val ((s.port port.val).expected - 1) (s.port port.val).line.nak)

def execPause (a : Arrival) (s : State) : Host.Outcome State Fault Refusal := s.conclude (s.receive a (.pause a.port.val) (actPause a.port))

/-- UNPAUSE. -/
def actUnpause (port : Fin 16) (s : State) : State :=
  ((s.modPort port.val (fun p => { p with paused := none })).drainQueue port.val)

def execUnpause (a : Arrival) (s : State) : Host.Outcome State Fault Refusal := s.conclude (s.receive a (.unpause a.port.val) (actUnpause a.port))

/-- UNPAUSE_TIMEOUT: 1 ms paused. -/
def actUnpauseTimeout (port : Fin 16) (s : State) : State :=
  if (s.port port.val).paused.any (fun t => decide (t + 1000000 ≤ s.now)) then (s.portTo port.val (.linkDown .peerFault)) else s

def execUnpauseTimeout (port : Fin 16) (s : State) : Host.Outcome State Fault Refusal := s.conclude (actUnpauseTimeout port s)

/-! ### Synthesisers and calibration (R540 to R544, R546, R547, R556) -/

/-- SYNTH_LOCK: lock and the first calibration are complete, which serves a request made meanwhile; its ports train (R540). -/
def actSynthLock (e : Fin 4) (temp : Int) (s : State) : State :=
  if !s.oeRuns e.val || !s.time.synthLocked then s
  else
    let s := s.setOe e.val { s.oe e.val with locked := true, calRequested := false, lastCalTemp := temp }
    ((oePorts e.val).foldl (fun s n => match (s.port n).state with
      | .settling => s.train n
      | .linkDown .synthLock => s.train n
      | _ => s) s)

def execSynthLock (e : Fin 4) (temp : Int) (s : State) : Host.Outcome State Fault Refusal := s.conclude (actSynthLock e temp s)

/-- The ports of an engine that have been SETTLING for 5 ms (Table 16.3, R544). -/
def State.unsettled (s : State) (e : Nat) : List Nat :=
  (oePorts e).filter (fun n => (s.port n).state == .settling && decide ((s.port n).settledAt + 5000000 ≤ s.now))

/-- SYNTH_LOCK_TIMEOUT: 5 ms without lock; with the first such port the engine's retries begin, every 100 ms (R556). -/
def actSynthLockTimeout (e : Fin 4) (s : State) : State :=
  let o := s.oe e.val
  let retries := (oePorts e.val).any (fun n => (s.port n).state == .linkDown .synthLock)
  if o.locked || (s.unsettled e.val).isEmpty then s
  else
    (s.unsettled e.val).foldl (fun s n => s.portTo n (.linkDown .synthLock))
      (if retries then s else s.setOe e.val { o with nextRetry := s.now + 100000000 })

def execSynthLockTimeout (e : Fin 4) (s : State) : Host.Outcome State Fault Refusal := s.conclude (actSynthLockTimeout e s)

/-- SYNTH_LOCK_RETRY: every 100 ms while ports are down for want of lock. -/
def actSynthLockRetry (e : Fin 4) (s : State) : State :=
  let o := s.oe e.val
  if !o.locked && o.nextRetry ≤ s.now && (oePorts e.val).any (fun n => (s.port n).state == .linkDown .synthLock) then
    (s.setOe e.val { o with nextRetry := o.nextRetry + 100000000 })
  else s

def execSynthLockRetry (e : Fin 4) (s : State) : Host.Outcome State Fault Refusal := s.conclude (actSynthLockRetry e s)

/-- The synthesiser calibrates: ACTIVE ports are CALIBRATING (R541). [log 66 DEDUCED] -/
def State.calibrate (s : State) (e : Nat) : State :=
  let s := (oePorts e).foldl (fun s n => if (s.port n).state = .active then s.portTo n .calibrating else s) s
  s.setOe e { s.oe e with draining := none, calibrating := some s.now, retryAt := none }

/-- Start a drain: each ACTIVE port sends PAUSE; with none the calibration starts at once (R541, R547). -/
def State.startDrain (s : State) (e : Nat) : State :=
  let o := s.oe e
  if !o.calRequested || o.draining.isSome || o.calibrating.isSome || !o.locked then s
  else
    let ps := (oePorts e).filter s.portActive
    let s := s.setOe e { o with draining := some s.now, retryAt := none }
    if ps.isEmpty then s.calibrate e else ps.foldl (fun s n => s.emit (.pause n)) s

/-- Request a calibration. -/
def State.askCal (s : State) (e : Nat) : State :=
  let s := s.setOe e { s.oe e with calRequested := true }
  if (s.oe e).retryAt.isSome then s else s.startDrain e

/-- CAL_NOW: the register is housed in FAB (Table 26.1). A request to an engine that is not in RUN waits for the calibration at its RUN (R540). -/
def actCalNow (e : Fin 4) (v : W32) (s : State) : State :=
  if !s.barAnswers .pf then s.unanswered
  else if !s.pfReaches .fab then s.dropWrite .fab
  else if !v.getLsbD 0 then s
  else s.askCal e.val

def execCalNow (e : Fin 4) (v : W32) (s : State) : Host.Outcome State Fault Refusal := s.conclude (actCalNow e v s)

/-- TEMPERATURE_DRIFT: 8 °C from the last calibration. -/
def actTemperatureDrift (e : Fin 4) (temp : Int) (s : State) : State :=
  if s.oeRuns e.val && decide (8 ≤ (temp - (s.oe e.val).lastCalTemp).natAbs) then (s.askCal e.val) else s

def execTemperatureDrift (e : Fin 4) (temp : Int) (s : State) : Host.Outcome State Fault Refusal := s.conclude (actTemperatureDrift e temp s)

/-- The far end has acknowledged a port's PAUSE: neither waits to be sent nor is held (R541). -/
def State.pauseAcked (s : State) (n : Nat) : Bool :=
  !(s.port n).queue.any FabOut.isPause && !(s.port n).replay.any (fun f => f.what.isPause)

/-- CALIBRATION_DRAINED: every ACTIVE port's PAUSE is acknowledged. -/
def actCalibrationDrained (e : Fin 4) (s : State) : State :=
  if (s.oe e.val).draining.isSome && ((oePorts e.val).filter s.portActive).all s.pauseAcked then (s.calibrate e.val) else s

def execCalibrationDrained (e : Fin 4) (s : State) : Host.Outcome State Fault Refusal := s.conclude (actCalibrationDrained e s)

/-- A CALIBRATING port is ACTIVE again: it resends what it holds, but for what it has held over 2 ms, and sends UNPAUSE (R536, R541). -/
def State.uncalibrate (s : State) (n : Nat) : State :=
  let s := s.modPort n (fun p => { p with replay := p.replay.filter (fun f => decide (s.now ≤ f.since + 2000000)) })
  (((s.portTo n .active).resendHeld n).emit (.unpause n)).drainQueue n

/-- CALIBRATION_END: the ports are ACTIVE again with UNPAUSE, and training that fell due starts (R541, R547). -/
def actCalibrationEnd (e : Fin 4) (temp : Int) (s : State) : State :=
  let o := s.oe e.val
  if o.calibrating.isNone then s
  else
    let s := s.setOe e.val { o with calibrating := none, calRequested := false, firstDeferral := none, calDeferred := 0, lastCalTemp := temp }
    ((oePorts e.val).foldl (fun s n => match (s.port n).state with
      | .calibrating => s.uncalibrate n
      | .settling => s.train n
      | _ => s.onQualified n) s)

def execCalibrationEnd (e : Fin 4) (temp : Int) (s : State) : Host.Outcome State Fault Refusal := s.conclude (actCalibrationEnd e temp s)

/-- A port whose drain is given up takes its PAUSE back: unsent, or by UNPAUSE. [log 66 DEDUCED] -/
def State.unpausePort (s : State) (n : Nat) : State :=
  if (s.port n).queue.contains (.pause n) then s.modPort n (fun p => { p with queue := p.queue.erase (.pause n) })
  else s.emit (.unpause n)

/-- DRAIN_TIMEOUT: a drain not complete in 100 µs defers the calibration; the engine admits frames again. [log 66 DEDUCED] -/
def actDrainTimeout (e : Fin 4) (s : State) : State :=
  let o := s.oe e.val
  if !o.draining.any (fun t => decide (t + 100000 ≤ s.now)) then s
  else
    let first := o.firstDeferral.getD s.now
    let s := s.setOe e.val { o with
      draining := none, retryAt := some (s.now + 10000000), firstDeferral := some first, calDeferred := o.calDeferred + (s.now - first) / 1000 }
    ((oePorts e.val).foldl (fun s n => if s.portActive n then (s.unpausePort n).drainQueue n else s) s)

def execDrainTimeout (e : Fin 4) (s : State) : Host.Outcome State Fault Refusal := s.conclude (actDrainTimeout e s)

/-- CALIBRATION_RETRY: 10 ms after a deferral; forced once 1 s has been deferred (R543). -/
def actCalibrationRetry (e : Fin 4) (s : State) : State :=
  let o := s.oe e.val
  if !o.retryAt.any (fun t => decide (t ≤ s.now)) then s
  else
    let s := s.setOe e.val { o with retryAt := none }
    (if 1000000 ≤ o.calDeferred then s.calibrate e.val else s.startDrain e.val)

def execCalibrationRetry (e : Fin 4) (s : State) : Host.Outcome State Fault Refusal := s.conclude (actCalibrationRetry e s)

/-- What the crossing into an engine holds is discarded and counted when a reset is asserted on its island, and when it enters
RESET_FAILED (R75, R91). [log 147 DEDUCED] -/
def State.dropHeld (s : State) (d : Island) : State :=
  match d with
  | .oe e =>
    let k := s.crossingLoad e.val
    ((oePorts e.val).foldl (fun s n => s.modPort n (fun p => { p with queue := [] })) s).countDrop d k
  | _ => s

/-- An OE island reaches RUN: its ports, engine and their counters start afresh, what the crossing holds for them stays (R63, R76), and its
synthesiser seeks lock (R540, R559). -/
def State.oeFresh (s : State) (e : Nat) : State :=
  let s := (oePorts e).foldl (fun s n => s.setPort n { queue := (s.port n).queue, settledAt := s.now }) s
  s.setOe e {}

end Sys2Proof.Machine
end

