-- ==== Sys2Proof/Machine/PartCmds.lean ====
section
/-!
DEFINITION. Creating, resizing, resetting and destroying partitions, and the cold frame: PART_CREATE, PART_DESTROY, PART_SHARES,
COLD_FRAME_ENTER, FLR, FLR_COMPLETE, VF_ENABLE (R131 to R134, R645 to R647, R661, R667, R680).
-/

namespace Sys2Proof.Machine
open Sys2Proof

/-! ### What R131 ends -/

def ofPart (p : Fin 64) (src : Source) : Bool := srcPart src == some p

/-- The command a request serves. -/
def ReqPurpose.src? : ReqPurpose → Option Source
  | .data src _ => some src
  | .read src _ _ _ _ => some src
  | .headerSignal src _ => some src
  | _ => none

/-- The partition's rings end: held and staging bundles are dropped and no outcome or count is written (R263). -/
def State.dropRing (s : State) (e : Nat) : State :=
  match s.round? e with
  | none => s
  | some r =>
    let s := ((r.ring.map Ring.undecided).getD []).foldl (fun s n => s.abandonReads e n) s
    (s.freeStaging r.stagingHeld).modRound e (fun r => { r with ring := none })

/-- The commands of a partition leave the part without completion records; what they hold in the engines, the gate's queue
and the fabric goes with them (R131, R187, R604). -/
def State.dropCommands (s : State) (p : Fin 64) : State :=
  let mine := s.q.cmds.filter (fun c => ofPart p c.src)
  let s := mine.foldl (fun s c => s.dropContexts c.src c.id) s
  let s := s.dropRequests (fun o => (o.purpose.src?).any (ofPart p))
  { s with
    q := { s.q with cmds := s.q.cmds.filter (fun c => !ofPart p c.src) }
    rounds := { s.rounds with gateQueue := s.rounds.gateQueue.filter (fun w => !ofPart p w.1) }
    hif := { s.hif with reads := Tab.map (fun _ (h : HostRead) => if h.fn = .vf p then { h with abandoned := true } else h) s.hif.reads } }

/-- Every Trellis of the partition is dissolved (R518). -/
def State.dissolve (s : State) (p : Fin 64) : State :=
  let ks := List.filterMap (fun (y : Nat × Formed) => if y.1 / 256 = p.val then some y.1 else none) s.trellis.formed
  { s with trellis := { s.trellis with
      formed := Tab.filter (fun k _ => k / 256 != p.val) s.trellis.formed
      gone := Tab.filter (fun k _ => k / 256 != p.val) s.trellis.gone
      dissolved := unionNat s.trellis.dissolved ks } }

/-- A window that is open closes; its handle stays CLOSING (R576, R604). -/
def Window.close (w : Window) (now : Nat) : Window := if w.closing.isSome then w else { w with closing := some now }

/-- A queue after R131: its reset values, its CLASS, and a new epoch (Table 27.8, R196). -/
def Queue.reset (q : Queue) (n : Nat) : Queue :=
  { freshQueue n with realtime := q.realtime, classNext := q.classNext, nextId := q.nextId, epoch := nextEpoch q.epoch }

/-- Queues and tasks of a partition stop, their epochs one on; its fences, leases and alarms go (R131, R196, R212, R433). -/
def State.resetAgents (s : State) (p : Fin 64) : State :=
  let s := (List.range 8).foldl (fun s k => s.stopTask { part := p, slot := Fin.ofNat 8 k } .stopped) s
  let s := (List.range 8).foldl (fun s k =>
    let t : TaskId := { part := p, slot := Fin.ofNat 8 k }
    s.setTask t { epoch := (s.taskOf t).epoch }) s
  let s := (List.range 16).foldl (fun s k =>
    let q : Source := .part p (Fin.ofNat 16 k)
    s.setQueue q ((s.queue q).reset (srcKey q))) s
  { s with
    q := { s.q with
      fences := Tab.filter (fun k _ => k / 4096 != p.val) s.q.fences
      fenceRefused := Tab.erase s.q.fenceRefused p.val
      leases := Tab.filter (fun _ (l : Lease) => l.owner != some p) s.q.leases }
    time := { s.time with alarms := Tab.filter (fun k _ => decide (1024 ≤ k) || k / 16 != p.val) s.time.alarms } }

/-- The partition's registers that Table 27.8 resets. -/
def Partition.reset (r : Partition) : Partition :=
  { r with ptRoot := 0, tlbBusy := none, fault := none, faultOverflow := 0, chunkSelVf := 0 }

/-- Everything R131 does to a partition but the scrub of its quota: rounds closed, queues and tasks stopped, leases, contexts,
windows, records, models and placement tables gone (R263, R501, R518, R604, R745, R777, R900). -/
def State.stopPartition (s : State) (p : Fin 64) : State :=
  let s := s.dropCommands p
  let s := (s.roundsOf p).foldl State.dropRing s
  let s := (s.roundsOf p).foldl State.closeRound s
  let s := (((s.clearWork p).dissolve p).resetAgents p).modPartition p Partition.reset
  { s with
    spetar := { s.spetar with windows := Tab.map (fun k (w : Window) => if k / 256 = p.val then w.close s.now else w) s.spetar.windows }
    random := { s.random with
      queues := Tab.erase s.random.queues p.val
      drbgs := Tab.erase s.random.drbgs (instPart p)
      underrun := s.random.underrun.filter (· != p.val) }
    hif := { s.hif with vfIntStatus := Tab.erase s.hif.vfIntStatus p.val, vfIntRounds := Tab.erase s.hif.vfIntRounds p.val } }

/-! ### Views (R110, R111, R116) -/

def State.setView (s : State) (p : Fin 64) (v : KelriView) : State :=
  { s with kelri := { s.kelri with vf := Tab.set s.kelri.vf {} p.val v } }

/-- The partition view becomes VALID with GENERATION 0 under the build in force. [log 135 DEDUCED] -/
def State.openView (s : State) (p : Fin 64) : State := s.setView p { valid := true, coldFrame := s.isCold p, fw := s.power.seqFw.version, debug := s.shed.debug }

/-! ### FLR (R131 to R133, R139, R140) -/

/-- An FLR begins: R131 but for the scrub, the VF's MSI-X table at its reset values, the view reading 0. A second one is
absorbed. [log 90 DEDUCED] -/
def State.startFlr (s : State) (p : Fin 64) : State :=
  if s.flrActive p then s
  else
    let s := s.stopPartition p
    { s with
      kelri := { s.kelri with vf := Tab.erase s.kelri.vf p.val }
      reg := { s.reg with latches := Tab.erase s.reg.latches (2 + p.val) }
      hif := { s.hif with
        flr := Tab.insert s.hif.flr p.val s.now
        msix := Tab.filter (fun k _ => k / 256 != p.val + 1) s.hif.msix
        msixFnMask := Tab.erase s.hif.msixFnMask (p.val + 1)
        msixEnable := Tab.erase s.hif.msixEnable (p.val + 1)
        reads := Tab.map (fun _ (h : HostRead) => if h.fn = .vf p then { h with beforeFlr := true } else h) s.hif.reads } }

/-- FLR of a VF (R131). [log 90 DEDUCED] -/
def actFlr (p : Fin 64) (s : State) : State :=
  if s.running .hif && s.vfPresent p then (s.startFlr p) else s

def execFlr (p : Fin 64) (s : State) : Host.Outcome State Fault Refusal := s.conclude (actFlr p s)

/-- FLR_COMPLETE: every chunk of the quota is scrubbed, those in `failed` failing their read-back; the random instance starts
again with its string and the view becomes VALID (R116, R133, R678, R777). -/
def actFlrComplete (p : Fin 64) (failed : List Nat) (s : State) : State :=
  if !s.flrActive p then s
  else
    let n := ((s.partition? p).map Partition.quota).getD 0
    let s := (List.range n).foldl (fun s k => s.scrubQuota p k (failed.contains k)) s
    let s := { s with hif := { s.hif with flr := Tab.erase s.hif.flr p.val } }
    if !s.created p then s
    else
      let s := if s.random.serving then s.instantiate (instPart p) else s
      (s.openView p)

def execFlrComplete (p : Fin 64) (failed : List Nat) (s : State) : Host.Outcome State Fault Refusal := s.conclude (actFlrComplete p failed s)

/-- A write of VF Enable or NumVFs. The VFs it removes have R131 applied to their partitions, which stay created
(R134). [log 90 DEDUCED] -/
def State.setVfs (s : State) (enable : Bool) (num : Nat) : State :=
  if !s.running .hif || decide (64 < num) then s
  else
    let gone := (List.range 64).filter (fun k => s.vfPresent (Fin.ofNat 64 k) && !(enable && decide (k < num)) && s.created (Fin.ofNat 64 k))
    let s := gone.foldl (fun s k => s.startFlr (Fin.ofNat 64 k)) s
    { s with hif := { s.hif with vfEnable := enable, numVfs := num } }

/-- VF_ENABLE. -/
def actVfEnable (enable : Bool) (num : Nat) (s : State) : State := s.setVfs enable num

def execVfEnable (enable : Bool) (num : Nat) (s : State) : Host.Outcome State Fault Refusal := s.conclude (actVfEnable enable num s)

/-! ### Chunks of a quota (R646) -/

/-- The chunks of quotas and the BAD chunks that lie between the control range and the staging pool. -/
def State.takenChunks (s : State) : List Nat :=
  (unionNat s.part.badChunks (List.flatMap (fun (y : Nat × Partition) => y.2.chunkMap) s.part.parts)).filter
    (fun c => decide (s.part.cpChunks ≤ c) && decide (c < s.rounds.stagingBase))

/-- Chunks of the free pool: those below the staging pool, and those above its base that a quota has given back. -/
def State.freePool (s : State) : Nat :=
  s.rounds.stagingBase - s.part.cpChunks - s.takenChunks.length + (s.rounds.stagingHoles.filter s.inFreePool).length

/-- The base of a pool of `n` staging chunks, searched downward from chunk `c`, and the chunks passed over that a quota holds: the highest
chunks that no quota holds, that are not BAD and that the control range does not reach (Table 19.2). [log 37 DEDUCED] -/
def State.stagingFrom (s : State) : Nat → Nat → List Nat → Option (Nat × List Nat)
  | c, 0, hs => some (c, hs)
  | 0, _, _ => none
  | c + 1, n + 1, hs =>
    if c < s.part.cpChunks then none
    else if s.isBad c then s.stagingFrom c (n + 1) hs
    else if (s.quotaOf c).isSome then s.stagingFrom c (n + 1) (c :: hs)
    else s.stagingFrom c n hs

/-- Reserve a staging pool of `g` GiB (R251); `none` where the chunks do not suffice. -/
def State.reserveStaging (s : State) (g : Nat) : Option State :=
  (s.stagingFrom reserveBase (512 * g) []).map (fun (b, hs) =>
    { s with rounds := { s.rounds with stagingGiB := g, stagingBase := b, stagingHoles := hs } })

/-- The `n` lowest chunks of the free pool from `c` on. -/
def State.freeRun (s : State) : Nat → Nat → Nat → List Nat
  | 0, _, _ => []
  | fuel + 1, c, n =>
    if n = 0 then []
    else if s.inFreePool c then c :: s.freeRun fuel (c + 1) (n - 1)
    else s.freeRun fuel (c + 1) n

/-- Scrub the chunks taken, in their order; one that fails is BAD and the lowest chunk left in the pool takes its place.
`none` once the pool is empty. -/
def State.scrubTaken (s : State) (p : Fin 64) : List Nat → Option Unit × State
  | [] => (some (), s)
  | k :: t =>
    let c := ((s.partition? p).map (fun (r : Partition) => r.chunkMap.getD k 0)).getD 0
    if s.scrubFails c then
      match (s.markBad c (partByte (some p))).goodChunk (partByte (some p)) chunkCount with
      | (none, s) => (none, s)
      | (some d, s) => (s.modPartition p (fun r => { r with chunkMap := r.chunkMap.set k d })).scrubTaken p t
    else (s.zeroPhys (c * chunkBytes) chunkBytes).scrubTaken p t

/-- Append `n` chunks to a quota; `none` where the pool runs out, the quota then as it was. -/
def State.growQuota (s : State) (p : Fin 64) (n : Nat) : Option Unit × State :=
  match s.partition? p with
  | none => (none, s)
  | some r =>
    let old := r.chunkMap
    let s := s.setPartition p { r with chunkMap := old ++ s.freeRun chunkCount 0 n }
    match s.scrubTaken p ((List.range n).map (· + old.length)) with
    | (some _, s) => (some (), s)
    | (none, s) => (none, s.modPartition p (fun r => { r with chunkMap := old }))

/-! ### Shares (R661) -/

def plotBits (v : Nat) : Nat := bits v 7 0
def sowerBits (v : Nat) : Nat := bits v 15 8
def bedBits (v : Nat) : Nat := bits v 23 16

/-- The shares in word `v` with those of every other partition sum to at most 64 in each class. [log 91 DEDUCED] -/
def State.sharesFit (s : State) (p : Fin 64) (v : Nat) : Bool :=
  let others := List.filter (fun (y : Nat × Partition) => y.1 != p.val) s.part.parts
  let total (f : Partition → Nat) : Nat := others.foldl (fun n y => n + f y.2) 0
  decide (plotBits v + total (·.plotShare) ≤ 64) && decide (sowerBits v + total (·.sowerShare) ≤ 64) &&
    decide (bedBits v + total (·.bedShare) ≤ 64)

/-! ### PART_CREATE (R646) -/

/-- The check of an attestation slot at its binding, in the order of R687 (R697). -/
def State.bindSlot (s : State) (p : Fin 64) (n : Nat) : Option Status × State :=
  if n < 16 || (s.slot n).state == .empty || (s.slot n).owner != p then (some .notPermitted, s)
  else match s.checkSlot n useProve with
    | (.error st, s) => (some st, s)
    | (.ok _, s) => (none, s)

def specPartCreate : OpSpec :=
  { code := 0x0900, callC := true, used := [0, 1, 2, 3], checks := [.mask 0 0x3F, .word 1 .range (fun v => v == 0), .mask 2 0xFFFFFF, .mask 3 0xFF] }

/-- What a new partition starts with: one Work list unit, no model region but the default, progress counters and serials at
0, an instance with an empty string, and its view VALID (R116, R237, R471, R756, R777). -/
def State.furnish (s : State) (p : Fin 64) : State :=
  let s := s.assignUnits p 1
  let s := { s with
    plot := { s.plot with modelRegion := Tab.insert s.plot.modelRegion p.val (256 * p.val, 256) }
    q := { s.q with progress := Tab.filter (fun k _ => k / 24 != p.val) s.q.progress, serials := Tab.erase s.q.serials p.val }
    random := { s.random with personal := Tab.erase s.random.personal p.val } }
  (s.instantiate (instPart p)).openView p

/-- Log 91 DEDUCED. -/
def bodyPartCreate : Body := fun c s =>
  let p : Fin 64 := Fin.ofNat 64 (c.w 0)
  if s.created p || !s.vfPresent p then fail .notPermitted s
  else if s.freePool < c.w 1 then failAt .range 1 s
  else if !s.sharesFit p (c.w 2) then failAt .range 2 s
  else match s.bindSlot p (c.w 3) with
    | (some st, s) => fail st s
    | (none, s) =>
      c.needs s .rng (fun s =>
      if !s.random.serving then fail .entropyFail s
      else
        let r : Partition := { plotShare := plotBits (c.w 2), sowerShare := sowerBits (c.w 2), bedShare := bedBits (c.w 2), slot := c.w 3 }
        match (s.setPartition p r).growQuota p (c.w 1) with
        | (none, s) => failAt .range 1 { s with part := { s.part with parts := Tab.erase s.part.parts p.val } }
        | (some _, s) => okRes [] (s.furnish p))

def execPartCreate (src : Source) (pkt : Packet) (s : State) : Host.Outcome State Fault Refusal :=
  runRow specPartCreate bodyPartCreate src pkt s

/-! ### PART_DESTROY (R647) -/

/-- Scrub physical chunks on their way back to the free pool; one that fails is BAD. -/
def State.scrubBack (s : State) (p : Fin 64) (cs : List Nat) : State :=
  cs.foldl (fun s c =>
    if s.isBad c then s
    else if s.scrubFails c then s.markBad c (partByte (some p))
    else s.zeroPhys (c * chunkBytes) chunkBytes) s

/-- R131, the scrub, and the end of the partition. -/
def State.destroyPartition (s : State) (p : Fin 64) : State :=
  let s := s.stopPartition p
  let s := { s with
    kelri := { s.kelri with vf := Tab.erase s.kelri.vf p.val }
    hif := { s.hif with flr := Tab.erase s.hif.flr p.val }
    random := { s.random with personal := Tab.erase s.random.personal p.val } }
  let s := s.scrubBack p (((s.partition? p).map (·.chunkMap)).getD [])
  { s with part := { s.part with parts := Tab.erase s.part.parts p.val, bedTime := Tab.filter (fun k _ => k % 64 != p.val) s.part.bedTime } }

/-- A COLD_FRAME_ENTER of the partition that waits at step 2 of R667. -/
def State.entering (s : State) (p : Fin 64) : Bool :=
  s.q.cmds.any (fun c => c.pkt.header.op == 0x0905 && (match c.phase with
    | .executing (.coldFrame q) => q == p
    | _ => false))

def specPartDestroy : OpSpec := { code := 0x0901, callC := true, callM := true, used := [0], checks := [.mask 0 0x3F] }

/-- PART_DESTROY waits for a COLD_FRAME_ENTER in progress (R676). [log 92 DEDUCED] -/
def bodyPartDestroy : Body := fun c s =>
  let p : Fin 64 := Fin.ofNat 64 (c.w 0)
  if !s.created p then failAt .badParam 0 s
  else if s.entering p then (.run (.coldFrame p), s)
  else okRes [] (s.destroyPartition p)

def execPartDestroy (src : Source) (pkt : Packet) (s : State) : Host.Outcome State Fault Refusal :=
  runRow specPartDestroy bodyPartDestroy src pkt s

/-! ### PART_SHARES -/

def specPartShares : OpSpec :=
  { code := 0x0902, callC := true, used := [0, 1, 2], checks := [.mask 0 0x3F, .word 1 .range (fun v => v == 0), .mask 2 0xFFFFFF] }

/-- A quota shrinks over FREE chunks, which return to the pool, and grows as in PART_CREATE. [log 91 DEDUCED] -/
def State.resizeQuota (s : State) (p : Fin 64) (r : Partition) (n : Nat) : Option Unit × State :=
  if r.quota < n then
    if s.freePool < n - r.quota then (none, s) else s.growQuota p (n - r.quota)
  else if ((List.range (r.quota - n)).map (· + n)).any (fun k => r.chunkState k != .free) then (none, s)
  else (some (), s.setPartition p { r with chunkMap := r.chunkMap.take n })

/-- Log 91 DEDUCED. -/
def bodyPartShares : Body := fun c s =>
  let p : Fin 64 := Fin.ofNat 64 (c.w 0)
  match s.partition? p with
  | none => failAt .badParam 0 s
  | some r =>
    match s.resizeQuota p r (c.w 1) with
    | (none, s) => failAt .range 1 s
    | (some _, t) =>
      if !s.sharesFit p (c.w 2) then failAt .range 2 s
      else
        okRes [] (t.modPartition p (fun r =>
          { r with plotShare := plotBits (c.w 2), sowerShare := sowerBits (c.w 2), bedShare := bedBits (c.w 2) }))

def execPartShares (src : Source) (pkt : Packet) (s : State) : Host.Outcome State Fault Refusal :=
  runRow specPartShares bodyPartShares src pkt s

/-! ### COLD_FRAME_ENTER (R667) -/

def specColdFrameEnter : OpSpec := { code := 0x0905, callC := true, used := [0], checks := [.mask 0 0x3F] }

/-- A C command at stage 5 that holds a range in the partition's quota (step 2). -/
def State.touchesQuota (s : State) (p : Fin 64) : Bool :=
  match s.partition? p with
  | none => false
  | some r => s.q.cmds.any (fun c => (srcPart c.src).isNone && c.phase.isExecuting && !c.phase.isDone &&
      c.pages.any (fun y => r.chunkMap.contains (y.2 / chunkBytes)))

/-- Steps 3 to 5: noise required, mode COLD_FRAME, the view updated. -/
def State.enterCold (s : State) (p : Fin 64) : State :=
  let s := s.modPartition p (fun r => { r with coldFrame := true, policy := { r.policy with noiseRequired := true } })
  (s.setView p { (Tab.get s.kelri.vf {} p.val).step with coldFrame := (Tab.get s.kelri.vf {} p.val).valid }).pfEvent .kelri

def bodyColdFrameEnter : Body := fun c s =>
  let p : Fin 64 := Fin.ofNat 64 (c.w 0)
  if s.shed.debug || !s.created p || !(s.roundsOf p).isEmpty || s.shed.pufFail then fail .notPermitted s
  else
    let s := s.modPartition p (fun r => { r with closedToCp := true })
    if s.touchesQuota p then (.run (.coldFrame p), s) else okRes [] (s.enterCold p)

def execColdFrameEnter (src : Source) (pkt : Packet) (s : State) : Host.Outcome State Fault Refusal :=
  runRow specColdFrameEnter bodyColdFrameEnter src pkt s

/-- Step 2 of R667 ends for a waiting COLD_FRAME_ENTER, or R676 for a waiting PART_DESTROY. [log 92 DEDUCED] -/
def State.coldReady (s : State) (c : Cmd) (p : Fin 64) : State :=
  if c.pkt.header.op == 0x0905 then
    if s.touchesQuota p then s else (s.enterCold p).complete c.src c.id .ok []
  else if s.entering p then s
  else (s.destroyPartition p).complete c.src c.id .ok []

end Sys2Proof.Machine
end

