-- ==== Sys2Proof/Machine/Resets.lean ====
section
/-!
DEFINITION. The resets of Table 2.4 and Table 24.4: what asserting a cold, an AUX and a main-side warm reset clears and keeps,
and the release of the main side (R66, R78, R94, R95, R238, R298, R396, R423, R432, R501, R524, R609, R643, R680, R745, R804, R814,
R846, R866).
-/

namespace Sys2Proof.Machine
open Sys2Proof

/-! ### Islands -/

/-- A reset is asserted on an island and held. An island already in RESET, or a GATED Plot, only has its reset extended
(R66, R78). -/
def IslandRec.hold (r : IslandRec) : IslandRec :=
  match r.state with
  | .reset => { r with releasedAt := none }
  | .gated => r
  | _ => { r with state := .reset, epoch := nextEpoch r.epoch, releasedAt := none }

def State.holdIsland (s : State) (d : Island) : State := s.setIsland d (s.island d).hold

def auxIslands : List Island := [.time, .mgmt, .shed]

/-- The main side's islands leave RESET: the 1 ms of R91 runs from now. -/
def State.freeMain (s : State) : State :=
  (allIslands.filter isMain).foldl (fun s d =>
    if (s.island d).state = .reset then s.setIsland d { s.island d with releasedAt := some s.now } else s) s

/-! ### Main-side warm reset -/

/-- M commands in FE end with TARGET_RESET, their records kept; one that had completed keeps its own record, and those that the AUX domain
executes go on (R192, R797). -/
def State.endM (s : State) : State :=
  s.q.cmds.foldl (fun s c => match c.src, c.phase with
    | .mgmt t, .done _ st res time => s.keepPending t c st res time
    | .mgmt t, _ => if c.inAux then s else s.keepPending t c .targetReset [] s.now
    | _, _ => s) s

/-- What is left of the queues: the Drinoner port's, which lies in MGMT, and its commands in the AUX domain. -/
def Queues.auxPart (x : Queues) : Queues :=
  { cmds := x.cmds.filter Cmd.inAux, queues := Tab.filter (fun k _ => decide (1040 ≤ k)) x.queues }

/-- Every partition ends as PART_DESTROY would end it: its chunks are scrubbed, a failing one is BAD (R680). -/
def State.endPartitions (s : State) : State :=
  let s := s.part.parts.foldl (fun s y => s.scrubBack (Fin.ofNat 64 y.1) y.2.chunkMap) s
  { s with part := { badChunks := s.part.badChunks, weak := s.part.weak, retirePending := s.part.retirePending, memUce := s.part.memUce } }

/-- A board parameter block with its MAGIC and CRC (R817). [log 126 DESIGN CHOICE] -/
def boardGood (b : Bytes) : Bool := leNat (b.take 4) == 0x50424B41 && leNat (slice b 0x3C 4) == (crc32 (fit 0x3C b)).toNat

/-- CP_SPETAR_FID_REQ as the board parameter block gives it (R609, R817). -/
def boardFid (b : Bytes) : Option Nat :=
  let v := leNat (slice b 8 2)
  if boardGood b && bit v 15 then some (v % 512) else none

/-- What a main-side warm reset clears in each unit; the ECC counters of Beds and Plots, the cells' failure counts and what
was sent stay, and so do the Drinoner port's latches and the PF's CP_TIME_FRAC (R433). [log 45 DESIGN CHOICE] -/
def State.clearMain (s : State) : State :=
  { s with
    q := s.q.auxPart
    hif := { out := s.hif.out }
    rounds := { beds := Tab.map (fun _ (b : BedSower) => { eccCorrected := b.eccCorrected }) s.rounds.beds }
    plot := { plots := Tab.map (fun _ (x : Plot) => { eccCorrected := x.eccCorrected }) s.plot.plots }
    trellis := {}
    spetar := { fidReq := boardFid s.power.boardBlock, out := s.spetar.out }
    graft := {}
    attest := {}
    random := { s.rngReset.random with personal := [], underrun := [] }
    kelri := {}
    time := s.time.mainDown
    reg := { latches := Tab.set (Tab.filter (fun k _ => k == 0) s.reg.latches) {} 1 { fraction := (Tab.get s.reg.latches {} 1).fraction } } }

/-- An activation of the sequencer image in progress ends; one that programs the flash leaves STANDBY as it stands (R835). -/
def State.endStaging (s : State) : State :=
  let stop (b : FwBusy) : FwBusy := if b = .stage then .none else b
  { s with power := { s.power with busySeq := stop s.power.busySeq, busyMgmt := stop s.power.busyMgmt } }

/-- The crossings into the optical engines that the reset reaches anew (R75, R78). -/
def State.dropCrossings (s : State) : State :=
  (List.range 4).foldl (fun s e =>
    let d : Island := .oe (Fin.ofNat 4 e)
    if (s.island d).state = .reset then s else s.dropHeld d) s

/-- Assert a main-side warm reset and hold it. Asserting it again extends it (R78). [log 102 DEDUCED] -/
def State.warmReset (s : State) : State :=
  let s := s.dropCrossings
  let s := (allIslands.filter isMain).foldl State.holdIsland s
  if s.power.mainHeld then s
  else
    let s := (s.endM.endPartitions).clearMain.endStaging
    ({ s with power := { s.power with
        mainHeld := true, booting := false, op := 0, arrOk := [], halved := false, stopped := false, claimPause := false
        coolSince := none, underSince := none, imageLoaded := [], seqFw := { cause := s.power.seqFw.cause } } }).sampleState 11 |>.sampleState 10

/-! ### AUX and cold reset -/

/-- Counts of islands, Beds, Plots and cells that an AUX reset clears (R95, R298, R470, R776). -/
def State.clearCounts (s : State) : State :=
  { s with
    isl := { s.isl with tab := Tab.map (fun _ (r : IslandRec) => { r with stale := 0, drop := 0 }) s.isl.tab }
    rounds := { s.rounds with beds := [] }
    plot := { s.plot with plots := [] }
    random := {} }

/-- Assert an AUX reset: TIME, MGMT and SHED logic and the main side (Table 24.4, R432, R804, R846). -/
def State.auxReset (s : State) : State :=
  let s := s.warmReset
  let s := auxIslands.foldl State.holdIsland s
  let s := s.clearCounts
  { s with
    q := {}
    time := { out := s.time.out, adrift := s.time.adrift }
    mgmt := { out := s.mgmt.out, strap := s.mgmt.strap, staticAddr := s.mgmt.staticAddr }
    reg := {}
    shed := { s.shed with conditions := [], batteryLow := false, patrolAt := 0 }
    power := { s.power with
      auxRst := true, auxBooted := false, noMgmtImage := false, imageBuffer := [], bufferBad := false, seqFw := {}, mgmtFw := {}
      busySeq := .none, busyMgmt := .none, opReq := 3, cap := 380, gateIdle := 100, droop := 0, thermalLimit := 4, powerLimit := 4
      arrVreq := 0x294, arrMeas := 0, dlDown := false, fatalLog := none } }

/-- What ends with DEBUG at a cold reset: tenant records and the test root (R701). -/
def Shed.endDebug (x : Shed) : Shed :=
  if x.debug then { x with debug := false, slots := [], batteryRoot := none } else x

/-- A cold reset: an AUX reset that also clears the logs, the BAD marks and the PUF root (R678, R681, R866). -/
def State.coldReset (s : State) : State :=
  let s := s.auxReset
  { s with
    err := {}
    part := { weak := s.part.weak }
    shed := { s.shed.endDebug with pufRoot := none, pufFail := false } }

/-! ### Release of the main side (R808, R815) -/

/-- Nothing holds the main side. [log 102 DEDUCED] -/
def State.mainFree (s : State) : Bool :=
  s.power.pwrgdMain && s.power.pwrgdAux && !s.power.auxRst && !s.power.perst && !s.power.thermTrip && !s.power.dlDown &&
    s.mgmt.mainResetUntil.isNone

/-- Up to three regenerations of the PUF root, numbered from `n` (R681, R715). [log 96 DEDUCED] -/
def pufTries : Nat → Nat → Bool
  | 0, _ => false
  | k + 1, n => Config.pufPasses n || pufTries k (n + 1)

/-- Regenerate the PUF root; three failures in a row are PUF_FAIL. DEBUG keeps the test root (R700). [log 96 DEDUCED] -/
def State.regenerate (s : State) : State :=
  if s.shed.debug then s
  else
    let ok := pufTries 3 s.shed.pufFails
    let s := { s with shed := { s.shed with
      pufRoot := if ok then some (fit 32 Config.pufRoot) else none, pufFail := !ok, pufFails := s.shed.pufFails + 3 } }
    if ok then s else s.logErr 13 .shed 0xFF .contained .sramUce

end Sys2Proof.Machine
end

