-- ==== Sys2Proof/Machine/Firmware.lean ====
section
/-!
DEFINITION. Firmware: images and their verification, the flash directory, boots of an image type, FW_STAGE and FW_ACTIVATE
(R816 to R826, R835 to R844).
-/

namespace Sys2Proof.Machine
open Sys2Proof

/-! ### ECDSA P-384 (FIPS 186-5) -/

def p384 : Nat := 2 ^ 384 - 2 ^ 128 - 2 ^ 96 + 2 ^ 32 - 1

def order384 : Nat :=
  0xFFFFFFFFFFFFFFFFFFFFFFFFFFFFFFFFFFFFFFFFFFFFFFFFC7634D81F4372DDF581A0DB248B0A77AECEC196ACCC52973

def base384 : Nat × Nat :=
  (0xAA87CA22BE8B05378EB1C71EF320AD746E1D3B628BA79B9859F741E082542A385502F25DBF55296C3A545E3872760AB7,
   0x3617DE4A96262C6F5D9E98BF9292DC29F8F41DBD289A147CE9DA3113B5F0B8C00A60B1CE1D7E819D7A431D7C90EA0E5F)

/-- A point of the curve; `none` is the point at infinity. -/
abbrev Point := Option (Nat × Nat)

def pointAdd (a b : Point) : Point :=
  match a, b with
  | none, q => q
  | p, none => p
  | some (x1, y1), some (x2, y2) =>
    let m := p384
    if x1 = x2 && (y1 + y2) % m = 0 then none
    else
      let l := if x1 = x2 then (3 * x1 * x1 + (m - 3)) * invMod m (2 * y1 % m) % m
        else subMod m y2 y1 * invMod m (subMod m x2 x1) % m
      let x := subMod m (l * l) (x1 + x2)
      some (x, subMod m (l * subMod m x1 x) y1)

def pointMulAux : Nat → Nat → Point → Point → Point
  | 0, _, _, acc => acc
  | fuel + 1, k, p, acc =>
    if k = 0 then acc else pointMulAux fuel (k / 2) (pointAdd p p) (if k % 2 = 1 then pointAdd acc p else acc)

def pointMul (k : Nat) (p : Point) : Point := pointMulAux 385 k p none

/-- A signature r then s verifies over a digest under the Liund image key. -/
def signed384 (digest signature : Bytes) : Bool :=
  let r := beNat (signature.take 48)
  let t := beNat (signature.drop 48)
  if r = 0 || order384 ≤ r || t = 0 || order384 ≤ t then false
  else
    let w := invMod order384 t
    match pointAdd (pointMul (beNat digest * w % order384) (some base384)) (pointMul (r * w % order384) (some Config.imageKey)) with
    | none => false
    | some (x, _) => x % order384 = r

/-! ### Images (Table 24.7, R819, R820) -/

def imageType (b : Bytes) : Nat := leNat (slice b 6 1)
def imageVersion (b : Bytes) : Nat := leNat (slice b 8 4)
def imageSvn (b : Bytes) : Nat := leNat (slice b 12 4)
def imageBody (b : Bytes) : Nat := leNat (slice b 16 4)
def imageRaises (b : Bytes) : Bool := bit (leNat (slice b 7 1)) 0

def imageLimit : Nat := 2 ^ 23

/-- Why an image does not verify, by the reasons of Table 24.8. [log 98 DEDUCED] -/
def imageFails (type minSvn : Nat) (b : Bytes) : Option Nat :=
  let form := decide (256 ≤ b.length) && leNat (b.take 4) == 0x49464B41 && leNat (slice b 4 1) == 1 &&
    decide (leNat (slice b 7 1) < 2) && allZero (slice b 0x14 12) && allZero (slice b 0x50 80)
  if !form then some 1
  else if imageType b ≠ type then some 2
  else if imageLimit < imageBody b + 256 || b.length < imageBody b + 256 then some 1
  else if sha384 (slice b 256 (imageBody b)) ≠ slice b 0x20 48 then some 3
  else if !signed384 (sha384 (b.take 0xA0)) (slice b 0xA0 96) then some 4
  else if imageSvn b < minSvn then some 5
  else none

/-! ### The flash directory (R818) -/

def State.modPower (s : State) (f : Power → Power) : State := { s with power := f s.power }

/-- The copy in force: the valid one with the higher SEQUENCE. -/
def Power.dir (p : Power) : DirCopy :=
  if !p.dir0.valid then p.dir1
  else if !p.dir1.valid then p.dir0
  else if p.dir0.sequence.toNat < p.dir1.sequence.toNat then p.dir1 else p.dir0

/-- A change goes into the other copy, with SEQUENCE one higher. -/
def Power.setDir (p : Power) (f : DirCopy → DirCopy) : Power :=
  let d := f p.dir
  let d' : DirCopy := { d with valid := true, sequence := p.dir.sequence + 1 }
  if p.dir = p.dir0 && p.dir0.valid then { p with dir1 := d' } else { p with dir0 := d' }

def DirCopy.entry (d : DirCopy) (t : Nat) : DirEntry := if t = 0 then d.seqEntry else d.mgmtEntry

def DirCopy.setEntry (d : DirCopy) (t : Nat) (e : DirEntry) : DirCopy :=
  if t = 0 then { d with seqEntry := e } else { d with mgmtEntry := e }

def Power.image (p : Power) (t : Nat) : DirEntry := p.dir.entry t

def State.modImage (s : State) (t : Nat) (f : DirEntry → DirEntry) : State :=
  s.modPower (fun p => p.setDir (fun d => d.setEntry t (f (d.entry t))))

/-- Flash key of a half. -/
def halfKey (half : Bool) (t : Nat) : Nat := 2 * b2n half + t

/-- Log 98 DEDUCED. -/
def Power.minSvn (p : Power) (t : Nat) : Nat := if t = 0 then p.minSvnSeq else p.minSvnMgmt

def Power.flashImage (p : Power) (half : Bool) (t : Nat) : Bytes := Tab.get p.flash [] (halfKey half t)

/-- A half's image verifies. -/
def Power.halfGood (p : Power) (half : Bool) (t : Nat) : Bool := (imageFails t (p.minSvn t) (p.flashImage half t)).isNone

/-! ### Boots of an image type (R822) -/

def State.setFwCause (s : State) (t c : Nat) : State :=
  s.modPower (fun p => if t = 0 then { p with seqFw := { p.seqFw with cause := c } } else { p with mgmtFw := { p.mgmtFw with cause := c } })

/-- The standby half takes over: ACTIVE and STANDBY swap, the failed half is INVALID, FW_UPDATE latches. [log 98 DEDUCED] -/
def State.fallBack (s : State) (t : Nat) : State :=
  ((s.modImage t (fun e => { active := !e.active, standby := .invalid, attempts := 0 })).setFwCause t 2).latchAlert .fwUpdate

/-- Boot an image type: ACTIVE is verified and counted, or the FALLBACK half takes its place. `count` is false for a
verification that boots nothing. [log 97 DESIGN CHOICE] -/
def State.bootImage (s : State) (t : Nat) (count : Bool) : Option Bytes × State :=
  let e := s.power.image t
  let n := if count then e.attempts + 1 else e.attempts
  let good := s.power.halfGood e.active t
  if good && n < 3 then
    (some (s.power.flashImage e.active t), if count then s.modImage t (fun e => { e with attempts := n }) else s)
  else if e.standby = .fallback && s.power.halfGood (!e.active) t then
    (some (s.power.flashImage (!e.active) t), s.fallBack t)
  else if good then
    (some (s.power.flashImage e.active t), if count then s.modImage t (fun e => { e with attempts := n }) else s)
  else (none, s.setFwCause t 1)

def fwOf (b : Bytes) (cause : Nat) : FwInForce :=
  { version := w32 (imageVersion b), svn := imageSvn b, digest := sha384 (b.take (256 + imageBody b)), cause := cause }

/-- An image reaches readiness: ATTEMPTS clears; with RAISE_SVN its type's minimum rises, and a STANDBY half below it is
INVALID (R821). -/
def State.imageReady (s : State) (t : Nat) (b : Bytes) : State :=
  let s := if (s.power.image t).attempts = 0 then s else s.modImage t (fun e => { e with attempts := 0 })
  if !imageRaises b || imageSvn b ≤ s.power.minSvn t then s
  else
    let n := min (imageSvn b) 63
    let s := s.modPower (fun p => if t = 0 then { p with minSvnSeq := n } else { p with minSvnMgmt := n })
    let e := s.power.image t
    if e.standby ≠ .empty && imageSvn (s.power.flashImage (!e.active) t) < n then s.modImage t (fun e => { e with standby := .invalid }) else s

/-- A parity error met in the image buffer: the buffer is reloaded from the ACTIVE half and verified again, with an entry and the cause
BUFFER_RELOADED; false where the half does not verify (R844). [log 153 DEDUCED] -/
def State.reloadBuffer (s : State) : Bool × State :=
  if !s.power.bufferBad then (true, s)
  else
    let a := (s.power.image 0).active
    let good := s.power.halfGood a 0
    let s := s.modPower (fun p => { p with bufferBad := false, imageBuffer := if good then p.flashImage a 0 else [] })
    (good, (s.setFwCause 0 (if good then 3 else 1)).logErr 15 .mgmt 0xFF .contained .image)

/-- The sequencer image is copied to FE for this main-side boot (step 6 of Table 24.5). -/
def State.bootSequencer (s : State) : State :=
  match s.reloadBuffer with
  | (false, s) => s
  | (true, s) =>
    match s.bootImage 0 true with
    | (none, s) => (s.modPower (fun p => { p with imageBuffer := [] })).logErr 15 .mgmt 0xFF .contained .image
    | (some b, s) => s.modPower (fun p =>
        { p with imageBuffer := b, imageLoaded := b, seqFw := fwOf b p.seqFw.cause })

/-- The management firmware starts; with no image that verifies, the recovery responder (R822, R841). -/
def State.bootMgmt (s : State) : State :=
  match s.bootImage 1 true with
  | (none, s) =>
    ((s.modPower (fun p => { p with noMgmtImage := true, mgmtFw := { cause := 1 } })).modMgmt (fun m => { m with firmware := true })).logErr 15
      .mgmt 0xFF .contained .image
  | (some b, s) =>
    ((s.modPower (fun p => { p with noMgmtImage := false, mgmtFw := fwOf b p.mgmtFw.cause })).modMgmt (fun m => { m with firmware := true })).imageReady 1 b

/-! ### Release of the main side (R808, R810, R815) -/

/-- With nothing holding it, the main side leaves RESET: the PUF root is regenerated, and the sequencers boot once the AUX boot
is complete. -/
def State.releaseMain (s : State) : State :=
  if !s.power.mainHeld || !s.mainFree then s
  else
    let s := s.modPower (fun p => { p with mainHeld := false, booting := true })
    let s := s.freeMain.regenerate
    (if s.power.auxBooted then s.bootSequencer else s).sampleState 11

/-! ### Writing the standby half (R823) -/

def State.fwBusy (s : State) (t : Nat) : FwBusy := if t = 0 then s.power.busySeq else s.power.busyMgmt

def State.setBusy (s : State) (t : Nat) (b : FwBusy) : State :=
  s.modPower (fun p => if t = 0 then { p with busySeq := b } else { p with busyMgmt := b })

/-- Step 1: STANDBY is INVALID. [log 98 DEDUCED] -/
def State.spoilStandby (s : State) (t : Nat) : State := s.modImage t (fun e => { e with standby := .invalid })

/-- Whether the flash erases, programs and reads back without a failure (R843): free. [log 97 DESIGN CHOICE] -/
def State.flashWorks (s : State) : Bool × State :=
  let (n, s) := s.freeNat
  (n % 2 = 0, s)

/-- Steps 2 to 5: the standby half is erased, programmed, read back and STAGED; false where the flash fails. -/
def State.programStandby (s : State) (t : Nat) (b : Bytes) : Bool × State :=
  let (ok, s) := s.flashWorks
  if !ok then (false, s)
  else
    let s := s.modPower (fun p => { p with flash := Tab.insert p.flash (halfKey (!(p.image t).active) t) b })
    (true, s.modImage t (fun e => { e with standby := .staged }))

/-- A staged half becomes ACTIVE, the former one FALLBACK (R824, R825). -/
def State.activateHalf (s : State) (t : Nat) : State :=
  s.modImage t (fun e => { active := !e.active, standby := .fallback, attempts := 0 })

/-! ### FW_STAGE -/

def specFwStage : OpSpec :=
  { code := 0x0C00, callC := true, used := [0, 2, 3, 4],
    checks := [.mask 0 1, .addr 2 1, .word 4 .range (fun v => v == 0 || v > 2 ^ 23), .range48 2 [4] (fun w => w 4)] }

/-- FW_STAGE: the image is verified at its source before STANDBY changes; an update in progress refuses it (R798). The flash is MGMT's: a
request to one that is not in RUN is held, or refused, at its crossing (R76, R91). -/
def bodyFwStage : Body := fun c s => c.needs s .mgmt fun s =>
  let t := bits (c.w 0) 0 0
  if s.fwBusy t ≠ .none then fail .notPermitted s
  else c.claim s 2 (pair c.w 2) (c.w 4) false (fun ps s => c.read s ps (pair c.w 2) (c.w 4) (fun b s =>
    match imageFails t (s.power.minSvn t) b with
    | some r => (.done .imageRejected [w32 r], s)
    | none => (.run (.stage t b), (s.spoilStandby t).setBusy t .stage)))

def execFwStage (src : Source) (pkt : Packet) (s : State) : Host.Outcome State Fault Refusal := runRow specFwStage bodyFwStage src pkt s

/-- The programming of a FW_STAGE ends. -/
def State.endStage (s : State) (c : Cmd) (t : Nat) (b : Bytes) : State :=
  let (ok, s) := (s.setBusy t .none).programStandby t b
  if ok then s.complete c.src c.id .ok [w32 (imageVersion b), w32 (imageSvn b)]
  else (s.logErr 15 .mgmt 0xFF .contained .image).complete c.src c.id .imageRejected [6]

/-! ### FW_ACTIVATE -/

def specFwActivate : OpSpec := { code := 0x0C01, callC := true, callM := true, used := [0], checks := [.mask 0 1] }

/-- FW_ACTIVATE of image 1: the MGMT island resets 1 ms after the completion (R824). -/
def bodyActivateMgmt (s : State) : BodyOut × State :=
  okRes [] ((s.activateHalf 1).modMgmt (fun m => { m with activateAt := some (s.now + 1000000) }))

/-- FW_ACTIVATE of image 0, step 1 of R825: the staged image is read and verified. -/
def bodyActivateSeq (s : State) : BodyOut × State :=
  let b := s.power.flashImage (!(s.power.image 0).active) 0
  let (ok, s) := s.flashWorks
  match (if ok then imageFails 0 (s.power.minSvn 0) b else some 6) with
  | some r => (.done .imageRejected [w32 r], (s.spoilStandby 0).logErr 15 .mgmt 0xFF .contained .image)
  | none => (.run .activate, s.modPower (fun p => { p with imageBuffer := b, bufferBad := false }))

/-- FW_ACTIVATE, over MGMT's flash as FW_STAGE is. -/
def bodyFwActivate : Body := fun c s => c.needs s .mgmt fun s =>
  let t := bits (c.w 0) 0 0
  if (s.power.image t).standby ≠ .staged || s.fwBusy t ≠ .none then fail .notPermitted s
  else if t = 1 then bodyActivateMgmt s else bodyActivateSeq s

def execFwActivate (src : Source) (pkt : Packet) (s : State) : Host.Outcome State Fault Refusal := runRow specFwActivate bodyFwActivate src pkt s

/-- The last sequencer resumes under the new image (steps 2 and 3 of R825); nothing else of FE changes (R73). A command that finds
the half no longer STAGED, an earlier one having activated it, ends as at stage 5; one that meets a parity error in the image buffer has
lost the image it read, and ends as where the read fails (R844). [log 153 DEDUCED] -/
def State.endActivate (s : State) (c : Cmd) : State :=
  let b := s.power.imageBuffer
  if (s.power.image 0).standby ≠ .staged then s.complete c.src c.id .notPermitted []
  else if s.power.bufferBad then (s.reloadBuffer.2.spoilStandby 0).complete c.src c.id .imageRejected [6]
  else ((s.modPower (fun p => { p with imageLoaded := b, seqFw := fwOf b 0 })).activateHalf 0).complete c.src c.id .ok [w32 (imageVersion b)]

end Sys2Proof.Machine
end

