-- ==== Sys2Proof/Machine/Graft.lean ====
section
/-!
DEFINITION. Graft pairs: forming and ending a pair, the role lease and its witness, takeover, substitution, and what a mirror
item's acknowledgement releases (ch. 18).
-/

namespace Sys2Proof.Machine
open Sys2Proof

/-! ### Members and messages -/

def State.modGraft (s : State) (f : Graft → Graft) : State := { s with graft := f s.graft }

def State.paired (s : State) : Bool := s.graft.state != .unpaired

/-- The fabric ID a witness field names; 0x1FF is the time master. -/
def State.witnessOf (s : State) (w : Nat) : Nat := if w = 511 then s.time.masterId else w

/-- Send to the witness; a HELD primary may (R616). -/
def State.toWitness (s : State) (m : RoundMsg) : State :=
  let w := s.witnessOf s.graft.witness
  if s.canSend w then s.sendMsgNow w (.message m) else s

def roleCode : Role → Nat
  | .none => 0
  | .primary => 1
  | .held => 1
  | .secondary => 2
  | .deposed => 1

def State.sendHeartbeat (s : State) : State :=
  let g := s.graft
  (s.modGraft (fun g => { g with lastHeartbeatSent := s.now })).toPartner g.partner
    (.heartbeat (roleCode g.role) g.epoch (g.role == .held) (g.role == .deposed) g.appliedSeq)

/-- A renewal of the lease, or the one that forms the pair, or, with no partner, its end. -/
def State.sendRenewal (s : State) (partner : Option Nat) : State :=
  (s.modGraft (fun g => { g with lastRenewal := s.now })).toWitness (.renewal s.graft.epoch s.now partner s.graft.forming)

def State.holdsRound (s : State) : Bool := List.any s.rounds.table (fun y => !y.2.shadow)

def State.shadows (s : State) : List Nat := List.filterMap (fun (y : Nat × Round) => if y.2.shadow then some y.1 else none) s.rounds.table

/-- A secondary scrubs its shadows, and the commands it ran for them end. -/
def State.scrubShadows (s : State) : State :=
  let s := s.setCmds (s.q.cmds.filter (fun c => c.mirrored.isNone))
  s.shadows.foldl (fun s e => s.closeRound e) s

/-! ### What an acknowledgement releases (R620, R624 to R626) -/

/-- Act on a message of round `e` from participant `o`. On a shadow the references of records name its own commands. -/
def State.roundMessage (s : State) (e o : Nat) (m : RoundMsg) : State :=
  let shadow := ((s.round? e).map (·.shadow)).getD false
  match m with
  | .result _ _ mask live => s.onResult e mask live
  | .propose _ _ mask live => s.onPropose e o mask live
  | .proposeAnswer _ _ ok => s.proposeAnswered e ok
  | .leave _ _ => s.onLeave e o
  | .abort _ _ _ => s.onLeave e o
  | .join _ _ c => s.takeContribution e o false c []
  | .bitmap _ _ c b => s.takeContribution e o true c b
  | .barrierStart _ _ t0 starter => s.joinBarrier e o t0 starter []
  | .barrierJoin _ _ t0 starter c => s.joinBarrier e o t0 starter c
  | .barrierResult _ _ joined => s.onBarrierResult e joined
  | .record _ _ ref b => s.onRecord e o ref b
  | .recordOutcome _ _ ref x => s.recordAnswered (if shadow then ref + 4096 * 2 ^ 40 else ref) x
  | .mark _ _ seg ep => s.onMark e o seg ep
  | .stateChange _ _ closed ep => s.onStateChange e o closed ep
  | .homeMap _ _ _ _ l => s.onHomeMap e o l
  | .partner _ _ (some v) => s.modRound e (fun r => { r with partners := Tab.insert r.partners o v })
  | .sumDown _ (.seal _ _) _ vals _ => s.takeSeal e vals
  | .codedKey _ _ c k => s.onCodedKey e o c k
  | _ => s

/-- The secondary has answered, or will not: what waited goes on. `st` is none where the pair is DEGRADED. -/
def State.release (s : State) (n : Nat) (w : MirrorWait) (st : Option Nat) (commit : Nat) : State :=
  match w with
  | .command src id r =>
    (match (((s.cmd? src id).map (fun (c : Cmd) => c.phase)) : Option Phase) with
     | some (.executing (.mirror _ own res)) =>
       let s := s.dropWait n
       ((match st with
         | some x => s.compareMirror src r own.code x
         | none => s)).completeNow src id own res
     | some _ => (match st with
       | some x => s.modGraft (fun g => { g with acked := Tab.insert g.acked n x })
       | none => s.dropWait n)
     | none => s.dropWait n)
  | .bundle e d =>
    let s := s.dropWait n
    (match st with
     | none => s.commitBy e d s.now
     | some x =>
       if x = Status.ok.code then (if (s.round? e).any (fun r => r.stagedBad d) then s.unmirror e else s).commitBy e d commit
       else if x = Status.late.code then s.reject e d .late 14
       else (s.unmirror e).commitBy e d s.now)
  | .message e o m => (s.dropWait n).roundMessage e o m
  | .mark k => (s.dropWait n).markAcked k s.graft.partner
  | .nothing => s.dropWait n

/-- Go on without the secondary: every wait is released, no round is mirrored (R639). -/
def State.flushWaits (s : State) : State :=
  let s := s.modGraft (fun g => { g with mirrorRounds := [] })
  List.foldl (fun s (y : Nat × MirrorWait) => s.release y.1 y.2 none s.now) s s.graft.waits

/-! ### Roles (R616, R629, R634, R639) -/

/-- The pair is DEGRADED. -/
def State.degrade (s : State) : State := (s.modGraft (fun g => { g with state := .degraded })).flushWaits

/-- This device is primary no more: its copies of the pair's rounds close in silence, their commands end REVOKED. [log 73 DEDUCED] -/
def State.depose (s : State) : State :=
  if s.graft.role = .deposed || s.graft.role = .secondary || s.graft.role = .none then s
  else
    let es := s.graft.mirrorRounds
    let s := s.modGraft (fun g => { g with role := .deposed, draining := false, mirrorRounds := [], deferred := [] })
    let waits := List.filterMap (fun (y : Nat × MirrorWait) => match y.2 with
      | .command src id _ => some (src, id)
      | _ => none) s.graft.waits
    let s := s.modGraft (fun g => { g with waits := [], acked := [] })
    let s := waits.foldl (fun s (src, id) => s.completeNow src id .revoked []) s
    es.foldl (fun s e => (s.completeWork (fun w => (w.abortStatus e .revoked).map (fun _ => (Status.revoked, [])))).closeRound e) s

/-- A takeover command ends once the role has passed (R633). -/
def State.endTakeover (s : State) (st : Status) : State :=
  let ep := s.graft.epoch.toNat
  s.completeWork (fun w => match w with
    | .takeover _ => some (st, if st = Status.ok then [ep] else [])
    | _ => none)

/-- A higher role epoch is learned (R634). -/
def State.outranked (s : State) (epoch : W16) : State :=
  let s := s.depose
  (s.modGraft (fun g => { g with epoch := epoch })).endTakeover .ok

/-- A shadow becomes this device's own round. -/
def State.adopt (s : State) (e : Nat) : State :=
  match s.round? e with
  | none => s
  | some r =>
    let old := s.selfIn r
    let refill (g : Ring) : Ring :=
      { g with base32 := s.fence (fenceKey (some r.part) g.tailFence), offered := 0, retired := 0, descs := [], staged := [] }
    let r : Round := { r with shadow := false, replaced := Tab.insert r.replaced old s.ownFid, ring := r.ring.map refill }
    let r := r.moveToken old
    let s := (s.setRound e r).changeRound e r.state
    let k := tkey r.part r.policy.trellis
    let s := if r.policy.fabric && (s.formed? k).isNone then
        let f : Formed := { list := r.participants, crc := crc32 (r.participants.flatMap (leBytes 2)) }
        s.setFormed k f
      else s
    let s := if r.policy.fabric then (r.live.filter (· != old)).foldl (fun s d =>
        s.sendMsgNow (Tab.get r.replaced d d) (.message (.substitution old s.ownFid s.graft.epoch))) s
      else s
    (s.q.cmds.filter (fun c => c.phase == .executing (.seal e))).foldl (fun s c => s.joinSum k (s.sealSum r c.src c.id)) s

/-! ### GRAFT_PAIR (R610 to R612, R644) -/

def specGraftPair : OpSpec :=
  { code := 0x0B00, callC := true, used := [0, 1],
    checks := [.mask 0 0xF01FF, .mask 1 0x1FF, .word 0 .range (fun v => bits v 19 16 > 6)] }

/-- Every GRAFT_PAIR that waits ends with a status. -/
def State.endPairing (s : State) (st : Status) (n : Nat) (res : List Nat) : State :=
  let s := s.modGraft (fun g => { g with asked := none, request := none, forming := false })
  let res' := if st = Status.ok then res else (rejectResults st n).map (·.toNat)
  s.completeWork (fun w => match w with
    | .pair _ => some (st, res')
    | _ => none)

/-- The role a device takes: the one with open rounds, else the lower fabric ID. -/
def pairRole (own other : Bool) (ownFid otherFid : Nat) : Role :=
  if own then .primary else if other then .secondary else if ownFid < otherFid then .primary else .secondary

/-- Both requests are here: a pair that its witness must still record, or a rejoining as secondary. [log 71 DEDUCED] -/
def State.matchPair (s : State) (rejoin : Option W16) : State :=
  match s.graft.asked, s.graft.request with
  | some (partner, port, witness), some (p, w, theirs) =>
    if p != partner then s
    else match rejoin with
      | some ep =>
        let s := s.modGraft (fun g => { g with
          state := .mirroring, role := .secondary, partner := partner, port := port, witness := w, epoch := ep, lastHeartbeat := s.now
          nextSeq := 0, appliedSeq := 0, waits := [], requested := false })
        s.endPairing .ok 0 [1, ep.toNat]
      | none =>
        if s.witnessOf w != s.witnessOf witness then s.endPairing .badParam 1 []
        else if s.holdsRound && theirs then s.endPairing .notPermitted 0 []
        else
          let role := pairRole s.holdsRound theirs s.ownFid partner
          let s := s.modGraft (fun g => { g with
            role := role, partner := partner, port := port, witness := witness, epoch := 1, forming := true
            nextSeq := 0, appliedSeq := 0, waits := [], requested := false })
          if role = .primary then s.sendRenewal (some partner) else s
  | _, _ => s

def bodyGraftPair : Body := fun c s =>
  let partner := bits (c.w 0) 8 0
  let port := bits (c.w 0) 19 16
  let peer := (s.port port).peerUdid.bind (fun u => (devByUdid s.topology u).bind (·.fid))
  let w := s.witnessOf (c.w 1)
  if s.paired || s.graft.asked.isSome then fail .notPermitted s
  else if s.spetar.fid.isNone || !s.time.qualified then fail .linkDown s
  else if !s.portActive port || peer != some partner then failAt .badParam 0 s
  else if w = partner || w = s.ownFid then failAt .badParam 1 s
  else
    let work : Work := .pair (s.now + 1000000000)
    let s := s.modCmd c.src c.id (fun d => { d with phase := .executing work })
    let s := s.modGraft (fun g => { g with asked := some (partner, port, c.w 1), port := port })
    let s := s.toPartner partner (.pairRequest partner (c.w 1) s.holdsRound none)
    (.run work, s.matchPair none)

def execGraftPair (src : Source) (pkt : Packet) (s : State) : Host.Outcome State Fault Refusal := runRow specGraftPair bodyGraftPair src pkt s

/-- A frame from the graft partner arrives over the graft port, the only one that carries it (R618, R619). -/
def State.fromPartner (s : State) (a : Arrival) (o : FabOut) (act : State → State) : State :=
  s.receive a o (fun s => if s.running .fab && s.paired && s.graft.port = a.port.val then act s else s)

/-- PAIR_REQUEST from the device of the header's SRC. A DEGRADED partner that records the device takes it back as secondary (R644). -/
def actPairRequest (port : Fin 16) (partner : Nat) (m : RoundMsg) (s : State) : State :=
  match m with
  | .pairRequest named witness openRounds rejoin =>
    if !s.running .fab || named ≠ s.ownFid then s
    else if s.paired then
      (if s.graft.state = .degraded && s.graft.partner = partner && s.graft.port = port.val && (s.graft.role = .primary || s.graft.role = .held) then
        let s := s.modGraft (fun g => { g with state := .mirroring, lastHeartbeat := s.now, nextSeq := 0, waits := [] })
        s.toPartner partner (.pairRequest partner s.graft.witness s.holdsRound (some s.graft.epoch))
      else s)
    else (s.modGraft (fun g => { g with request := some (partner, witness, openRounds) })).matchPair rejoin
  | _ => s

def execPairRequest (a : Arrival) (h : FabHeader) (m : RoundMsg) (s : State) : Host.Outcome State Fault Refusal :=
  s.conclude (s.receive a (.graft h m) (actPairRequest a.port h.src m))

/-- PAIR_TIMEOUT: no match within 1 s. -/
def actPairTimeout (s : State) : State :=
  if s.q.cmds.any (fun c => match c.phase with
    | .executing (.pair t) => decide (t ≤ s.now)
    | _ => false) then
    ((s.modGraft (fun g => { g with role := .none, partner := 0, epoch := 0 })).endPairing .remoteUnreachable 0 [])
  else s

def execPairTimeout (s : State) : Host.Outcome State Fault Refusal := s.conclude (actPairTimeout s)

/-! ### GRAFT_UNPAIR (R614) -/

/-- Leave the pair. -/
def State.leavePair (s : State) : State :=
  let s := s.flushWaits.scrubShadows
  s.modGraft (fun g => { witnessed := g.witnessed, unmirrored := g.unmirrored })

def specGraftUnpair : OpSpec := { code := 0x0B01, callC := true }

def bodyGraftUnpair : Body := fun _ s =>
  if !s.paired then fail .notPermitted s
  else
    let s := (s.modGraft (fun g => { g with role := .none })).sendHeartbeat
    okRes [] (s.sendRenewal none).leavePair

def execGraftUnpair (src : Source) (pkt : Packet) (s : State) : Host.Outcome State Fault Refusal :=
  runRow specGraftUnpair bodyGraftUnpair src pkt s

/-! ### Heartbeats (R618, R628, R639, R640) -/

/-- HEARTBEAT_TIMER: every 10 µs. -/
def actHeartbeatTimer (s : State) : State :=
  if s.paired && s.running .fab && decide (s.graft.lastHeartbeatSent + 10000 ≤ s.now) then s.sendHeartbeat else s

def execHeartbeatTimer (s : State) : Host.Outcome State Fault Refusal := s.conclude (actHeartbeatTimer s)

/-- Ask the witness for the role. -/
def State.requestRole (s : State) (force : Bool) : State :=
  (s.modGraft (fun g => { g with requested := true })).toWitness (.takeover s.graft.partner s.graft.epoch force)

/-- HEARTBEAT: one of an older epoch is discarded; role 0 is a partner that has left the pair. [log 71 DEDUCED] -/
def actHeartbeat (m : RoundMsg) (s : State) : State :=
  match m with
  | .heartbeat role epoch _ deposed _ =>
    if epoch.toNat < s.graft.epoch.toNat then s
    else if role = 0 then s.leavePair
    else
      let s := s.modGraft (fun g => { g with lastHeartbeat := s.now })
      let other := if s.graft.role = .secondary then 1 else 2
      if s.graft.role != .secondary && decide (s.graft.epoch.toNat < epoch.toNat) then s.outranked epoch
      else if s.graft.role = .secondary && deposed && !s.graft.requested then s.requestRole false
      else if s.graft.state = .degraded && role = other && s.graft.role != .deposed then
        s.modGraft (fun g => { g with state := .mirroring, requested := false, nextSeq := 0, appliedSeq := 0, waits := [] })
      else s
  | _ => s

def execHeartbeat (a : Arrival) (h : FabHeader) (m : RoundMsg) (s : State) : Host.Outcome State Fault Refusal :=
  s.conclude (s.fromPartner a (.graft h m) (actHeartbeat m))

/-- HEARTBEAT_SILENCE: 100 µs. -/
def actHeartbeatSilence (s : State) : State :=
  if s.graft.state != .mirroring || s.now < s.graft.lastHeartbeat + 100000 then s
  else match s.graft.role with
    | .secondary => if s.graft.requested then s else ((s.requestRole false).raisePf .graft)
    | .primary => (s.degrade.raisePf .graft)
    | .held => (s.degrade.raisePf .graft)
    | _ => s

def execHeartbeatSilence (s : State) : Host.Outcome State Fault Refusal := s.conclude (actHeartbeatSilence s)

/-! ### The lease (R615, R616) -/

/-- RENEWAL_TIMER: every 50 µs. -/
def actRenewalTimer (s : State) : State :=
  if s.paired && (s.graft.role = .primary || s.graft.role = .held) && decide (s.graft.lastRenewal + 50000 ≤ s.now) then
    (s.sendRenewal (some s.graft.partner))
  else s

def execRenewalTimer (s : State) : Host.Outcome State Fault Refusal := s.conclude (actRenewalTimer s)

/-- LEASE_LAPSE: the primary is HELD. -/
def actLeaseLapse (s : State) : State :=
  if s.paired && s.graft.role = .primary && s.graft.leaseUntil ≤ s.now then (s.modGraft (fun g => { g with role := .held })) else s

def execLeaseLapse (s : State) : Host.Outcome State Fault Refusal := s.conclude (actLeaseLapse s)

/-- The lease holds: what was held goes out. -/
def State.endHeld (s : State) : State :=
  let l := s.graft.deferred
  let s := s.modGraft (fun g => { g with role := .primary, deferred := [] })
  (l.foldl (fun s (d, why) => s.sendMsgNow d why) s).commitHeld

/-- A renewal is acknowledged or refused: the lease holds until the renewal's send time plus 150 µs; a forming pair is formed. A refusal tells a
primary of a higher epoch, or a forming pair that its witness is full. -/
def State.renewalAcked (s : State) (epoch : W16) (sentAt : Nat) (accepted : Bool) : State :=
  if s.graft.forming then
    (if !accepted then ((s.modGraft (fun g => { g with role := .none, partner := 0, epoch := 0 })).endPairing .range 1 [])
     else
      let s := s.modGraft (fun g => { g with
        state := .mirroring, leaseUntil := if g.role = .primary then sentAt + 150000 else 0, lastHeartbeat := s.now })
      (s.endPairing .ok 0 [if s.graft.role = .primary then 0 else 1, s.graft.epoch.toNat]))
  else if !s.paired || epoch.toNat < s.graft.epoch.toNat then s
  else if !accepted then (if s.graft.epoch.toNat < epoch.toNat then (s.outranked epoch) else s)
  else match s.graft.role with
    | .primary => (s.modGraft (fun g => { g with leaseUntil := max g.leaseUntil (sentAt + 150000) }))
    | .held =>
      let s := s.modGraft (fun g => { g with leaseUntil := max g.leaseUntil (sentAt + 150000) })
      if s.now < s.graft.leaseUntil then s.endHeld else s
    | _ => s

/-- RENEWAL_ACK. -/
def actRenewalAck (m : RoundMsg) (s : State) : State :=
  match m with
  | .renewalAck epoch sentAt accepted => s.renewalAcked epoch sentAt accepted
  | _ => s

def execRenewalAck (o : RoundIn) (m : RoundMsg) (s : State) : Host.Outcome State Fault Refusal := s.conclude (s.takeRound o m (actRenewalAck m))

/-! ### The witness (R615, R617, R628, R633, R636, R641) -/

def WitnessRec.of (r : WitnessRec) (x y : Nat) : Bool := (r.a == x && r.b == y) || (r.a == y && r.b == x)

def WitnessRec.has (r : WitnessRec) (x : Nat) : Bool := r.a == x || r.b == x

def State.modWitness (s : State) (x y : Nat) (f : WitnessRec → WitnessRec) : State :=
  s.modGraft (fun g => { g with witnessed := g.witnessed.map (fun r => if r.of x y then f r else r) })

def State.tell (s : State) (d : Nat) (m : RoundMsg) : State := if s.canSend d then s.sendMsgNow d (.message m) else s

/-- Grant the role to the member that asked. -/
def State.grantRole (s : State) (r : WitnessRec) (target : Nat) : State :=
  let ep := nextEpoch r.epoch
  (s.modWitness r.a r.b (fun r => { r with epoch := ep, holder := target, expiry := s.now + 150000, request := none, force := false })).tell target (.grant ep)

/-- A renewal of a pair this device records. -/
def State.renewed (s : State) (r : WitnessRec) (origin : Nat) (epoch : W16) (sentAt : Nat) : State :=
  if epoch.toNat < r.epoch.toNat then s.tell origin (.renewalAck r.epoch sentAt false)
  else if r.holdUntil.isSome then
    if r.epoch.toNat < epoch.toNat then s.modWitness r.a r.b (fun r => { r with holder := origin, epoch := epoch }) else s
  else if r.holder != origin || r.force then s
  else
    let s := s.modWitness r.a r.b (fun r => { r with expiry := s.now + 150000, request := none })
    let s := match r.request with
      | some x => s.tell x .refuse
      | none => s
    s.tell origin (.renewalAck epoch sentAt true)

/-- A renewal at the witness: a forming pair is recorded, unless 256 are; a pair unknown here makes this device its witness,
which holds for 150 µs. [log 71 DEDUCED] -/
def State.takeRenewal (s : State) (origin : Nat) (epoch : W16) (sentAt p : Nat) (forming : Bool) : State :=
  match s.graft.witnessed.find? (fun r => r.of origin p) with
  | some r => if forming then
        let s := s.modWitness origin p (fun _ => { a := origin, b := p, holder := origin, epoch := epoch, expiry := s.now + 150000 })
        ((s.tell origin (.renewalAck epoch sentAt true)).tell p (.renewalAck epoch sentAt true))
      else (s.renewed r origin epoch sentAt)
  | none =>
    if 256 ≤ s.graft.witnessed.length then
      ((s.tell origin (.renewalAck epoch sentAt false)).tell p (.renewalAck epoch sentAt false))
    else if forming then
      let r : WitnessRec := { a := origin, b := p, holder := origin, epoch := epoch, expiry := s.now + 150000 }
      let s := s.modGraft (fun g => { g with witnessed := g.witnessed ++ [r] })
      ((s.tell origin (.renewalAck epoch sentAt true)).tell p (.renewalAck epoch sentAt true))
    else
      let r : WitnessRec := { a := origin, b := p, holder := origin, epoch := epoch, expiry := 0, holdUntil := some (s.now + 150000) }
      (s.modGraft (fun g => { g with witnessed := g.witnessed ++ [r] }))

/-- RENEWAL. -/
def actRenewal (origin : Nat) (m : RoundMsg) (s : State) : State :=
  match m with
  | .renewal _ _ none _ => s.modGraft (fun g => { g with witnessed := g.witnessed.filter (fun r => !r.has origin) })
  | .renewal epoch sentAt (some p) forming => s.takeRenewal origin epoch sentAt p forming
  | _ => s

def execRenewal (o : RoundIn) (m : RoundMsg) (s : State) : Host.Outcome State Fault Refusal := s.conclude (s.takeRound o m (actRenewal o.h.src m))

/-- A takeover request: at the witness it waits for the lease to lapse; at the primary itself it starts the handover its
secondary asks for (R628, R633). -/
def State.takeRequest (s : State) (origin primary : Nat) (epoch : W16) (force : Bool) : State :=
  if primary = s.ownFid && s.paired && s.graft.partner = origin then
    (if (s.graft.role = .primary || s.graft.role = .held) && s.graft.epoch.toNat ≤ epoch.toNat then
      let s := s.modGraft (fun g => { g with draining := true })
      (if s.graft.waits.isEmpty then s.depose.sendHeartbeat else s)
    else s)
  else match s.graft.witnessed.find? (fun r => r.of origin primary) with
    | none => s
    | some r =>
      if epoch.toNat < r.epoch.toNat then s
      else if r.holdUntil.isNone && r.expiry ≤ s.now then (s.grantRole r origin)
      else (s.modWitness origin primary (fun r => { r with request := some origin, force := r.force || force }))

/-- TAKEOVER_REQUEST. -/
def actTakeoverRequest (origin : Nat) (m : RoundMsg) (s : State) : State :=
  match m with
  | .takeover primary epoch force => s.takeRequest origin primary epoch force
  | _ => s

def execTakeoverRequest (o : RoundIn) (m : RoundMsg) (s : State) : Host.Outcome State Fault Refusal :=
  s.conclude (s.takeRound o m (actTakeoverRequest o.h.src m))

/-- WITNESS_LEASE_EXPIRY: the lease lapses with a request pending. -/
def actWitnessLeaseExpiry (a : Nat) (b : Nat) (s : State) : State :=
  match s.graft.witnessed.find? (fun r => r.of a b) with
  | some r => (match r.request with
    | some x => if r.holdUntil.isNone && r.expiry ≤ s.now then (s.grantRole r x) else s
    | none => s)
  | none => s

def execWitnessLeaseExpiry (a : Nat) (b : Nat) (s : State) : Host.Outcome State Fault Refusal := s.conclude (actWitnessLeaseExpiry a b s)

/-- WITNESS_HOLD_END: the member with the highest role epoch heard is the holder. -/
def actWitnessHoldEnd (a : Nat) (b : Nat) (s : State) : State :=
  match s.graft.witnessed.find? (fun r => r.of a b) with
  | some r => if r.holdUntil.any (fun t => decide (t ≤ s.now)) then (s.modWitness a b (fun r => { r with holdUntil := none })) else s
  | none => s

def execWitnessHoldEnd (a : Nat) (b : Nat) (s : State) : Host.Outcome State Fault Refusal := s.conclude (actWitnessHoldEnd a b s)

/-- WITNESS_FAILOVER: both members turn to the time master; the primary is HELD until it has answered (R641). -/
def actWitnessFailover (target : Nat) (s : State) : State :=
  if s.paired && target = s.time.masterId then
    (s.modGraft (fun g => { g with
      witness := target, requested := false, leaseUntil := 0, role := if g.role = .primary then .held else g.role }))
  else s

def execWitnessFailover (target : Nat) (s : State) : Host.Outcome State Fault Refusal := s.conclude (actWitnessFailover target s)

/-! ### Takeover (R628 to R631, R633, R638, R640) -/

/-- The role is granted: the secondary becomes primary, DEGRADED, with each shadow as its own round; or a waiting handover ends. -/
def State.granted (s : State) (epoch : W16) : State :=
  if s.graft.role != .secondary || !s.paired || epoch.toNat ≤ s.graft.epoch.toNat then s
  else
    let es := s.shadows
    let s := s.modGraft (fun g => { g with
      state := .degraded, role := .primary, epoch := epoch, leaseUntil := s.now + 150000, lastRenewal := s.now, requested := false
      nextSeq := 0, waits := [], mirrorRounds := [] })
    (((es.foldl (fun s e => s.adopt e) s).raisePf .graft).endTakeover .ok)

/-- GRANT. -/
def actGrant (m : RoundMsg) (s : State) : State :=
  match m with
  | .grant epoch => s.granted epoch
  | _ => s

def execGrant (o : RoundIn) (m : RoundMsg) (s : State) : Host.Outcome State Fault Refusal := s.conclude (s.takeRound o m (actGrant m))

/-- REFUSE: the primary still renews; the shadows are scrubbed and the pair is DEGRADED. -/
def actRefuse (m : RoundMsg) (s : State) : State :=
  if m ≠ .refuse || s.graft.role != .secondary || !s.graft.requested then s
  else ((s.modGraft (fun g => { g with requested := false, state := .degraded })).scrubShadows)

def execRefuse (o : RoundIn) (m : RoundMsg) (s : State) : Host.Outcome State Fault Refusal := s.conclude (s.takeRound o m (actRefuse m))

/-- What participant `d` of a seal sum may miss is sent to it: to the parent the chunks this node has sent up; to a child credit, for
every chunk where it starts anew, else for what it may still send, and the results. [log 72 DEDUCED] -/
def State.resendSum (s : State) (k : Nat) (x : Sum) (d : Nat) (anew : Bool) : State :=
  if treeParent x.members x.self = some d then
    (List.range x.sentUp).foldl (fun s i =>
      let cs := (treeChildren x.members x.self).filterMap (fun c => Tab.find? (Tab.get x.children [] c) i)
      let (v, n) := foldChunks x.desc (x.desc.chunkStart i) (x.ownChunk i) cs
      s.sendTrellis k x.key d (.sumUp (s.treeOf k) x.key x.desc i v (n + Tab.get x.childClamps 0 i))) s
  else if (treeChildren x.members x.self).contains d then
    let left := 4 + x.sentUp - (Tab.get x.children [] d).length
    let s := s.sendTrellis k x.key d (.credit (s.treeOf k) x.key (if anew then x.chunks else left))
    List.foldl (fun s (y : Nat × List Nat) =>
      s.sendTrellis k x.key d (.sumDown (s.treeOf k) x.key y.1 y.2 0)) s x.result
  else s

/-- The seal sum of a round goes on under its token's epoch (R372). -/
def Formed.rekey (f : Formed) (r : Round) : Formed :=
  { f with
    sums := f.sums.map (fun x => if sealsRound r.id x.key then { x with key := .seal r.id r.tokenEpoch } else x)
    marks := f.marks.filter (fun y => !sealsRound r.id y.1)
    early := f.early.filter (fun y => !sealsRound r.id y.1) }

/-- A sealed round's sum, whole, for the children of this node. -/
def State.sealedSum (s : State) (r : Round) : Sum :=
  let x := s.sealSum r (.mgmt 0) 0
  { x with result := (List.range x.chunks).map (fun i => (i, x.ownChunk i)) }

/-- What a participant resends to a substitute: messages pending to the old ID, and its part of a seal sum in progress; where the token
moves with it, to every tree neighbour, since messages of the old epoch are discarded (R372, R630). [log 72 DEDUCED] -/
def State.resendTo (s : State) (e old new : Nat) (r : Round) : State :=
  let d := Tab.get r.replaced old old
  let q := s.dest d
  let mine (o : Outstanding) : Bool := match o.purpose with
    | .roundMsg x _ => x == e
    | _ => false
  let pend := (List.map (fun (y : Nat × Outstanding) => y.2) q.out).filter mine ++ q.unsent.filter mine
  let s := s.setDest d { q with out := Tab.filter (fun _ o => !mine o) q.out, unsent := q.unsent.filter (fun o => !mine o) }
  let r' : Round := { (r.moveToken old) with replaced := Tab.insert r.replaced old new }
  let s := s.setRound e r'
  let s := pend.foldl (fun s o => s.sendMsg new o.purpose) s
  let k := tkey r.part r.policy.trellis
  let moved := r'.tokenEpoch != r.tokenEpoch
  match s.formed? k with
  | none => s
  | some f =>
    let f := if moved then f.rekey r' else f
    let s := s.setFormed k f
    let key := SumKey.seal r'.id r'.tokenEpoch
    match f.sums.find? (fun x => x.key == key) with
    | some x =>
      let ds := if moved then (treeParent x.members x.self).toList ++ treeChildren x.members x.self else [old]
      ds.foldl (fun s d => s.resendSum k x d (d == old)) s
    | none =>
      if moved && decide (5 ≤ r'.state.rank) && !r'.state.isAborted then
        let x := s.sealedSum r'
        (treeChildren x.members x.self).foldl (fun s d => s.resendSum k x d (d == old)) s
      else s

/-- A substitution: accepted in every round that records `new` as the partner of `old`, with a higher role epoch; a round it
finds ABORTED stays so. [log 72 DEDUCED] -/
def State.substituted (s : State) (old new : Nat) (epoch : W16) : State :=
  if s.paired && old = s.ownFid && new = s.graft.partner then
    (if s.graft.epoch.toNat < epoch.toNat then (s.outranked epoch) else s)
  else
    let es := List.filterMap (fun (y : Nat × Round) =>
      let ok := match Tab.find? y.2.partners old with
        | some (p, ep) => p == new && decide (ep.toNat < epoch.toNat)
        | none => false
      if ok && y.2.participants.contains old && !y.2.state.isAborted then some y.1 else none) s.rounds.table
    (es.foldl (fun s e =>
      let s := s.modRound e (fun r => { r with partners := Tab.insert r.partners old (new, epoch) })
      match s.round? e with
      | some r => s.resendTo e old new r
      | none => s) s)

/-- SUBSTITUTION, accepted only from the device that it names as the new one. -/
def actSubstitution (origin : Nat) (m : RoundMsg) (s : State) : State :=
  match m with
  | .substitution old new epoch => if origin = new then s.substituted old new epoch else s
  | _ => s

def execSubstitution (o : RoundIn) (m : RoundMsg) (s : State) : Host.Outcome State Fault Refusal :=
  s.conclude (s.takeRound o m (actSubstitution o.h.src m))

/-- A drained primary is DEPOSED and says so (R633). -/
def State.drainedPrimary (s : State) : State :=
  if s.graft.draining && s.graft.waits.isEmpty then s.depose.sendHeartbeat else s

/-- MIRROR_ACK; one of an older role epoch is discarded (R617). -/
def actMirrorAck (m : RoundMsg) (s : State) : State :=
  match m with
  | .mirrorAck seq epoch status commit =>
    (match Tab.find? s.graft.waits seq with
     | some w => if epoch.toNat < s.graft.epoch.toNat then s else (s.release seq w (some status) commit).drainedPrimary
     | none => s)
  | _ => s

def execMirrorAck (a : Arrival) (h : FabHeader) (m : RoundMsg) (s : State) : Host.Outcome State Fault Refusal :=
  s.conclude (s.fromPartner a (.graft h m) (actMirrorAck m))

def specGraftTakeover : OpSpec := { code := 0x0B02, callC := true, used := [0], checks := [.mask 0 1] }

/-- GRAFT_TAKEOVER: the primary drains and is DEPOSED; a secondary asks it to, or with FORCE asks the witness. -/
def bodyGraftTakeover : Body := fun c s =>
  if !s.paired then fail .notPermitted s
  else
    let w : Work := .takeover (s.now + 200000)
    let s := s.modCmd c.src c.id (fun d => { d with phase := .executing w })
    match s.graft.role with
    | .secondary =>
      if bit (c.w 0) 0 then (.run w, s.requestRole true)
      else (.run w, s.tell s.graft.partner (.takeover s.graft.partner s.graft.epoch false))
    | _ => (.run w, (s.modGraft (fun g => { g with draining := true })).drainedPrimary)

def execGraftTakeover (src : Source) (pkt : Packet) (s : State) : Host.Outcome State Fault Refusal :=
  runRow specGraftTakeover bodyGraftTakeover src pkt s

/-- GRAFT_ANSWER_TIMEOUT: no answer within 200 µs. -/
def actGraftAnswerTimeout (s : State) : State :=
  if s.q.cmds.any (fun c => match c.phase with
    | .executing (.takeover t) => decide (t ≤ s.now)
    | _ => false) then (s.endTakeover .remoteUnreachable)
  else s

def execGraftAnswerTimeout (s : State) : Host.Outcome State Fault Refusal := s.conclude (actGraftAnswerTimeout s)

end Sys2Proof.Machine
end

