-- ==== Sys2Proof/Machine/Islands.lean ====
section
/-!
DEFINITION. Resets of single islands and the course back to RUN, Plot gating, Shears, and faults of crossings, the epoch file and
the Kelri views (ch. 2, R113, R225 to R227, R291, R326, R464, R470, R559, R635, R774, R801, R831).
-/

namespace Sys2Proof.Machine
open Sys2Proof

/-! ### Views when an island enters or leaves RESET_FAILED (R111) -/

def inPfView : Island → Bool
  | .memc _ => false
  | _ => true

def inVfView : Island → Bool
  | .fe => true
  | .rng => true
  | .hif => true
  | .time => true
  | _ => false

/-- The views that hold island `d` are updated, and the Kelri update is signalled (R111, Table 4.7). [log 136 DEDUCED] -/
def State.stepViews (s : State) (d : Island) : State :=
  ({ s with kelri :=
      { pf := if inPfView d then s.kelri.pf.step else s.kelri.pf
        vf := if inVfView d then Tab.map (fun _ (v : KelriView) => v.step) s.kelri.vf else s.kelri.vf } }).pfEvent .kelri

/-! ### What waits for an island (R75, R76) -/

/-- Handed over to `d`, and not answered: the command waits for the slot in which its effect begins again. -/
def handedTo (d : Island) (c : Cmd) : Bool := c.phase == .ready && c.held.any (fun y => y.1 == d)

/-- Requests held for an island, or handed over and not answered, end with TARGET_RESET (R75). -/
def State.endHeldFor (s : State) (d : Island) : State :=
  (s.q.cmds.filter (fun c => heldFor d c || handedTo d c)).foldl (fun s c => s.complete c.src c.id .targetReset []) s

/-! ### What a reset of an island does to its engine -/

/-- A SOW island's reset: the round whose strip it holds aborts with REVOKED (R291). -/
def State.sowReset (s : State) (k : Nat) : State :=
  match (s.bed k).op with
  | none => s
  | some o => (s.abortRound o.entry .revoked true).dropStrip k

/-- MGMT: messages in reassembly, unsent responses, kept records, dynamic address and endpoint ID go (R801, R779). [log 99 DEDUCED] -/
def Mgmt.reset (m : Mgmt) : Mgmt :=
  { m with firmware := false, wasI3c := m.i3c, i3c := false, dynAddr := 0, ibiEnabled := false, eid := 0, reassembly := [], responses := [],
           tickets := [], ibiAt := none, activateAt := none, update := {} }

/-- A Type 5 update ends with the firmware that runs it; STANDBY stays as it stands. -/
def State.dropUpdates (s : State) : State :=
  let drop (b : FwBusy) : FwBusy := if b = .update then .none else b
  { s with power := { s.power with busySeq := drop s.power.busySeq, busyMgmt := drop s.power.busyMgmt } }

/-- A command that has work under way in MGMT's flash. -/
def Phase.inFlash : Phase → Bool
  | .executing (.stage _ _) => true
  | .executing .activate => true
  | _ => false

/-- FW_STAGE and FW_ACTIVATE that MGMT has accepted and not answered end with TARGET_RESET (R75); STANDBY stays as it stands. -/
def State.endFlashWork (s : State) : State :=
  let idle (b : FwBusy) : FwBusy := if b = .stage then .none else b
  let s := { s with power := { s.power with busySeq := idle s.power.busySeq, busyMgmt := idle s.power.busyMgmt } }
  (s.q.cmds.filter (fun c => c.phase.inFlash)).foldl (fun s c => s.complete c.src c.id .targetReset []) s

def State.engineReset (s : State) : Island → State
  | .plot k => (s.returnTile k.val).releasePlot k.val
  | .sow k => s.sowReset k.val
  | .oe e => (((oePorts e.val).foldl (fun s n => s.portTo n .settling) s).dropHeld (.oe e)).setOe e.val {}
  | .agr => s.agrReset
  | .dig => s.digReset
  | .rng => (s.endFills .targetReset).rngReset
  | .mgmt => s.endFlashWork.dropUpdates.modMgmt Mgmt.reset
  | _ => s

/-- A reset nothing holds is asserted on an island: its epoch moves on, what it held ends, and the 1 ms of R91 runs. One that
meets RESET, or a GATED Plot, extends it (R66, R75, R78, R91). -/
def State.resetIsland (s : State) (d : Island) : State :=
  let r := s.island d
  match r.state with
  | .reset => if r.releasedAt.isSome then s.setIsland d { r with releasedAt := some s.now } else s
  | .gated => s
  | st =>
    let s := ((s.endHeldFor d).engineReset d)
    let s := (s.setIsland d { s.island d with state := .reset, epoch := nextEpoch r.epoch, releasedAt := some s.now }).pfEvent .island
    if st = .resetFailed then s.stepViews d else s

/-! ### ISLAND_RESET (R58) -/

def specIslandReset : OpSpec := { code := 0x0904, callC := true, callM := true, used := [0], checks := [.mask 0 0xFF, .word 0 .badParam (fun v => (islandOfId v).isNone)] }

def isMgmtSrc : Source → Bool
  | .mgmt _ => true
  | _ => false

/-- ISLAND_RESET: while the main side is in reset, one that names a main-side island ends with TARGET_RESET, whether Table 2.2 marks the
island or not (R192); else one that names no target with NOT_PERMITTED (R58). [log 94 DEDUCED] -/
def bodyIslandReset : Body := fun c s =>
  match islandOfId (c.w 0) with
  | none => (.done .badParam [0], s)
  | some d =>
    if isMain d && s.power.mainHeld then fail .targetReset s
    else if !isTarget d || (d == .mgmt && isMgmtSrc c.src) then fail .notPermitted s
    else
      let s := s.resetIsland d
      okRes [(s.island d).epoch.toNat] s

def execIslandReset (src : Source) (pkt : Packet) (s : State) : Host.Outcome State Fault Refusal :=
  runRow specIslandReset bodyIslandReset src pkt s

/-! ### Reaching RUN, and not (R76, R91, R326, R470, R559, R774, R801) -/

/-- What an engine starts with. -/
def State.engineStart (s : State) (kat : Bool) : Island → State
  | .plot k => s.modPlot k.val (fun x => { x with disabled := false, uncorrectable := 0, stall := 0, idleSince := s.now })
  | .sow k =>
    let s := s.setBed k.val { s.bed k.val with op := none, uncorrectable := 0, disabled := !kat, katFail := !kat }
    if kat then s else s.logErr 5 (.sow k) 0xFF .contained .katFail
  | .oe e => ({ s with power := { s.power with lasersOff := false } }).oeFresh e.val
  | .rng => s.rngRun kat
  | .hif => { s with hif := { s.hif with configReady := true } }
  | .mgmt =>
    let s := if s.mgmt.wasI3c then (s.mgmtSend .hotJoin).modMgmt (fun m => { m with wasI3c := false }) else s
    s.latchAlert .restarted
  | _ => s

/-- An island whose reset nothing holds, or a Plot that wakes. -/
def IslandRec.rising (r : IslandRec) : Bool :=
  r.releasedAt.isSome && (r.state == .reset || r.state == .waking)

/-- ISLAND_RUN; `kat` is whether its known-answer tests pass. [log 125 DEDUCED] -/
def actIslandRun (d : Island) (kat : Bool) (s : State) : State :=
  let r := s.island d
  if !r.rising then s
  else ((((s.setIsland d { r with state := .run, releasedAt := none }).engineStart kat d).handOver d).pfEvent .island)

def execIslandRun (d : Island) (kat : Bool) (s : State) : Host.Outcome State Fault Refusal := s.conclude (actIslandRun d kat s)

/-- 1 ms has passed since `t`; fabric time does not tell while TIME is not in RUN. [log 103 DEDUCED] -/
def State.msSince (s : State) (t : Nat) : Bool := !s.running .time || decide (t + 1000000 ≤ s.now)

/-- RESET_FAILED: 1 ms after its reset stopped being held, an island is not in RUN; what its crossings hold ends. -/
def actResetFailed (d : Island) (s : State) : State :=
  let r := s.island d
  if r.rising && r.releasedAt.any s.msSince then
    let s := s.setIsland d { r with state := .resetFailed, releasedAt := none }
    let s := (((s.endHeldFor d).dropHeld d).logErr 14 d 0xFF .island .resetFailed).raisePf .island
    (s.stepViews d).checkReach
  else s

def execResetFailed (d : Island) (s : State) : Host.Outcome State Fault Refusal := s.conclude (actResetFailed d s)

/-! ### Plot gating (R70 to R72, R79, R831) -/

/-- A Plot is gated once it has held no allocation and no tile for CP_PWR_GATE_IDLE µs. -/
def actPlotGate (k : Fin 128) (s : State) : State :=
  let x := s.plotOf k.val
  let d := Island.plot k
  let idle := decide (x.idleSince + 1000 * s.power.gateIdle ≤ s.now)
  if s.running d && s.running .fe && s.power.gateIdle ≠ 0 && x.claimed.isNone && x.alloc.isNone && idle then
    let s := s.modPlot k.val Plot.scrubbed
    ((s.setIsland d { s.island d with state := .gated, epoch := nextEpoch (s.island d).epoch }).pfEvent .island)
  else s

def execPlotGate (k : Fin 128) (s : State) : Host.Outcome State Fault Refusal := s.conclude (actPlotGate k s)

/-- A request waits in the crossing into the Plot (R72). -/
def State.wakeAsked (s : State) (k : Fin 128) : Bool := !(s.crossingInto (.plot k)).isEmpty

/-- FE wakes the lowest gated Plot while some partition has a claimable tile and no free powered Plot that may claim it. -/
def State.wakeDue (s : State) (k : Nat) : Bool :=
  let lower := (List.range k).any (fun j => (s.island (plotIsland j)).state == .gated)
  let served (p : Fin 64) : Bool := (List.range 128).any (fun j => s.plotFree j && s.plotServes j == some p)
  !lower && List.any s.part.parts (fun (y : Nat × Partition) =>
    s.canClaim (Fin.ofNat 64 y.1) && !served (Fin.ofNat 64 y.1))

def actPlotWake (k : Fin 128) (s : State) : State :=
  let d := Island.plot k
  if (s.island d).state = .gated && s.running .fe && (s.wakeDue k.val || s.wakeAsked k) then
    ((s.setIsland d { s.island d with state := .waking, releasedAt := some s.now }).pfEvent .island)
  else s

def execPlotWake (k : Fin 128) (s : State) : Host.Outcome State Fault Refusal := s.conclude (actPlotWake k s)

/-! ### Shears (R225 to R227, Table 6.4) -/

/-- Whether Table 5.16 has the index. -/
def shearsIndex (cls i : Nat) : Bool :=
  match cls with
  | 0 => decide (i < 65536)
  | 1 => decide (i < 128)
  | 2 => decide (i < 32)
  | 3 => decide (i < 32)
  | 4 => decide (i < 262144 + 4096)
  | 5 => decide (i < 16)
  | 6 => decide (i < 16)
  | 7 => decide (i < 1024)
  | _ => decide (i = 0)

/-- The agent whose source a command has. -/
def agentSrc : Agent → Option Source
  | .queue q => some (queueSrc q)
  | .task _ => none

/-- The host reads of a HOST_PULL are abandoned. -/
def State.abandonPulls (s : State) (src : Source) (id : Nat) : State :=
  let mark (_ : Nat) (h : HostRead) : HostRead :=
    match h.purpose with
    | .pull src' id' _ => if src' == src && id' == id then { h with abandoned := true } else h
    | _ => h
  { s with hif := { s.hif with reads := Tab.map mark s.hif.reads } }

/-- A request that serves a command's own effect. -/
def Cmd.asks (c : Cmd) (o : Outstanding) : Bool :=
  match o.purpose with
  | .data src id => src == c.src && id == c.id
  | .read src id _ _ _ => src == c.src && id == c.id
  | .probe src id => src == c.src && id == c.id
  | .gate src id => src == c.src && id == c.id
  | _ => false

/-- A packet that waits to be sent carries an outstanding request that satisfies `p`. -/
def State.carries (s : State) (p : Outstanding → Bool) : FabOut → Bool
  | .packet _ h _ => s.spetar.fid == some h.src && (Tab.find? (s.dest h.dst).out h.psn).any (fun o => o.header.type == h.type && p o)
  | _ => false

/-- The frames of those requests leave the ports' queues and FAB. -/
def State.dropQueued (s : State) (p : Outstanding → Bool) : State :=
  let keep (o : FabOut) : Bool := !s.carries p o
  { s with spetar := { s.spetar with
      ports := Tab.map (fun _ (r : Port) => { r with queue := r.queue.filter keep }) s.spetar.ports
      egress := Tab.map (fun _ (l : List (Nat × FabOut)) => l.filter (fun y => keep y.2)) s.spetar.egress } }

/-- A command at stage 5 that ends with `why` before its time: what it has under way in the engines and the fabric stops, and its peers in a
reduce learn why (R92, R188, R225, R523). -/
def State.stopWork (s : State) (c : Cmd) (why : Status) : State :=
  let s := (s.dropQueued c.asks).dropRequests c.asks
  match c.phase with
  | .executing (.job j) => s.withdraw j why
  | .executing (.coded e _) => s.dropCodedJobs e
  | .executing (.hostPull _ _ _ _ _ _) => s.abandonPulls c.src c.id
  | .executing (.trellis id _) =>
    (match srcPart c.src with
     | some p =>
       let k := tkey p id
       (match (s.formed? k).bind (fun f => f.sums.find? (fun x => x.src == c.src && x.cmd == c.id)) with
        | some x => s.failSum k x.key why none
        | none => s)
     | none => s)
  | .executing (.releaseWait _) =>
    { s with rounds := { s.rounds with gateQueue := s.rounds.gateQueue.filter (fun w => !(w.1 == c.src && w.2 == c.id)) } }
  | .executing (.releaseSlot k) =>
    let e? := (s.gate? k).map (fun (g : GateSlot) => g.entry)
    let s := (s.freeSlot k).decideHeld
    (match e? with
     | some e => s.closeIfReleased e
     | none => s)
  | .executing (.combine e n) => s.returnStore e n
  | .executing (.stage t _) => s.setBusy t .none
  | _ => s

/-- A command of a Plot job whose other tiles still run ends with the last of them (R464). -/
def State.tilesRun (s : State) (c : Cmd) : Bool :=
  match c.phase with
  | .executing (.job j) => (s.job? j).isSome
  | _ => false

/-- A command at stage 5 ends with `why` before its time. -/
def State.endWork (s : State) (c : Cmd) (why : Status) : State :=
  let s := ((s.stopWork c why).dropWeights c.src c.id).dropContexts c.src c.id
  if s.tilesRun c then s else s.completeOpen c.src c.id why []

/-- End a command at stage 5 with REVOKED: one whose remote signal is unanswered is still there (R159, R225). -/
def State.revokeCmd (s : State) (c : Cmd) : State :=
  match s.cmd? c.src c.id with
  | none => s
  | some d => match d.phase with
    | .executing _ => s.endWork d .revoked
    | .ready => if d.held.isSome then s.complete c.src c.id .revoked [] else s
    | .signalling st res =>
      if (BodyOut.done st res).reached && st != .skipped && st != .badOpcode then
        (s.dropRequests (fun o => match o.purpose with
          | .headerSignal src id => src == c.src && id == c.id
          | _ => false)).finish c.src c.id .revoked []
      else s
    | _ => s

/-- The leases an agent holds. -/
def State.leasesOf (s : State) (a : Agent) : List Nat :=
  List.filterMap (fun (y : Nat × Lease) => match y.2.holder with
    | .agent b _ => if b = a then some y.1 else none
    | _ => none) s.q.leases

/-- A lease that its agent lost: an owned fence is free and keeps its value, a seal token's round aborts with REVOKED; engine
contexts have gone with their commands. -/
def State.losesLease (s : State) (a : Agent) (key : Nat) : State :=
  let cls := key / 2 ^ 20
  let i := key % 2 ^ 20
  let s := { s with q := { s.q with leases := Tab.erase s.q.leases key } }
  if cls = 4 then
    match a with
    | .task t => s.setTask t { s.taskOf t with lost := insertNat (i % 4096) (s.taskOf t).lost }
    | _ => s
  else if cls = 7 then s.abortRound i .revoked true
  else s

/-- Shears resets an agent: its commands at stage 5 end with REVOKED, its epoch moves on and every lease it held is void. -/
def State.resetAgent (s : State) (a : Agent) : State :=
  let ks := s.leasesOf a
  let s := s.bumpAgent a
  let s := match agentSrc a with
    | some src => (s.cmdsOf src).foldl State.revokeCmd s
    | none => s
  ks.foldl (fun s k => s.losesLease a k) s

/-- What the lease entry of a holder shows, and its current epoch (R227). -/
def State.holderShown (s : State) : Holder → Nat × W16
  | .island d _ => (islandId d, (s.island d).epoch)
  | .agent a _ => (0xA8, s.agentEpoch a)
  | .device e => (0xFF, e)

/-- The lease that a class and index name. The graft role is held while this device is the primary (R635). -/
def State.leaseNamed (s : State) (cls i : Nat) : Option Holder :=
  if cls = 8 then (if s.graft.role = .primary || s.graft.role = .held then some (.device s.graft.epoch) else none)
  else (s.lease? cls i).map (·.holder)

/-- Steps 2 to 4 of R225. [log 94 DEDUCED] -/
def State.revoke (s : State) (cls i : Nat) (h : Holder) : State :=
  match h with
  | .device _ => s.depose
  | .agent a _ => s.resetAgent a
  | .island d _ =>
    let s := if cls = 0 then s.revokeTile i else if cls = 1 then s.revokePlot i else s
    s.resetIsland d

def specShears : OpSpec :=
  { code := 0x0903, callC := true, callM := true, used := [0, 1, 2],
    checks := [.mask 0 0xFF, .mask 2 0xFFFF, .word 0 .badParam (fun v => v > 8),
      { words := [0, 1], name := 1, status := .badParam, fails := fun w => w 0 ≤ 8 && !shearsIndex (w 0) (w 1) }] }

/-- Log 94 DEDUCED. -/
def bodyShears : Body := fun c s =>
  if s.power.mainHeld then fail .targetReset s
  else match s.leaseNamed (c.w 0) (c.w 1) with
    | none => okRes [0, 0, 0] s
    | some h =>
      let (who, e) := s.holderShown h
      if c.w 2 ≠ 0 && c.w 2 ≠ e.toNat then okRes [0, who, e.toNat] s
      else
        let s := s.revoke (c.w 0) (c.w 1) h
        okRes [1, who, (s.holderShown h).2.toNat] s

def execShears (src : Source) (pkt : Packet) (s : State) : Host.Outcome State Fault Refusal := runRow specShears bodyShears src pkt s

/-! ### Parity and stale replies (R77, R93, R197) -/

/-- EPOCH_PARITY: the entry moves on and its island is reset with the reach Table 2.2 allows; the error is recorded first, as
FATAL where that takes more than the island (R93, R847, R865). [log 95 DEDUCED] -/
def actEpochParity (d : Island) (s : State) : State :=
  let extends_ := (s.island d).state == .reset || (s.island d).state == .gated
  if isTarget d then
    let s := (s.logErr 14 d 0xFF .island .epochParity).raisePf .island
    let s := if extends_ then s.setIsland d { s.island d with epoch := nextEpoch (s.island d).epoch } else s
    (s.resetIsland d)
  else
    let s := s.logErr 14 d 0xFF .fatal .epochParity
    let s := if extends_ then s.setIsland d { s.island d with epoch := nextEpoch (s.island d).epoch } else s
    let s := if isMain d then s.warmReset.releaseMain else s.auxReset
    { s with power := { s.power with fatalLog := some 14 } }

def execEpochParity (d : Island) (s : State) : Host.Outcome State Fault Refusal := s.conclude (actEpochParity d s)

/-- STALE_REPLY: a reply whose island epoch, or whose agent's epoch, is not the current one is discarded and counted. -/
def actStaleReply (d : Island) (epoch : W16) (agent : Option (QueueId × W16)) (s : State) : State :=
  let r := s.island d
  if epoch ≠ r.epoch then (s.setIsland d { r with stale := satAdd64 r.stale 1 })
  else match agent with
    | some (q, e) =>
      if e ≠ (s.queue (queueSrc q)).epoch then
        { s with q := { s.q with stale := Tab.set s.q.stale 0 q.key (satAdd64 (Tab.get s.q.stale 0 q.key) 1) } }
      else s
    | none => s

def execStaleReply (d : Island) (epoch : W16) (agent : Option (QueueId × W16)) (s : State) : Host.Outcome State Fault Refusal :=
  s.conclude (actStaleReply d epoch agent s)

/-! ### Kelri storage (R113, R147) -/

def State.viewOf (s : State) : Fn → KelriView
  | .pf => s.kelri.pf
  | .vf p => Tab.get s.kelri.vf {} p.val

def State.setViewOf (s : State) (f : Fn) (v : KelriView) : State :=
  match f with
  | .pf => { s with kelri := { s.kelri with pf := v } }
  | .vf p => s.setView p v

/-- An offset of BAR 0 that lies in the function's view (R96). -/
def inView : Fn → Nat → Bool
  | .pf, o => decide (o < 0x10000)
  | .vf _, o => decide (o < 0x1000)

/-- The rebuild of a VALID view begins with GENERATION odd; one in progress goes on (R113). -/
def State.beginRebuild (s : State) (f : Fn) : State :=
  let v := s.viewOf f
  if !v.valid || v.rebuildAt.isSome then s
  else (s.setViewOf f { v with generation := v.generation + 1, rebuildAt := some s.now }).raisePf .kelri

/-- It ends with the next even value, and the view's storage is good again. -/
def State.endRebuild (s : State) (f : Fn) : State :=
  let v := s.viewOf f
  let s := s.setViewOf f { v with generation := v.generation + 1, rebuildAt := none }
  { s with reg := { s.reg with bad := s.reg.bad.filter (fun b => b.fn != fnNum f || b.bar != 0 || !inView f b.word) } }

/-- KELRI_REBUILD: a read that meets an uncorrectable error of a view's storage is answered poisoned and recorded, and the
rebuild begins; the second event of the view ends it. [log 95 DEDUCED] -/
def actKelriRebuild (f : Fn) (s : State) : State :=
  let v := s.viewOf f
  if !v.valid then s
  else match v.rebuildAt with
    | some _ => s.endRebuild f
    | none => ((s.beginRebuild f).logErr 1 .hif 0xFF .contained .sramUce).toHost (.readReply f 0 true)

def execKelriRebuild (f : Fn) (s : State) : Host.Outcome State Fault Refusal := s.conclude (actKelriRebuild f s)

end Sys2Proof.Machine
end

