-- ==== Sys2Proof/Machine/Jtag.lean ====
section
/-!
DEFINITION. The public JTAG instructions and the TAP reset (R918, R919, R928, Table 28.10).
-/

namespace Sys2Proof.Machine
open Sys2Proof

def State.modTap (s : State) (f : Tap → Tap) : State := s.modPower (fun p => { p with tap := f p.tap })

/-- The ID code: version 1, part 0xA512, manufacturer 0x273. -/
def idcodeValue : Nat := 0x1A5124E7

/-- BYPASS is selected: the lands have their functional drivers, and the one-bit bypass register captures 0. -/
def Tap.bypass (t : Tap) : Tap := { t with instr := .bypass, driven := false, floating := false, shifted := 0 }

/-- An instruction that takes the lands acts only while PERST_N is asserted, and as BYPASS otherwise. -/
def State.landInstr (s : State) (f : Tap → Tap) : State := s.modTap (fun t => if s.power.perst then f t else t.bypass)

/-- The lands are driven from the boundary register. -/
def Tap.drive (i : JtagInstr) (t : Tap) : Tap := { t with instr := i, driven := true, floating := false, shifted := 0 }

def actExtest (s : State) : State := (s.landInstr (Tap.drive .extest))

def execExtest (s : State) : Host.Outcome State Fault Refusal := s.conclude (actExtest s)

def actClamp (s : State) : State := (s.landInstr (Tap.drive .clamp))

def execClamp (s : State) : Host.Outcome State Fault Refusal := s.conclude (actClamp s)

def actHighz (s : State) : State :=
  (s.landInstr (fun t => { t with instr := .highz, driven := false, floating := true, shifted := 0 }))

def execHighz (s : State) : Host.Outcome State Fault Refusal := s.conclude (actHighz s)

def actIdcode (s : State) : State :=
  (s.modTap (fun t => { t with instr := .idcode, driven := false, floating := false, shifted := idcodeValue }))

def execIdcode (s : State) : Host.Outcome State Fault Refusal := s.conclude (actIdcode s)

def actBypass (s : State) : State := (s.modTap Tap.bypass)

def execBypass (s : State) : Host.Outcome State Fault Refusal := s.conclude (actBypass s)

/-- The boundary register as a number, its first cell least significant. -/
def boundaryNat (l : List Bool) : Nat := l.foldr (fun b n => b2n b + 2 * n) 0

/-- SAMPLE/PRELOAD, at any time: the lands are captured and shifted out while new values are shifted in. -/
def actSamplePreload (lands shift : List Bool) (s : State) : State :=
  (s.modTap (fun t => { t with instr := .samplePreload, driven := false, floating := false, boundary := shift, shifted := boundaryNat lands }))

def execSamplePreload (lands shift : List Bool) (s : State) : Host.Outcome State Fault Refusal := s.conclude (actSamplePreload lands shift s)

/-- A TAP reset touches the TAP alone: IDCODE is selected and the lands are released. [log 124 DEDUCED] -/
def actTapReset (s : State) : State :=
  (s.modTap (fun t => { t with instr := .idcode, driven := false, floating := false }))

def execTapReset (s : State) : Host.Outcome State Fault Refusal := s.conclude (actTapReset s)

/-- PERST_N is released while an instruction holds the lands: BYPASS is selected at once (R928). [log 124 DEDUCED] -/
def Tap.release (t : Tap) : Tap := if t.driven || t.floating then t.bypass else t

end Sys2Proof.Machine
end

