-- ==== Sys2Proof/Machine/Power.lean ====
section
/-!
DEFINITION. Power, reset and boot events: the reset lands, the boots, thermal and power limits, operating points (R806 to R846),
and the host link's own events (R127 to R130, R142, R144, R148 to R151).
-/

namespace Sys2Proof.Machine
open Sys2Proof

def msNs : Nat := 1000000

/-! ### The lands (R808, R812 to R814) -/

/-- PERST_N is asserted. -/
def actMainSideWarmReset (s : State) : State :=
  (s.modPower (fun p => { p with perst := true })).warmReset

def execMainSideWarmReset (s : State) : Host.Outcome State Fault Refusal := s.conclude (actMainSideWarmReset s)

/-- PERST_N is released. [log 103 DEDUCED] -/
def actMainSideBoot (s : State) : State :=
  ((s.modTap Tap.release).modPower (fun p => { p with perst := false })).releaseMain

def execMainSideBoot (s : State) : Host.Outcome State Fault Refusal := s.conclude (actMainSideBoot s)

/-- PWRGD_MAIN falls: a warm reset, every laser off; it ends a thermal trip's hold (R812, R834). -/
def actPwrgdMainFall (s : State) : State :=
  ((s.modPower (fun p => { p with pwrgdMain := false, thermTrip := false, lasersOff := true })).warmReset.sampleState 11)

def execPwrgdMainFall (s : State) : Host.Outcome State Fault Refusal := s.conclude (actPwrgdMainFall s)

/-- PWRGD_MAIN rises. -/
def actPwrgdMainRise (s : State) : State :=
  ((s.modPower (fun p => { p with pwrgdMain := true, lasersOff := false })).releaseMain.sampleState 11)

def execPwrgdMainRise (s : State) : Host.Outcome State Fault Refusal := s.conclude (actPwrgdMainRise s)

/-- An edge of PWRGD_AUX: a cold reset (R813, Table 24.4). -/
def actColdReset (rising : Bool) (s : State) : State :=
  (s.coldReset.modPower (fun p => { p with pwrgdAux := rising }))

def execColdReset (rising : Bool) (s : State) : Host.Outcome State Fault Refusal := s.conclude (actColdReset rising s)

/-- AUX_RST_N goes low while PWRGD_AUX is high. -/
def actAuxReset (s : State) : State := (if s.power.pwrgdAux then s.auxReset else s)

def execAuxReset (s : State) : Host.Outcome State Fault Refusal := s.conclude (actAuxReset s)

/-! ### AUX boot (R94, R778, R809) -/

/-- An AUX island enters RUN; one that does not reach it stays in RESET, and the 1 ms of R91 runs. [log 103 DEDUCED] -/
def State.runAux (s : State) (d : Island) : State :=
  s.setIsland d { s.island d with state := if s.isl.stuck.contains (islandId d) then .reset else .run, releasedAt := some s.now }

/-- AUX_RST_N is released: the straps are sampled, fabric time starts at 0, TIME, MGMT and SHED enter RUN, and a main side that
nothing holds starts (R94). -/
def actAuxBoot (strap1 strap0 : Fin 3) (s : State) : State :=
  if !s.power.pwrgdAux || !s.power.auxRst then s
  else
    let s := s.modPower (fun p => { p with auxRst := false })
    let s := { s with time := { out := s.time.out, adrift := s.time.adrift } }
    let s := auxIslands.foldl State.runAux s
    let code := 3 * strap1.val + strap0.val
    let s := (s.modMgmt (fun m => { m with strap := code, staticAddr := 0x40 + code })).latchAlert .restarted
    s.releaseMain

def execAuxBoot (strap1 strap0 : Fin 3) (s : State) : Host.Outcome State Fault Refusal := s.conclude (actAuxBoot strap1 strap0 s)

/-- The management firmware runs; at an AUX boot the sequencer image is verified and held too, and a main side already released
then boots from it (R810, R842). -/
def State.auxComplete (s : State) : State :=
  if s.power.auxBooted then s
  else
    match s.bootImage 0 false with
    | (none, s) =>
      (s.modPower (fun p => { p with auxBooted := true, imageBuffer := [], bufferBad := false })).logErr 15 .mgmt 0xFF .contained .image
    | (some b, s) =>
      let s := s.modPower (fun p => { p with auxBooted := true, imageBuffer := b, bufferBad := false })
      if s.power.booting then s.bootSequencer else s

/-- Log 99 DEDUCED. -/
def actAuxBootComplete (s : State) : State :=
  if !s.running .mgmt || s.mgmt.firmware then s else (s.bootMgmt.auxComplete.sampleState 11)

def execAuxBootComplete (s : State) : Host.Outcome State Fault Refusal := s.conclude (actAuxBootComplete s)

/-- The main-side boot ends: the PF view is VALID with GENERATION 0, the sequencer image has reached readiness, and a FATAL error
that caused the reset is signalled (R115, R821, R847). [log 102 DEDUCED] -/
def actKelriValid (s : State) : State :=
  let up := s.power.booting && s.power.auxBooted && !s.power.imageLoaded.isEmpty && s.running .fe && s.running .hif
  if !up || s.kelri.pf.valid then s
  else
    let s := if s.part.badChunks.isEmpty then s else (s.reserveStaging s.rounds.stagingGiB).getD s
    let s := { s with kelri := { s.kelri with pf := { valid := true, fw := s.power.seqFw.version, debug := s.shed.debug } } }
    let s := s.modPower (fun p => { p with booting := false })
    let s := s.imageReady 0 s.power.imageLoaded
    let s := match s.power.fatalLog with
      | some n => (s.modPower (fun p => { p with fatalLog := none })).raisePf (.errlog n)
      | none => s
    (s.sampleState 11 |>.sampleState 13)

def execKelriValid (s : State) : Host.Outcome State Fault Refusal := s.conclude (actKelriValid s)

/-! ### Operating points (R827 to R830, R845) -/

/-- Table 24.9: the minimum VDD_ARR of an operating point, in mV. -/
def opMinMv : Nat → Nat
  | 0 => 550
  | 1 => 580
  | 2 => 620
  | 3 => 660
  | _ => 710

/-- Plot clock of an operating point, in MHz (Table 24.9). -/
def opMhz : Nat → Nat
  | 0 => 300
  | 1 => 400
  | 2 => 500
  | 3 => 625
  | _ => 700

/-- The lowest of the request and the two limits. -/
def Power.opWanted (p : Power) : Nat := min (min p.opReq p.thermalLimit) (min p.powerLimit 4)

/-- The highest operating point whose minimum lies at or below a measured voltage. -/
def opOfMv (mv : Nat) : Nat := ((List.range 5).filter (fun n => opMinMv n ≤ mv)).foldl max 0

/-- Since when the measured voltage has stayed at or above each operating point's minimum. [log 104 DEDUCED] -/
def Power.heldSince (p : Power) (at_ : Nat) : Tab Nat :=
  ((List.range 5).filter (fun n => opMinMv n ≤ p.arrMeas)).map (fun n => (n, Tab.get p.arrOk at_ n))

/-- The operating point follows its four bounds: down at once, which ends a halving; up after 10 µs of voltage; the required voltage
is that of the lowest of the first three bounds. `at_` is the time now in ns. [log 104 DEDUCED] -/
def Power.follow (p : Power) (at_ : Nat) : Power :=
  let want := p.opWanted
  let p := { p with arrVreq := opMinMv want, arrOk := p.heldSince at_ }
  let target := min want (opOfMv p.arrMeas)
  if target < p.op then { p with op := target, halved := false }
  else if p.op < target && Tab.get p.arrOk at_ target + 10000 ≤ at_ then { p with op := target }
  else p

/-- A Plot that works on a tile keeps its operating point to the tile's end. -/
def Plot.keepOp (x : Plot) (op : Nat) : Plot := if x.claimed.isSome && x.opHeld.isNone then { x with opHeld := some op } else x

/-- The operating point a Plot runs at: a change takes effect at its next tile boundary (R60). -/
def State.plotOp (s : State) (k : Nat) : Nat := (s.plotOf k).opHeld.getD s.power.op

/-- The operating point follows its bounds after `f`. A change reaches each Plot at its next tile boundary, and nothing else of the Plot
changes (R60). -/
def State.followOp (s : State) (f : Power → Power) : State :=
  let p := (f s.power).follow s.now
  let plots := if p.op = s.power.op then s.plot.plots else Tab.map (fun _ (x : Plot) => x.keepOp s.power.op) s.plot.plots
  { s with power := p, plot := { s.plot with plots := plots } }

/-- VDD_ARR is measured and the operating point follows. [log 104 DEDUCED] -/
def actOpChange (mv : Nat) (s : State) : State :=
  if s.power.mainHeld then s else s.followOp (fun p => { p with arrMeas := mv })

def execOpChange (mv : Nat) (s : State) : Host.Outcome State Fault Refusal := s.conclude (actOpChange mv s)

/-- VDD_ARR has stayed below the minimum of the operating point in force for 100 ns. [log 104 DEDUCED] -/
def actDroop (mv : Nat) (s : State) : State :=
  if s.power.mainHeld || opMinMv s.power.op ≤ mv || s.power.halved then s
  else (s.modPower (fun p => { p with halved := true, droop := satAdd32 p.droop 1 }))

def execDroop (mv : Nat) (s : State) : Host.Outcome State Fault Refusal := s.conclude (actDroop mv s)

/-- VDD_ARR below 0.55 V for 1 µs stops the Plot clocks; its return starts them again. -/
def actArrUndervoltage (mv : Nat) (s : State) : State :=
  if s.power.mainHeld then s
  else if 550 ≤ mv then (s.modPower (fun p => { p with stopped := false }))
  else if s.power.stopped then s
  else (s.modPower (fun p => { p with stopped := true, droop := satAdd32 p.droop 1 }))

def execArrUndervoltage (mv : Nat) (s : State) : Host.Outcome State Fault Refusal := s.conclude (actArrUndervoltage mv s)

/-! ### Thermal and power limits (R832 to R834) -/

/-- The trip holds the main side until PWRGD_MAIN falls. -/
def actThermTrip (s : State) : State := (s.modPower (fun p => { p with thermTrip := true })).warmReset

def execThermTrip (s : State) : Host.Outcome State Fault Refusal := s.conclude (actThermTrip s)

/-- Table 24.10's thresholds lie between two samples. -/
def thermalCrossed (a b : Int) : Bool := [92, 95, 98, 100, 115].any (fun (t : Int) => decide (t ≤ a) != decide (t ≤ b))

/-- The thermal limit after a sample (Table 24.10, but for the trip); a fall cancels a pending rise (R838). -/
def Power.thermal (p : Power) (t : Int) (at_ : Nat) : Power :=
  let p := { p with tj := t, claimPause := decide (100 ≤ t) || (p.claimPause && decide (98 ≤ t)) }
  if 100 ≤ t then { p with thermalLimit := 0, halved := p.op ≠ 0 || p.halved, arrOk := [], coolSince := none, lastThermalLower := at_ }
  else if 95 ≤ t then
    if p.lastThermalLower + msNs ≤ at_ then { p with thermalLimit := p.thermalLimit - 1, arrOk := [], coolSince := none, lastThermalLower := at_ }
    else { p with coolSince := none }
  else if t < 92 then
    match p.coolSince with
    | none => { p with coolSince := some at_ }
    | some c => if c + 10 * msNs ≤ at_ then { p with thermalLimit := min 4 (p.thermalLimit + 1), coolSince := some at_ } else p
  else { p with coolSince := none }

/-- A sample of TJ_MAX; a sensor with no valid reading is taken as 100 °C. -/
def actThermalSample (tj : Option Int) (s : State) : State :=
  if s.power.mainHeld then s
  else
    let t := tj.getD 100
    let s := if thermalCrossed s.power.tj t then s.raisePf .thermal else s
    let s := s.followOp (fun p => p.thermal t s.now)
    (if 115 ≤ t then (s.modPower (fun p => { p with thermTrip := true })).warmReset else s)

def execThermalSample (tj : Option Int) (s : State) : Host.Outcome State Fault Refusal := s.conclude (actThermalSample tj s)

/-- PKG_POWER averaged over 1 ms moves the power limit. -/
def Power.limit (p : Power) (watts at_ : Nat) : Power :=
  let p := { p with pkgPower := watts }
  if p.cap < watts then
    if p.lastPowerLower + msNs ≤ at_ then { p with powerLimit := p.powerLimit - 1, arrOk := [], underSince := none, lastPowerLower := at_ }
    else { p with underSince := none }
  else if watts + 10 < p.cap then
    match p.underSince with
    | none => { p with underSince := some at_ }
    | some c => if c + 10 * msNs ≤ at_ then { p with powerLimit := min 4 (p.powerLimit + 1), underSince := some at_ } else p
  else { p with underSince := none }

def actPowerLimit (watts : Nat) (s : State) : State :=
  if s.power.mainHeld then s else s.followOp (fun p => p.limit watts s.now)

def execPowerLimit (watts : Nat) (s : State) : Host.Outcome State Fault Refusal := s.conclude (actPowerLimit watts s)

/-! ### The host link (R129, R130, R142, R144, R148) -/

/-- D3hot and back: only the PF's memory space changes. It is a configuration write, which a part held in reset does not take (R150, R151). -/
def actD3hot (enter : Bool) (s : State) : State :=
  if s.power.mainHeld || !s.hif.configReady then s else { s with hif := { s.hif with d3hot := enter } }

def execD3hot (enter : Bool) (s : State) : Host.Outcome State Fault Refusal := s.conclude (actD3hot enter s)

/-- DL_Down or a hot reset: as an assertion of PERST_N; of a link that was up it is a surprise down, logged in the PF (Table 4.9).
[log 103 DEDUCED, 137 DEDUCED] -/
def actDlDown (s : State) : State :=
  if s.power.perst then s
  else
    let up := s.hif.linkUp
    let s := (s.modPower (fun p => { p with dlDown := true })).warmReset
    let s := { s with hif := { s.hif with linkUp := false } }
    if up then s.logAer .pf .surpriseDown else s

def execDlDown (s : State) : Host.Outcome State Fault Refusal := s.conclude (actDlDown s)

/-- The link trains: a reset that DL_Down held is released, and the link's rate, width and mode are those trained. [log 103 DEDUCED] -/
def actDlUp (rate width : Nat) (flit : Bool) (s : State) : State :=
  let s := (s.modPower (fun p => { p with dlDown := false })).releaseMain
  if s.power.mainHeld then s
  else { s with hif := { s.hif with linkUp := true, linkRate := rate, linkWidth := width, linkFlit := flit } }

def execDlUp (rate width : Nat) (flit : Bool) (s : State) : Host.Outcome State Fault Refusal := s.conclude (actDlUp rate width flit s)

/-- The link recovers or changes rate or width: requests wait in HIF until it is up again. Releases whose last data waited there are then
complete (R382, R383). -/
def actLinkRetrain (rate width : Nat) (flit up : Bool) (s : State) : State :=
  if !s.hif.linkUp then s
  else if up then
    let s := { s with hif := { s.hif with
      recovering := false, linkRate := rate, linkWidth := width, linkFlit := flit, out := s.hif.out ++ s.hif.waiting, waiting := [] } }
    (List.range 8).foldl State.finishRelease s
  else { s with hif := { s.hif with recovering := true } }

def execLinkRetrain (rate width : Nat) (flit up : Bool) (s : State) : Host.Outcome State Fault Refusal :=
  s.conclude (actLinkRetrain rate width flit up s)

/-- A mask clears, or MSI-X is enabled: a pending vector that may now send sends one message. -/
def State.flushVector (s : State) (f : Fn) (v : Nat) : State :=
  let e := Tab.get s.hif.msix {} (msixKey f v)
  if e.pending && s.vectorOpen f v then
    { s with hif := { s.hif with msix := Tab.set s.hif.msix {} (msixKey f v) { e with pending := false } } }.toHost (.msix f v)
  else s

/-- Vectors of a function (R119). -/
def vectorsOf : Fn → Nat
  | .pf => 256
  | .vf _ => 16

/-- Each vector of a function that may now send what is pending does. -/
def State.flushVectors (s : State) (f : Fn) : State := (List.range (vectorsOf f)).foldl (fun s v => s.flushVector f v) s

def State.inFlr (s : State) : Fn → Bool
  | .pf => false
  | .vf p => s.flrActive p

/-- Clear a vector's mask, which is a write of the function's MSI-X BAR, or the function's, which is a configuration write. An access that no
function answers is an unsupported request; a VF in FLR discards the first; before the Kelri table is VALID, and while HIF is not in RUN, it
is discarded and counted (R90, R140, R144, R150 to R152). -/
def actMsixUnmask (f : Fn) (vector : Option Nat) (s : State) : State :=
  match vector with
  | some v =>
    if !s.barAnswers f then s.unanswered
    else if vectorsOf f ≤ v || s.inFlr f then s
    else if !s.pfReaches .hif then s.dropWrite .hif
    else
      let e := Tab.get s.hif.msix {} (msixKey f v)
      ({ s with hif := { s.hif with msix := Tab.set s.hif.msix {} (msixKey f v) { e with masked := false } } }.flushVector f v)
  | none =>
    if s.power.mainHeld || !s.hif.configReady then s
    else { s with hif := { s.hif with msixFnMask := Tab.set s.hif.msixFnMask false (fnNum f) false } }.flushVectors f

def execMsixUnmask (f : Fn) (vector : Option Nat) (s : State) : Host.Outcome State Fault Refusal := s.conclude (actMsixUnmask f vector s)

def actAerError (f : Fn) (err : AerError) (s : State) : State :=
  if s.power.mainHeld then s else (s.logAer f err)

def execAerError (f : Fn) (err : AerError) (s : State) : Host.Outcome State Fault Refusal := s.conclude (actAerError f err s)

end Sys2Proof.Machine
end

