-- ==== Sys2Proof/Machine/Tick.lean ====
section
/-!
DEFINITION. What the block does when no command waits: one cycle of the TIME island (R397).
-/

namespace Sys2Proof.Machine
open Sys2Proof

/-- 2 ns in units of 2^-40 ns: the increment of R397 before its rate correction. -/
def nominalInc : Nat := 2 * 2 ^ 40

/-- The most a correction may change the advance of one cycle: 200 ppm of the increment (R406, Table 12.4). -/
def slewMost : Int := (nominalInc * 200 / 1000000 : Nat)

/-- What a correction in progress adds in one cycle, where its rate is at most `most`. -/
def slewStep (c : Slew) (most : Int) : Int := if c.remaining > most then most else if c.remaining < -most then -most else c.remaining

/-- The rate of a correction in progress: the full 200 ppm where TIME_SET, an election or a merge ordered it, else what the servo
chooses, a free value up to that. -/
def State.slewRate (s : State) (c : Slew) : Int × State :=
  if c.full then (slewMost, s)
  else
    let (n, s) := s.freeNat
    (((n % (slewMost.toNat + 1) : Nat) : Int), s)

/-- Fabric time advances by the increment, its rate correction and `d`. -/
def TimeUnit.advance (t : TimeUnit) (d : Int) : TimeUnit := { t with t40 := t.t40 + ((nominalInc : Int) + t.rate + d).toNat }

/-- One TIME island cycle. [log 1 DESIGN CHOICE] -/
def tick (s : State) : State :=
  if !s.running .time then s
  else match s.time.slew with
    | none => { s with time := s.time.advance 0 }
    | some c =>
      let (most, s) := s.slewRate c
      let d := slewStep c most
      let left := c.remaining - d
      { s with time := { s.time.advance d with slew := if left = 0 then none else some { c with remaining := left } } }

end Sys2Proof.Machine
end

