-- ==== Sys2Proof/Machine/Time.lean ====
section
/-!
DEFINITION. The Time Authority: corrections and TIME_SET, alarms, exchanges, ANNOUNCE and election, the outputs and the
synthesiser (R397 to R433).
-/

namespace Sys2Proof.Machine
open Sys2Proof

/-! ### Alarms (R412 to R415, R424) -/

/-- General alarm `k` fires: it disarms, adds 1 to its fence on behalf of its queue; the control plane's also latch on vector 3. [log 107 DEDUCED] -/
def State.alarmFires (s : State) (k : Nat) : State :=
  match Tab.find? s.time.alarms k with
  | none => s
  | some a =>
    let s := s.modTime (fun t => { t with alarms := Tab.erase t.alarms k })
    let s := (s.signalFence a.fence .add 1 (srcAgent a.src)).2
    if 1024 ≤ k then s.raisePf .time else s

def actAlarm (key : Nat) (s : State) : State :=
  let due := ((Tab.find? s.time.alarms key).map (fun (a : Alarm) => decide (a.fire ≤ s.now))).getD false
  (if due && s.running .time then s.alarmFires key else s)

def execAlarm (key : Nat) (s : State) : Host.Outcome State Fault Refusal := s.conclude (actAlarm key s)

/-- An alarm that is due: its fire time, whether it is a general one, its index, its key. -/
structure DueAlarm where
  fire : Nat
  general : Bool
  index : Nat
  key : Nat
deriving DecidableEq, Repr

/-- Ascending fire time, deadline alarms first, lower indices first. -/
def DueAlarm.before (a b : DueAlarm) : Bool :=
  if a.fire != b.fire then decide (a.fire < b.fire)
  else if a.general != b.general then !a.general
  else if a.index != b.index then decide (a.index < b.index)
  else decide (a.key < b.key)

def insertDue (a : DueAlarm) : List DueAlarm → List DueAlarm
  | [] => [a]
  | b :: l => if a.before b then a :: b :: l else b :: insertDue a l

def State.dueAlarms (s : State) : List DueAlarm :=
  let rounds := List.filterMap (fun (y : Nat × Round) => match y.2.alarmAt with
    | some t => if t ≤ s.now then some { fire := t, general := false, index := y.1, key := y.1 : DueAlarm } else none
    | none => none) s.rounds.table
  let general := List.filterMap (fun (y : Nat × Alarm) =>
    if y.2.fire ≤ s.now then some { fire := y.2.fire, general := true, index := y.1 % 16, key := y.1 : DueAlarm } else none) s.time.alarms
  (rounds ++ general).foldl (fun acc a => insertDue a acc) []

/-- Every alarm that fabric time has passed fires (R415). -/
def State.fireDue (s : State) : State :=
  s.dueAlarms.foldl (fun s a => if a.general then s.alarmFires a.key else s.deadlineFires a.key) s

/-! ### TOD time -/

/-- TOD time in ns under an offset of 100 ns units. -/
def TimeUnit.todWith (t : TimeUnit) (offset : Int) : Int := (t.now : Int) + offset * 100

def TimeUnit.tod (t : TimeUnit) : Int := t.todWith t.todOffset

def secNs : Int := 1000000000

/-! ### Corrections (R406, R411, Table 12.4) -/

/-- A step of fabric time: whole TOD seconds it passes get no pulse (R418). How long ago the last edges were stays as it was. -/
def TimeUnit.step (t : TimeUnit) (d : Int) : TimeUnit :=
  let t' : TimeUnit := { t with
    t40 := ((t.t40 : Int) + d).toNat, slew := none, stepSeen := true, realign := true
    lastPpsAt := t.lastPpsAt + (d / 2 ^ 40).toNat, last10mAt := t.last10mAt.map (fun a => a + d) }
  if t.tod / secNs = t'.tod / secNs then t' else { t' with ppsMissed := true, lastPps := some (t'.tod / secNs) }

/-- Correct fabric time by `d`, in 2^-40 ns: forward above 1 µs by a step, else by a slew; `full` at the full 200 ppm. -/
def State.correct (s : State) (d : Int) (full : Bool) : State :=
  if d > 1000 * 2 ^ 40 then (s.modTime (fun t => t.step d)).fireDue
  else s.modTime (fun t => { t with slew := if d = 0 then none else some { remaining := d, full := full } })

def psTo40 (ps : Int) : Int := ps * 2 ^ 40 / 1000

def specTimeSet : OpSpec := { code := 0x0A00, callC := true, callM := true, used := [0, 2, 3], checks := [.mask 0 0xFFFF] }

/-- TIME_SET moves the master's time; elsewhere NOT_PERMITTED (R411, R425). -/
def bodyTimeSet : Body := fun c s => c.needs s .time (fun s =>
  if s.time.state ≠ .master then fail .notPermitted s
  else okRes [] (s.correct (((pair c.w 2 * 2 ^ 40 + bits (c.w 0) 15 0 * 2 ^ 24 : Nat) : Int) - s.time.t40) true))

def execTimeSet (src : Source) (pkt : Packet) (s : State) : Host.Outcome State Fault Refusal := runRow specTimeSet bodyTimeSet src pkt s

def alarmKey (p : Option (Fin 64)) (a : Nat) : Nat :=
  match p with
  | some p => 16 * p.val + a
  | none => 1024 + a

def specTimeAlarm : OpSpec :=
  { code := 0x0A01, callP := true, callC := true, used := [0, 1, 2, 3], checks := [.mask 0 0xF, .mask 1 0xFFF] }

/-- TIME_ALARM arms, replaces or disarms a general alarm of the caller; one already due fires at once (R414). -/
def bodyTimeAlarm : Body := fun c s => c.needs s .time (fun s =>
  let k := alarmKey (srcPart c.src) (bits (c.w 0) 3 0)
  let fire := pair c.w 2
  if fire = 2 ^ 64 - 1 then okRes [] (s.modTime (fun t => { t with alarms := Tab.erase t.alarms k }))
  else
    let a : Alarm := { fire := fire, fence := fenceKey (srcPart c.src) (bits (c.w 1) 11 0), src := c.src }
    let s := s.modTime (fun t => { t with alarms := Tab.insert t.alarms k a })
    okRes [] (if fire ≤ s.now then s.alarmFires k else s))

def execTimeAlarm (src : Source) (pkt : Packet) (s : State) : Host.Outcome State Fault Refusal := runRow specTimeAlarm bodyTimeAlarm src pkt s

def specTimeOutputs : OpSpec := { code := 0x0A02, callC := true, callM := true, used := [0], checks := [.mask 0 7] }

/-- TIME_OUTPUTS sets the three enables; a 10 MHz output that resumes does so at its next aligned edge (R420). -/
def bodyTimeOutputs : Body := fun c s => c.needs s .time (fun s =>
  okRes [] (s.modTime (fun t => { t with
    en10m := bit (c.w 0) 0, enPps := bit (c.w 0) 1, enTod := bit (c.w 0) 2, realign := t.realign || (bit (c.w 0) 0 && !t.en10m) })))

def execTimeOutputs (src : Source) (pkt : Packet) (s : State) : Host.Outcome State Fault Refusal :=
  runRow specTimeOutputs bodyTimeOutputs src pkt s

/-! ### Exchanges (R403, R404, R429) -/

def TimeUnit.nowPs (t : TimeUnit) : Nat := t.t40 * 1000 / 2 ^ 40

/-- SYNC_EXCHANGE: the device's own frame of a pair leaves on a port it has as parent, or as a possible parent's. [log 107 DEDUCED] -/
def actSyncExchange (port : Fin 16) (s : State) : State :=
  let due := Tab.get s.time.nextExchange 0 port.val ≤ s.now
  let part := s.time.state = .master || s.time.state = .locked || s.time.parent = some port.val
  if !s.running .time || !due || !part || !s.livePorts.contains port.val then s
  else
    let s := s.modTime (fun t => { t with nextExchange := Tab.insert t.nextExchange port.val (t.now + 125000) })
    (s.emit (.time port.val (.sync port.val s.time.nowPs)))

def execSyncExchange (port : Fin 16) (s : State) : Host.Outcome State Fault Refusal := s.conclude (actSyncExchange port s)

/-- Twice the offset of R403, child minus parent, in ps; asym is in units of 10 ps. -/
def offset2 (t1 t2 t3 t4 : Nat) (asym : Int) : Int := ((t2 : Int) - t1) - ((t4 : Int) - t3) + 10 * asym

/-- The delay of R403, in ps. -/
def linkDelay (t1 t2 t3 t4 : Nat) : Int := (((t2 : Int) - t1) + ((t4 : Int) - t3)) / 2

/-- The servo's choice of rate correction, within ±200 ppm: a free value. -/
def State.steer (s : State) : State :=
  let (n, s) := s.freeNat
  let most := nominalInc * 200 / 1000000
  s.modTime (fun t => { t with rate := ((n % (2 * most + 1) : Nat) : Int) - most })

/-- Take an offset up: inside the per-hop bound by steering alone, LOCKED; beyond it by a correction, ACQUIRING. [log 105 DEDUCED] -/
def State.takeOffset (s : State) (o2 : Int) : State :=
  let s := (s.modTime (fun t => { t with outlierRun := 0 })).steer
  if -2600 ≤ o2 && o2 ≤ 2600 then (s.modTime (fun t => { t with slew := none })).enterSync .locked
  else (s.enterSync .acquiring).correct (-o2 * 2 ^ 40 / 2000) false

/-- TIME_FRAME: a pair on the parent's port is complete (R403); an outlier is discarded, the third in a row taken (R429). The servo
ignores a resent frame, whose stamp is old (R550). -/
def actTimeFrame (port : Fin 16) (resent : Bool) (t1 t2 t3 t4 : Nat) (s : State) : State :=
  let follows := s.time.state = .locked || s.time.state = .acquiring
  if !s.running .time || !follows || s.time.parent ≠ some port.val || resent then s
  else
    let o2 := offset2 t1 t2 t3 t4 (Tab.get s.time.asym 0 port.val)
    let s := s.modTime (fun t => { t with lastExchange := t.now })
    let kept := s.modTime (fun t => { t with delays := Tab.insert t.delays port.val (linkDelay t1 t2 t3 t4) })
    if s.time.state = .locked && (o2 < -200000 || 200000 < o2) then
      let s := s.modTime (fun t => { t with outliers := satAdd32 t.outliers 1, outlierRun := t.outlierRun + 1 })
      (if s.time.outlierRun < 3 then s
       else (s.modTime (fun t => { t with delays := Tab.insert t.delays port.val (linkDelay t1 t2 t3 t4) })).takeOffset o2)
    else kept.takeOffset o2

def execTimeFrame (a : Arrival) (t1 t2 t3 t4 : Nat) (s : State) : Host.Outcome State Fault Refusal :=
  s.conclude (s.receive a (.time a.port.val (.sync a.port.val t3)) (actTimeFrame a.port a.resent t1 t2 t3 t4))

/-- PARENT_LOSS: the parent's port is down, or silent for 1 ms (R430, R431). -/
def actParentLoss (s : State) : State :=
  match s.time.parent with
  | none => s
  | some p =>
    if s.linkUp p && s.now < s.time.lastExchange + 1000000 then s
    else if s.livePorts.isEmpty then ((s.modTime (fun t => { t with slew := none })).enterSync .holdover)
    else ((s.modTime (fun t => { t with parent := none })).chooseParent)

def execParentLoss (s : State) : Host.Outcome State Fault Refusal := s.conclude (actParentLoss s)

/-! ### ANNOUNCE and election (R407 to R410, R428) -/

def State.sendTime (s : State) (ports : List Nat) (f : Nat → TimeMsg) : State := ports.foldl (fun s p => s.emit (.time p (f p))) s

/-- ANNOUNCE_TIMER: the master's, every 1 ms. -/
def actAnnounceTimer (s : State) : State :=
  if !s.running .time || s.time.state ≠ .master || s.now < s.time.nextAnnounce then s
  else
    let t := s.time
    let s := s.modTime (fun t => { t with nextAnnounce := t.now + 1000000 })
    (s.sendTime s.livePorts (fun p => .announce p t.masterId t.priority t.generation 0))

def execAnnounceTimer (s : State) : Host.Outcome State Fault Refusal := s.conclude (actAnnounceTimer s)

/-- Adopt a master: its generation is held, any candidacy ends, and a parent is chosen unless the one held is the one R401 gives. -/
def State.adoptMaster (s : State) (master priority : Nat) (gen : W16) : State :=
  let same := s.time.masterValid && s.time.masterId = master && s.time.parent.isSome && s.time.parent = s.parentPort master
  let before := s.time
  let s := s.modTime (fun t => { t with
    masterValid := true, masterId := master, masterPriority := priority, generation := gen, candidacyEnd := none, heard := []
    lastAnnounce := t.now })
  if same then s else (s.timeChanged before).chooseParent

/-- A running master meets another (R409): the better one stays, one generation above both, and takes a later time up; the other follows,
unless the ANNOUNCE is of a generation below its own, which it ignores (R407). [log 106 DEDUCED] -/
def State.meetMaster (s : State) (master priority : Nat) (gen : W16) (lead : Int) : State :=
  if betterMaster priority master s.time.priority s.time.masterId then
    (if gen.toNat < s.time.generation.toNat then s else s.adoptMaster master priority gen)
  else
    let s := s.lead s.time.nextGeneration
    if 0 < lead then s.correct (psTo40 lead) true else s

/-- An ANNOUNCE of the current or a higher generation has reached the device: any candidacy ends, and 3 ms run anew (R408, R428). -/
def TimeUnit.announced (t : TimeUnit) : TimeUnit := { t with lastAnnounce := t.now, candidacyEnd := none, heard := [] }

/-- An ANNOUNCE reaches a device that is not master. [log 106 DEDUCED] -/
def State.hearAnnounce (s : State) (port master priority : Nat) (gen : W16) (hops : Nat) : State :=
  let t := s.time
  let fresh := decide (t.generation.toNat < gen.toNat) || !t.masterValid || master == t.masterId || betterMaster priority master t.masterPriority t.masterId
  if gen.toNat < t.generation.toNat then s
  else if !fresh then s.modTime TimeUnit.announced
  else
    let s := s.adoptMaster master priority gen
    if s.time.parent ≠ some port then s
    else
      let s := s.modTime (fun t => { t with hops := hops + 1 })
      s.sendTime (s.livePorts.filter (fun p => p != port)) (fun p => .announce p master priority gen (hops + 1))

def actAnnounce (port : Fin 16) (master : Nat) (priority : Nat) (generation : W16) (hops : Nat) (lead : Int) (s : State) : State :=
  if !s.running .time || s.spetar.fid = some master then s
  else
    let higher (t : TimeUnit) : W16 := if t.highestHeard.toNat < generation.toNat then generation else t.highestHeard
    let s := s.modTime (fun t => { t with highestHeard := higher t })
    (if s.time.state = .master then s.meetMaster master priority generation lead else s.hearAnnounce port.val master priority generation hops)

def execAnnounce (a : Arrival) (master : Nat) (priority : Nat) (generation : W16) (hops : Nat) (lead : Int) (s : State) : Host.Outcome State Fault Refusal :=
  s.conclude (s.receive a (.time a.port.val (.announce a.port.val master priority generation hops)) (actAnnounce a.port master priority generation hops lead))

/-- ANNOUNCE_TIMEOUT: no master, or 3 ms without its ANNOUNCE: a candidacy of 5 ms. -/
def actAnnounceTimeout (s : State) : State :=
  let silent := !s.time.masterValid || s.time.lastAnnounce + 3000000 ≤ s.now
  match s.spetar.fid with
  | none => s
  | some fid =>
    if !s.running .time || s.time.state = .master || s.time.candidacyEnd.isSome || !silent || s.livePorts.isEmpty then s
    else
      let s := (s.modTime (fun t => { t with slew := none })).enterSync .holdover
      let own : Candidate := { priority := s.time.priority, fid := fid, lead := 0 }
      let s := s.modTime (fun t => { t with candidacyEnd := some (t.now + 5000000), heard := t.heard ++ [own] })
      (s.sendTime s.livePorts (fun p => .candidacy p s.time.priority fid s.time.nowPs))

def execAnnounceTimeout (s : State) : Host.Outcome State Fault Refusal := s.conclude (actAnnounceTimeout s)

/-- CANDIDACY: noted and flooded on once; a running master is not displaced by it. `time` is in ps, corrected by link delay. One that comes
in the cycle of an ANNOUNCE counts as taken before it, and ended by it (R428). -/
def actCandidacy (port : Fin 16) (priority : Nat) (fid : Nat) (time : Nat) (s : State) : State :=
  if !s.running .time || s.time.state = .master || s.time.heard.any (fun c => c.fid == fid) || s.spetar.fid = some fid then s
  else
    let c : Candidate := { priority := priority, fid := fid, lead := (time : Int) - s.time.nowPs }
    let ended := s.time.masterValid && s.time.lastAnnounce == s.now
    let s := if ended then s else s.modTime (fun t => { t with heard := t.heard ++ [c] })
    (s.sendTime (s.livePorts.filter (fun p => p != port.val)) (fun p => .candidacy p priority fid time))

def execCandidacy (a : Arrival) (priority : Nat) (fid : Nat) (time : Nat) (s : State) : Host.Outcome State Fault Refusal :=
  s.conclude (s.receive a (.time a.port.val (.candidacy a.port.val priority fid time)) (actCandidacy a.port priority fid time))

def bestCandidate : List Candidate → Option Candidate
  | [] => none
  | c :: l => match bestCandidate l with
    | none => some c
    | some d => some (if betterMaster d.priority d.fid c.priority c.fid then d else c)

/-- CANDIDACY_CLOSE: the winner leads and takes up the largest time heard; the others follow it. A device with no live port left elects
nobody (R410). -/
def actCandidacyClose (s : State) : State :=
  if !s.running .time || !s.time.candidacyEnd.any (fun t => decide (t ≤ s.now)) then s
  else if s.livePorts.isEmpty then s.modTime (fun t => { t with candidacyEnd := none, heard := [] })
  else match bestCandidate s.time.heard with
    | none => (s.modTime (fun t => { t with candidacyEnd := none }))
    | some c =>
      if s.spetar.fid = some c.fid then
        let ahead := s.time.heard.foldl (fun (n : Int) d => max n d.lead) 0
        let s := s.lead s.time.nextGeneration
        (if 0 < ahead then s.correct (psTo40 ahead) true else s)
      else (s.adoptMaster c.fid c.priority s.time.generation)

def execCandidacyClose (s : State) : Host.Outcome State Fault Refusal := s.conclude (actCandidacyClose s)

/-! ### Outputs (R416 to R420, R426, R427) -/

/-- A boundary of `step` ns of TOD time falls in this cycle. -/
def atEdge (tod step : Int) : Bool := decide (tod % step ≤ 2)

/-- Where a written TOD offset is due, the first whole second at least 500 ms after the previous pulse takes it into force; a boundary that it
passes over is a pulse missed, and one that it brings again is none (R426). [log 107 DEDUCED] -/
def TimeUnit.takeOffsetNow (t : TimeUnit) : Option TimeUnit :=
  match t.todOffsetNext with
  | none => some t
  | some o =>
    if !t.todOffsetDue then some t
    else if t.lastPpsAt + 500000000 ≤ t.now && atEdge (t.todWith o) secNs then
      let sec := t.todWith o / secNs
      some { t with
        todOffset := o, todOffsetNext := none, todOffsetDue := false, stepSeen := true, realign := true
        lastPps := some (sec - 1), ppsMissed := t.ppsMissed || t.lastPps.any (fun l => decide (l + 1 < sec)) }
    else none

/-- PPS_OUT: at a whole TOD second, one pulse, or PPS_MISSED where there can be none; a pulse still high is not cut short (R417). [log 107 DEDUCED] -/
def actPpsOut (s : State) : State :=
  match s.time.takeOffsetNow with
  | none => s
  | some t =>
    let sec := t.tod / secNs
    if !s.running .time || t.lastPps = some sec then s
    else
      let on := t.synthLocked && t.enPps && atEdge t.tod secNs && (t.lastPps.isNone || decide (t.lastPpsAt + 100000 ≤ t.now))
      let skipped := t.lastPps.any (fun l => decide (l + 1 ≠ sec))
      let t' : TimeUnit := { t with lastPps := some sec, lastPpsAt := t.now, ppsMissed := t.ppsMissed || !on || skipped }
      { s with time := if on then { t' with out := t'.out ++ [.pps (sec * secNs)] } else t' }

def execPpsOut (s : State) : Host.Outcome State Fault Refusal := s.conclude (actPpsOut s)

/-- CRC-16, polynomial 0x1021, from 0xFFFF, no reflection, no final XOR. -/
def crc16Bits : Nat → W16 → W16
  | 0, c => c
  | n + 1, c => crc16Bits n (if c.getLsbD 15 then (c <<< 1) ^^^ 0x1021 else c <<< 1)

def crc16 (m : Bytes) : W16 := m.foldl (fun (c : W16) (b : Byte) => crc16Bits 8 (c ^^^ ((b.setWidth 16 : W16) <<< 8))) 0xFFFF

/-- The second the next pulse labels. -/
def TimeUnit.nextSecond (t : TimeUnit) : Int :=
  match t.todOffsetNext with
  | none => t.tod / secNs + 1
  | some o => -(-((max t.now (t.lastPpsAt + 500000000) : Nat) + o * 100) / secNs)

/-- The frame's first 22 bytes (Table 12.5). -/
def todBytes (t : TimeUnit) (fid : Option Nat) : Bytes :=
  let status := 32 * b2n t.slew.isSome + 16 * b2n t.stepSeen + 8 * b2n (t.state == .holdover) + 4 * b2n (t.state == .master) +
    2 * b2n (t.state == .locked) + b2n t.ppsMissed
  let id := match fid with
    | some f => 0x8000 + f % 512
    | none => 0
  leBytes 2 0xA55A ++ [1, 24, BitVec.ofNat 8 status, t.todSeq] ++ leBytes 6 (t.nextSecond % 2 ^ 48).toNat ++ leBytes 2 t.utcOffset.toNat ++
    [BitVec.ofNat 8 t.leap.toNat, 0] ++ leBytes 2 id ++ leBytes 2 (min 0xFFFF ((t.errEst + 999) / 1000)) ++ [0, 0]

/-- TOD_FRAME: 500 ms after a whole second, and at no other time, a frame starts and labels the next pulse (R419, R420). -/
def actTodFrame (s : State) : State :=
  let t := s.time
  let sec := t.tod / secNs
  if !s.running .time || !t.synthLocked || !t.enTod || t.lastTod = some sec || t.tod % secNs < 500000000 || 500000002 < t.tod % secNs then s
  else
    let body := todBytes t s.spetar.fid
    let t' : TimeUnit := { t with
      out := t.out ++ [.tod (body ++ leBytes 2 (crc16 body).toNat)], lastTod := some sec, todSeq := t.todSeq + 1, stepSeen := false
      ppsMissed := false, todOffsetDue := t.todOffsetNext.isSome }
    { s with time := t' }

def execTodFrame (s : State) : Host.Outcome State Fault Refusal := s.conclude (actTodFrame s)

/-- The fabric time of the latest TOD multiple of 100 ns, in 2^-40 ns. -/
def TimeUnit.edge40 (t : TimeUnit) : Int := (t.t40 : Int) - ((t.t40 : Int) + t.todOffset * 100 * 2 ^ 40) % (100 * 2 ^ 40)

/-- TIME_10M_OUT rises at a TOD multiple of 100 ns; the first edge after a step, an outage or an offset change comes after one
lengthened low phase, a whole period or more after the last one (R417). [log 107 DEDUCED] -/
def actTime10mOut (s : State) : State :=
  let t := s.time
  let k := t.tod / 100
  let early := t.last10mAt.any (fun a => decide (t.edge40 < a + 100 * 2 ^ 40))
  if !s.running .time || !t.synthLocked || !t.en10m || t.last10m = some k || !atEdge t.tod 100 || early then s
  else { s with time := { t with
    out := t.out ++ [.tenMeg (k * 100) t.realign], last10m := some k, last10mAt := some t.edge40, realign := false } }

def execTime10mOut (s : State) : Host.Outcome State Fault Refusal := s.conclude (actTime10mOut s)

/-! ### The synthesiser (R421, R422, R431) -/

def actTimeSynthLock (osc50 : Bool) (s : State) : State :=
  if !s.running .time || s.time.synthLocked then s
  else ((s.modTime (fun t => { t with synthLocked := true, osc50 := osc50, realign := true })).raisePf .time)

def execTimeSynthLock (osc50 : Bool) (s : State) : Host.Outcome State Fault Refusal := s.conclude (actTimeSynthLock osc50 s)

def actTimeSynthUnlock (s : State) : State :=
  if !s.time.synthLocked then s
  else ((s.modTime (fun t => { t with synthLocked := false, realign := true })).raisePf .time)

def execTimeSynthUnlock (s : State) : Host.Outcome State Fault Refusal := s.conclude (actTimeSynthUnlock s)

end Sys2Proof.Machine
end

