-- ==== Sys2Proof/Machine/RegRead.lean ====
section
/-!
DEFINITION. What every register reads (ch. 26, ch. 27) and the bytes of the Kelri views (ch. 3). A block is given by the aligned
64-bit words of one of its units; an offset that no table assigns reads 0 (R13).
-/

namespace Sys2Proof.Machine
open Sys2Proof

/-- An aligned 64-bit word of a register space: its value, whether its low half is RL, the island that houses it, and the one that
houses its high half where that differs. -/
structure RegWord where
  v : Nat
  rl : Bool := false
  home : Island
  hiHome : Option Island := none
deriving DecidableEq, Repr

/-- Two 32-bit registers side by side. -/
def two (lo hi : Nat) : Nat := lo % 2 ^ 32 + 2 ^ 32 * (hi % 2 ^ 32)

/-- A signed field of `n` bits. -/
def signedField (n : Nat) (v : Int) : Nat := (v % 2 ^ n).toNat

/-- The `i`th aligned 64-bit word of a byte string. -/
def wordAt (b : Bytes) (o : Nat) : Nat := leNat (slice b o 8)

/-! ### GLOBAL (Tables 26.3 to 26.6) -/

def Standby.code : Standby → Nat
  | .empty => 0
  | .staged => 1
  | .fallback => 2
  | .invalid => 3

/-- CP_FW_STATUS of an image type. -/
def State.fwWord (s : State) (t : Nat) : Nat :=
  let f := if t = 0 then s.power.seqFw else s.power.mgmtFw
  let e := s.power.image t
  f.version.toNat * 2 ^ 32 + f.svn % 64 * 2 ^ 26 + s.power.minSvn t % 64 * 2 ^ 20 + e.standby.code * 2 ^ 18 + b2n e.active * 2 ^ 17 +
    e.attempts % 8 * 2 ^ 14 + f.cause % 16 * 2 ^ 8

def State.shedStatus (s : State) : Nat :=
  b2n s.shed.debug * 128 + b2n (!s.shed.conditions.isEmpty) * 64 + b2n s.shed.batteryLow * 32 + b2n s.shed.batteryRoot.isSome * 16 +
    b2n s.shed.pufFail * 8 + b2n s.shed.pufRoot.isSome * 4

def tamperCode : TamperCause → Nat
  | .lidLight => 1
  | .mesh => 2
  | .temperature => 3
  | .vbatLow => 4
  | .glitch => 5
  | .tamperIn => 6
  | .rootCorrupt => 7
  | .batteryLost => 8

def State.auxPage (s : State) (o : Nat) : RegWord :=
  let tamper (k : Nat) : Nat := match s.shed.tamperLog[k]? with
    | none => 0
    | some e => if o % 16 = 0 then tamperCode e.cause else e.time
  let w : Nat := match o with
    | 0x000 => s.fwWord 0
    | 0x008 => s.fwWord 1
    | 0x010 => s.power.dir.sequence.toNat
    | 0x020 => two s.shedStatus (b2n s.shed.tamperInHigh * 2 + b2n s.shed.tamperIn)
    | 0x028 => s.shed.tamperLog.length
    | 0x030 => s.err.ceThreshold
    | _ => if 0x100 ≤ o && o < 0x180 then tamper ((o - 0x100) / 16) else 0
  { v := w, home := if o < 0x10 then .mgmt else .shed }

/-- CP_MEM_CHUNK_OWNER of a physical chunk. -/
def State.chunkOwnerWord (s : State) (c : Nat) : Nat :=
  if chunkCount ≤ c then 0
  else match s.chunkOwnerState c, s.quotaOf c with
    | 4, some (p, k) => k * 2 ^ 32 + p * 2 ^ 8 + 4
    | st, _ => st

def ownerByte : Option (Fin 64) → Nat
  | some p => p.val
  | none => 0xFE

def agentNo : Agent → Nat
  | .queue (.part _ q) => q.val
  | .queue (.cp k) => k.val
  | .task t => 16 + t.slot.val

/-- The lease entry of Table 26.5. -/
def State.leaseWord (s : State) (cls i : Nat) : Nat :=
  match s.leaseNamed cls i with
  | none => 0
  | some h =>
    let (who, e) := s.holderShown h
    let agent : Nat := match h with
      | .agent a _ => agentNo a
      | _ => 0
    let owner : Nat := if cls = 8 then 0xFF else ((s.lease? cls i).map (fun (l : Lease) => ownerByte l.owner)).getD 0xFF
    e.toNat * 2 ^ 48 + who * 2 ^ 40 + agent * 2 ^ 32 + owner * 2 ^ 24 + 1

def State.fePage (s : State) (o : Nat) : RegWord :=
  let w : Nat := match o with
    | 0x1000 => two s.part.cpChunks s.part.badChunks.length
    | 0x1008 => s.reg.chunkSel
    | 0x1010 => s.chunkOwnerWord s.reg.chunkSel
    | 0x1018 => two s.q.rtReserve s.q.classRefused.toNat
    | 0x1020 => two (b2n s.rounds.autoRevise) s.rounds.reviseMs
    | 0x1028 => s.rounds.hotTarget
    | 0x1030 => s.rounds.replicaRefused.toNat
    | 0x1040 => s.reg.leaseClass * 2 ^ 24 + s.reg.leaseIndex
    | 0x1048 => s.leaseWord s.reg.leaseClass s.reg.leaseIndex
    | _ => 0
  { v := w, home := .fe }

/-- Entry `e` of the lease window (R876). -/
def State.leaseWindow (s : State) (e : Nat) : Nat :=
  if e < 128 then s.leaseWord 1 e
  else if e < 160 then s.leaseWord 2 (e - 128)
  else if e < 192 then s.leaseWord 3 (e - 160)
  else if e < 208 then s.leaseWord 5 (e - 192)
  else if e < 224 then s.leaseWord 6 (e - 208)
  else if e < 1248 then s.leaseWord 7 (e - 224)
  else if e = 1248 then s.leaseWord 8 0
  else 0

/-! ### Queues (Tables 26.6, 26.9, 27.5) -/

def locBit : RingLoc → Nat
  | .device => 0
  | .host => 1

/-- The CTRL fields that a partition's and a control-plane queue share, but for VECTOR and REALTIME. -/
def Queue.ctrlBits (q : Queue) : Nat :=
  q.cqLog2 * 2 ^ 16 + q.cmdLog2 * 2 ^ 8 + b2n q.tailSource * 8 + locBit q.cqLoc * 4 + locBit q.cmdLoc * 2 + b2n q.enable

def Queue.class (q : Queue) : Bool := q.classNext.getD q.realtime

def Queue.fenceWord (q : Queue) : Nat := b2n q.ownEn * 2 ^ 31 + q.ownFence * 2 ^ 16 + q.tailFenceNo

/-- CP_CPQ_STATE and its copies. -/
def State.stateWord (s : State) (src : Source) : Nat :=
  let q := s.queue src
  let (st, k) := s.queueState src
  q.epoch.toNat * 2 ^ 16 + q.stop.code * 2 ^ 8 + (k.map (fun (x : WaitKind) => x.code)).getD 0 * 2 ^ 4 + st

def State.progress (s : State) (key : Nat) : Nat := (Tab.get s.q.progress 0 key).toNat

/-- CPQ_k (Table 26.6). -/
def State.cpqWord (s : State) (k : Fin 16) (o : Nat) : RegWord :=
  let q := s.queue (.cp k)
  let w : Nat := match o with
    | 0x00 => two (q.vector * 2 ^ 24 + q.ctrlBits) q.fenceWord
    | 0x08 => q.cmdBase.toNat
    | 0x10 => q.cqBase.toNat
    | 0x18 => two q.tail.toNat q.cqHead.toNat
    | 0x20 => two q.head.toNat q.cqTail.toNat
    | 0x28 => s.stateWord (.cp k)
    | 0x30 => s.progress (progressKey (.queue (.cp k)))
    | 0x38 => q.ignored.toNat
    | _ => 0
  { v := w, rl := o = 0x30, home := .fe }

/-- The doorbell page of a partition's queue (Table 27.5). -/
def State.doorbellWord (s : State) (p : Fin 64) (n : Fin 16) (o : Nat) : RegWord :=
  let q := s.queue (.part p n)
  let w : Nat := match o with
    | 0x000 => two q.tail.toNat q.cqHead.toNat
    | 0x008 => two q.head.toNat q.cqTail.toNat
    | 0x010 => s.stateWord (.part p n)
    | 0x018 => two (q.vector * 2 ^ 24 + q.ctrlBits + 32 * b2n q.class) q.fenceWord
    | 0x020 => q.cmdBase.toNat
    | 0x028 => q.cqBase.toNat
    | 0x030 => q.ignored.toNat
    | _ => 0
  { v := w, home := .fe }

/-- The control plane's record of a device queue (Table 26.9). -/
def State.queueWord (s : State) (n : Nat) (o : Nat) : RegWord :=
  let src := srcOfKey n
  let q := s.queue src
  let w : Nat := match o with
    | 0x00 => two (b2n q.class) (s.stateWord src)
    | 0x08 => two q.head.toNat q.tail.toNat
    | 0x10 => (Tab.get s.q.stale 0 n).toNat
    | 0x18 => if (srcPart src).any s.created then q.vector * 2 ^ 24 + q.ctrlBits else 0
    | _ => 0
  { v := w, rl := o = 0x10, home := .fe }

def State.globalWord (s : State) (o : Nat) : RegWord :=
  if o < 0x1000 then s.auxPage o
  else if o < 0x2000 then s.fePage o
  else if o < 0x3000 then
    let healthy := (List.filter (fun (y : Nat × Cell) => y.2.state == .healthy) s.random.cells).length
    { v := if o = 0x2000 then healthy * 2 ^ 8 + s.random.cause * 2 + b2n s.random.serving else 0, home := .rng }
  else if o < 0x5800 then { v := s.leaseWindow ((o - 0x3000) / 8), home := .fe }
  else if 0x6000 ≤ o && o < 0x7000 then s.cpqWord (Fin.ofNat 16 ((o - 0x6000) / 0x100)) (o % 0x100)
  else if 0x8000 ≤ o then { v := (s.fence (fenceKey none ((o - 0x8000) / 8))).toNat, rl := true, home := .fe }
  else { v := 0, home := .fe }

/-! ### Islands and partitions (Tables 26.7, 26.8, 27.2, 27.3) -/

def IslandState.code : IslandState → Nat
  | .run => 0
  | .reset => 1
  | .gated => 2
  | .waking => 3
  | .resetFailed => 4

def State.islandWord (s : State) (i o : Nat) : RegWord :=
  match islandOfId i with
  | none => { v := 0, home := .shed }
  | some d =>
    let r := s.island d
    let w : Nat := match o with
      | 0x00 => r.epoch.toNat * 2 ^ 16 + r.state.code * 2 ^ 8 + i
      | 0x08 => r.stale.toNat
      | 0x10 => r.drop.toNat
      | _ => 0
    { v := w, rl := o = 0x08 || o = 0x10, home := .shed }

/-- PT_PART_FAULT. -/
def Partition.faultWord (r : Partition) : Nat :=
  match r.fault with
  | none => 0
  | some f => 2 ^ 63 + r.faultOverflow * 2 ^ 57 + f.cause.code * 2 ^ 53 + f.agent * 2 ^ 48 + f.addr % 2 ^ 48

def taskCode : TaskState → Nat
  | .stopped => 0
  | .running => 1
  | .waiting => 2
  | .faulted => 3

/-- The states of a partition's task slots, four bits each. -/
def State.tasksWord (s : State) (p : Fin 64) : Nat :=
  (List.range 8).foldl (fun n k => n + taskCode (s.taskOf { part := p, slot := Fin.ofNat 8 k }).state * 2 ^ (4 * k)) 0

def ChunkState.code : ChunkState → Nat
  | .free => 0
  | .tenant => 1
  | .device => 2
  | .releasing => 3
  | .bad => 4

def Partition.shareWord (r : Partition) : Nat := r.bedShare * 2 ^ 16 + r.sowerShare * 2 ^ 8 + r.plotShare

/-- The profiling counters; 0 in the cold frame (R669, R875). -/
def Partition.profWord (r : Partition) (o : Nat) : Nat :=
  if r.coldFrame then 0
  else match o with
    | 0x100 => r.profPlot.toNat
    | 0x108 => r.profSower.toNat
    | 0x110 => r.profBed.toNat
    | 0x118 => r.profDma.toNat
    | _ => 0

/-- The partition page of the control plane; what is not there reads 0 while the partition does not exist. -/
def State.partWord (s : State) (p : Fin 64) (o : Nat) : RegWord :=
  let exists_ := s.created p
  let r : Partition := (s.partition? p).getD {}
  let sel := Tab.get s.reg.partSel 0 p.val
  let one (w : Nat) : Nat := if exists_ then w else 0
  let w : Nat := match o with
    | 0x000 => one ((s.roundsOf p).length * 2 ^ 16 + r.slot * 2 ^ 8 + b2n r.coldFrame * 2 + 1) + b2n (s.flrActive p) * 4
    | 0x008 => one (two r.quota r.shareWord)
    | 0x010 => one r.policy.floor
    | 0x018 => one (two r.policy.sigmaNum r.policy.sigmaDen)
    | 0x020 => one (two (b2n r.policy.noiseRequired) r.policy.cipher)
    | 0x030 => r.faultWord
    | 0x040 => sel
    | 0x048 => if sel < r.quota then 2 ^ 63 + (r.chunkState sel).code * 2 ^ 32 + r.chunkMap.getD sel 0 else 0
    | 0x050 => s.tasksWord p
    | _ => r.profWord o
  { v := w, rl := 0x100 ≤ o && o < 0x120, home := if 0x010 ≤ o && o < 0x028 then .shed else .fe }

/-! ### Engines and rounds (Tables 26.10, 26.11) -/

def State.plotWord (s : State) (k o : Nat) : RegWord :=
  let x := s.plotOf k
  let w : Nat := match o with
    | 0x00 => ((x.alloc.map (fun (p : Fin 64) => p.val)).getD 0) * 2 ^ 8 + b2n (s.lease? 1 k).isSome * 2 + b2n x.disabled
    | 0x08 => x.stall.toNat
    | 0x10 => x.eccCorrected.toNat
    | _ => 0
  { v := w, rl := o = 0x08, home := if o = 0x10 then .shed else .fe }

def State.bedWord (s : State) (k o : Nat) : RegWord :=
  let b := s.bed k
  let l := match s.lease? 2 k with
    | some l => some l
    | none => s.lease? 3 k
  let owner : Nat := match l.bind (fun (l : Lease) => l.owner) with
    | some p => p.val
    | none => 0
  let w : Nat := match o with
    | 0x00 => owner * 2 ^ 8 + b2n l.isSome * 4 + b2n b.katFail * 2 + b2n b.disabled
    | 0x08 => b.eccCorrected.toNat
    | _ => 0
  { v := w, home := if o = 0x08 then .shed else .fe }

/-- Context `c` of the Digest (0) or the AEAD engine (1). -/
def State.ctxWord (s : State) (aead : Nat) (c : Nat) : Nat :=
  match Tab.find? s.attest.contexts (16 * aead + c) with
  | none => 0
  | some (src, _) =>
    let agent : Nat := match src with
      | .part _ q => q.val
      | .cp k => k.val
      | .mgmt _ => 0
    agent * 2 ^ 16 + ownerByte (srcPart src) * 2 ^ 8 + 1

def RoundState.code (x : RoundState) : Nat := x.rank + 1

def State.roundWord (s : State) (e o : Nat) : RegWord :=
  let w : Nat := match s.round? e with
    | none => 0
    | some r => match o with
      | 0x00 => two r.id.toNat ((if r.policy.fabric then r.policy.trellis else 0) * 2 ^ 24 + b2n (s.mirroring e || r.shadow) * 2 ^ 18 +
          b2n r.policy.coded * 2 ^ 17 + b2n r.policy.fabric * 2 ^ 16 + r.part.val * 2 ^ 8 + r.state.code)
      | 0x08 => two r.shareInvalid.toNat (r.tokenEpoch.toNat * 2 ^ 16 + s.tokenFid r % 512)
      | 0x10 => r.policy.deadline
      | _ => 0
  { v := w, home := .fe }

def cellCode : CellState → Nat
  | .startup => 0
  | .healthy => 1
  | .retry => 2
  | .disabled => 3

def State.cellWord (s : State) (c o : Nat) : RegWord :=
  let x := Tab.get s.random.cells {} c
  match o with
  | 0x00 => { v := two (cellCode x.state) x.rctFail.toNat, home := .rng, hiHome := some .shed }
  | 0x08 => { v := x.aptFail.toNat, home := .shed }
  | _ => { v := 0, home := .rng }

/-! ### Graft, host interface, mailbox, gate, Work list (Tables 26.12 to 26.14) -/

def pairCode : PairState → Nat
  | .unpaired => 0
  | .mirroring => 1
  | .degraded => 2

def State.graftWord (s : State) (o : Nat) : RegWord :=
  let g : Graft := if s.paired then s.graft else { unmirrored := s.graft.unmirrored, witnessed := s.graft.witnessed }
  let w : Nat := match o with
    | 0x00 => two (g.port * 2 ^ 16 + b2n (g.role == .deposed) * 32 + b2n (g.role == .held) * 16 + roleCode g.role * 4 + pairCode g.state)
        (if s.paired then s.witnessOf g.witness * 2 ^ 16 + g.partner else 0)
    | 0x08 => two g.epoch.toNat g.unmirrored.toNat
    | 0x10 => g.witnessed.length
    | _ => 0
  { v := w, home := .fab }

def State.hifWord (s : State) (o : Nat) : RegWord :=
  let h := s.hif
  let w : Nat := match o with
    | 0x00 => b2n h.linkUp * 2 ^ 9 + b2n h.linkFlit * 2 ^ 8 + h.linkWidth * 2 ^ 4 + h.linkRate
    | 0x08 => h.windowBase
    | 0x10 => h.closedCount.toNat
    | 0x18 => two h.intStatus.toNat h.intQueue.toNat
    | _ => 0
  { v := w, rl := o = 0x10, home := .hif }

def State.mailWord (s : State) (o : Nat) : RegWord :=
  let m := s.mgmt
  let w : Nat := match o with
    | 0x00 => two m.alert.toNat m.alertEn.toNat
    | 0x08 => two m.discards.toNat (b2n m.i3c * 2 ^ 16 + m.dynAddr * 2 ^ 8 + m.staticAddr)
    | _ => 0
  { v := w, home := .shed }

/-- CP_RG_SLOT_s. [log 108 DEDUCED] -/
def State.gateWord (s : State) (k : Nat) : Nat :=
  match Tab.find? s.rounds.gate k with
  | none => 0
  | some g => ((srcPart g.src).map (fun (p : Fin 64) => p.val)).getD 0 * 2 ^ 8 + 1

def tileCode : TileState → Nat
  | .ready => 1
  | .claimed => 2
  | .draining => 3

/-- A tile's model ID, K, output slots used, accumulator mode and operand format (Table 14.3); K of a coded decode is the t of its product
(R357). -/
def State.tileSettings (s : State) (j : Job) (t : Tile) : Nat × Nat × Nat × Nat :=
  match j.kind with
  | .matmul => (j.word 1, j.word 2 + 2 ^ 32 * j.word 3, ceilDiv t.rows 128, bits (j.word 0) 7 0)
  | .reduceIdx => (0xFFFFFFFF, 0, 0, bits (j.word 0) 7 4)
  | .eltwise => (0xFFFFFFFF, 0, 0, bits (j.word 0) 7 4)
  | .coded e => (0xFFFFFFFF, ((s.round? e).map (fun (r : Round) => r.policy.threshold)).getD 0, ceilDiv t.rows 128, (s.specOf j).fmt.code)

/-- The opcode a job's command carries. -/
def jobOp : JobKind → Nat
  | .matmul => 0x0400
  | .reduceIdx => 0x0402
  | .eltwise => 0x0403
  | .coded _ => 0x0207

/-- A FREE descriptor: CLAIMER 0xFF and 0 elsewhere (Table 14.3). -/
def freeDesc : Bytes := zeros 5 ++ [0xFF]

/-- The 64 bytes of a descriptor; those of a cold-frame partition read 0 (R479). CMD_REF is the job's number. [log 108 DEDUCED] -/
def State.descBytes (s : State) (d : Nat) : Bytes :=
  match Tab.find? s.plot.tiles d with
  | none => freeDesc
  | some t => match s.job? t.job with
    | none => freeDesc
    | some j =>
      if s.isCold j.part then []
      else
        let (model, k, slots, mode) := s.tileSettings j t
        let claimer : Nat := match t.claimer with
          | some c => islandId (.plot c)
          | none => 0xFF
        leBytes 2 (jobOp j.kind) ++ [BitVec.ofNat 8 (tileCode t.state), BitVec.ofNat 8 (b2n t.returned * 2 + b2n j.realtime), BitVec.ofNat 8 j.part.val,
          BitVec.ofNat 8 claimer] ++ leBytes 2 t.claimEpoch.toNat ++ leBytes 4 j.serial ++ leBytes 4 t.tile ++ leBytes 4 t.row0 ++ leBytes 4 t.col0 ++
          leBytes 4 t.rows ++ leBytes 2 t.cols ++ [BitVec.ofNat 8 mode, BitVec.ofNat 8 slots] ++ leBytes 8 k ++ leBytes 4 model ++ leBytes 4 t.status ++
          leBytes 8 t.job

/-- Log 108 DEDUCED. -/
def State.wlWord (s : State) (o : Nat) : RegWord :=
  let part (k : Nat) : Fin 64 := Fin.ofNat 64 k
  let region (k : Nat) : Nat := (s.unitsOf (part k)).length
  let model (k : Nat) : Nat := (s.regionOf (part k)).2 * 2 ^ 16 + (s.regionOf (part k)).1
  let w : Nat :=
    if o < 0x100 then two (region (o / 4)) (region (o / 4 + 1))
    else if o < 0x200 then two (model ((o - 0x100) / 4)) (model ((o - 0x100) / 4 + 1))
    else if o = 0x200 then s.reg.wlSel
    else if 0x240 ≤ o && o < 0x280 then wordAt (s.descBytes s.reg.wlSel) (o - 0x240)
    else if o = 0x280 then (if s.running .fe then 65536 - s.plot.tiles.length else 0)
    else if 0x300 ≤ o && o < 0x500 then (s.unitsOf (part ((o - 0x300) / 8))).foldl (fun n u => n + 2 ^ u) 0
    else 0
  { v := w, home := .fe }

/-! ### Spetar (Tables 26.15, 26.16) -/

def downCode : PortState → Nat
  | .linkDown .los => 1
  | .linkDown .synthLock => 2
  | .linkDown .peerFault => 3
  | .linkDown .trainFail => 4
  | .linkDown .errorRate => 5
  | _ => 0

def portCode : PortState → Nat
  | .disabled => 0
  | .settling => 1
  | .training => 2
  | .active => 3
  | .calibrating => 4
  | .dazzled => 5
  | .portFenced => 6
  | .linkDown _ => 7

/-- A port's link is marked MISCABLED. -/
def State.portWord (s : State) (n o : Nat) : RegWord :=
  let p := s.port n
  let udid := fit 16 (p.peerUdid.getD [])
  let w : Nat := match o with
    | 0x00 => two (b2n p.enable) ((p.peerPort.getD 0) * 2 ^ 20 + b2n (isLocalPort n) * 2 ^ 9 + b2n (s.miscabled n) * 2 ^ 8 + downCode p.state * 16 +
        portCode p.state)
    | 0x08 => two (signedField 16 p.rxHigh) (signedField 16 p.rxPower1 * 2 ^ 16 + signedField 16 p.rxPower0)
    | 0x10 => wordAt udid 0
    | 0x18 => wordAt udid 8
    | 0x20 => two p.floodEvents.toNat p.retrains.toNat
    | 0x28 => two p.authFail.toNat (if p.state = .dazzled then p.backoffMs else 0)
    | 0x30 => p.fecCorrected.toNat
    | 0x38 => p.fecUncorrectable.toNat
    | 0x40 => p.naks.toNat
    | _ => 0
  { v := w, rl := o = 0x30 || o = 0x38, home := .oe (Fin.ofNat 4 (n / 4)) }

def State.calWord (s : State) (e : Nat) : Nat :=
  let x := s.oe e
  signedField 8 x.lastCalTemp * 2 ^ 8 + b2n x.calibrating.isSome * 4 + b2n x.locked * 2 + b2n (x.calRequested || x.calibrating.isSome)

def idWord : Option Nat → Nat
  | some f => 0x8000 + f % 512
  | none => 0

def State.fabWord (s : State) (o : Nat) : RegWord :=
  let x := s.spetar
  let deferred (e : Nat) : Nat := (s.oe e).calDeferred
  let w : Nat := match o with
    | 0x000 => two (idWord x.fid) (idWord x.fidReq)
    | 0x008 => two x.fidConflict.toNat (b2n x.encMode)
    | 0x010 => two x.encSlot s.trellis.refused.toNat
    | 0x018 => s.devices
    | 0x040 => two (s.calWord 0) (s.calWord 1)
    | 0x048 => two (s.calWord 2) (s.calWord 3)
    | 0x060 => two (deferred 0) (deferred 1)
    | 0x068 => two (deferred 2) (deferred 3)
    | _ => 0
  { v := w, home := .fab }

/-! ### Time, Shed slots, error logs, power (Tables 26.17 to 26.20) -/

def syncCode : SyncState → Nat
  | .master => 0
  | .locked => 1
  | .acquiring => 2
  | .holdover => 3

/-- CP_TIME_STATUS. -/
def TimeUnit.status (t : TimeUnit) : Nat :=
  let follows := t.state = .locked || t.state = .acquiring
  min 0xFFFF (ceilDiv t.errEst 100) * 2 ^ 48 + t.generation.toNat * 2 ^ 32 + b2n t.masterValid * 2 ^ 31 + (if t.masterValid then t.masterId % 512 else 0) * 2 ^ 16 +
    (if follows then t.parent.getD 0 else 0) * 2 ^ 12 + b2n t.enTod * 2 ^ 10 + b2n t.enPps * 2 ^ 9 + b2n t.en10m * 2 ^ 8 + b2n t.slew.isSome * 16 +
    b2n t.osc50 * 8 + b2n (!t.synthLocked) * 4 + syncCode t.state

/-- Which latches a requester has (R9). -/
def latchKey : Requester → Nat
  | .mgmtPort => 0
  | .fn f => 1 + fnNum f

/-- Log 45 DEDUCED. -/
def State.latches (s : State) (r : Requester) : Latches := Tab.get s.reg.latches {} (latchKey r)

def State.timeWord (s : State) (r : Requester) (o : Nat) : RegWord :=
  let t := s.time
  let asym (n : Nat) : Nat := signedField 32 (Tab.get t.asym 0 n)
  let w : Nat := match o with
    | 0x000 => s.now % 2 ^ 64
    | 0x008 => (s.latches r).fraction.toNat
    | 0x010 => t.status
    | 0x018 => two t.priority t.holdoverRate
    | 0x020 => signedField 64 (t.todOffsetNext.getD t.todOffset)
    | 0x028 => two t.utcOffset.toNat t.leap.toNat
    | 0x030 => t.outliers.toNat
    | _ => if 0x080 ≤ o && o < 0x0C0 then two (asym ((o - 0x080) / 4)) (asym ((o - 0x080) / 4 + 1)) else 0
  { v := w, rl := o = 0, home := .time }

/-- CP_SHED_SLOT of a slot: what KEY_INFO returns, and whether a partition has it as its attestation slot. -/
def State.slotWord (s : State) (n : Nat) : Nat :=
  let bound := List.any s.part.parts (fun (y : Nat × Partition) => y.2.slot == n)
  if n < 16 then
    match s.deviceSlotInfo n with
    | [use, len, st] => len / 2 ^ 16 * 2 ^ 32 + use / 2 ^ 8 % 2 ^ 8 * 2 ^ 24 + use % 2 ^ 5 * 2 ^ 16 + st
    | _ => 0
  else
    let r := s.slot n
    b2n (bound && r.state != .empty) * 2 ^ 40 + r.length * 2 ^ 32 + r.mask.toNat * 2 ^ 24 + r.usage.toNat * 2 ^ 16 + r.owner.val * 2 ^ 8 + r.state.code

/-- The 32 bytes of an error log entry (Table 25.5). -/
def ErrEntry.bytes (e : ErrEntry) : Bytes :=
  leBytes 2 e.seq.toNat ++ leBytes 2 e.count ++ [BitVec.ofNat 8 e.cls.code, BitVec.ofNat 8 e.cause.code, e.partition, e.island] ++
    leBytes 2 e.epoch.toNat ++ leBytes 2 e.status.toNat ++ leBytes 4 e.syndrome.toNat ++ leBytes 8 e.addr ++ leBytes 8 e.time

def State.errWord (s : State) (l o : Nat) : RegWord :=
  let g := Tab.get s.err.logs {} l
  let w : Nat :=
    if o = 0x00 then g.nextSeq.toNat * 2 ^ 32 + g.slots.length * 2 ^ 16 + g.lost.toNat
    else if o = 0x08 then two g.ceCount.toNat g.uceCount.toNat
    else if 0x20 ≤ o && o < 0x40 then wordAt ((g.first.map ErrEntry.bytes).getD []) (o - 0x20)
    else if 0x2000 ≤ o then wordAt (((Tab.find? g.slots ((o - 0x2000) / 32)).map ErrEntry.bytes).getD []) (o % 32)
    else 0
  { v := w, home := .shed }

def State.powerWord (s : State) (o : Nat) : RegWord :=
  let p := s.power
  let up := s.kelri.pf.valid
  let w : Nat := match o with
    | 0x00 => two p.opReq (p.powerLimit * 2 ^ 8 + p.thermalLimit * 2 ^ 4 + p.op)
    | 0x08 => two p.arrVreq (p.arrMeas % 2 ^ 10)
    | 0x10 => two p.cap p.gateIdle
    | 0x18 => two p.droop.toNat (if up then signedField 8 p.tj else 0)
    | 0x20 => if up then p.pkgPower % 2 ^ 16 else 0
    | _ => 0
  { v := w, home := .shed }

/-! ### The Kelri views (R96 to R104, R113) -/

/-- A block of a view: type, count, stride, size, base, capabilities, and the islands that hold its instances. -/
structure KelriBlock where
  type : Nat
  count : Nat
  stride : Nat
  size : Nat
  base : Nat
  caps : Nat
  homes : List Island

def plotIslands : List Island := allIslands.filter isPlot
def sowIslands : List Island := (List.range 32).map (fun k => Island.sow (Fin.ofNat 32 k))
def oeIslands : List Island := (List.range 4).map (fun k => Island.oe (Fin.ofNat 4 k))

/-- The blocks of the PF view (Table 3.5), `homes` the islands that hold an instance of each (R101). [log 108 DEDUCED, 170 DESIGN CHOICE] -/
def pfBlocks (debug : Bool) : List KelriBlock :=
  [{ type := 0x0001, count := 1, stride := 0, size := 0x10000, base := 0x010000, caps := 0x10400, homes := [.shed, .mgmt, .fe, .rng] },
   { type := 0x0002, count := 181, stride := 0x20, size := 0x20, base := 0x020000, caps := 0x3, homes := [.shed] },
   { type := 0x0003, count := 64, stride := 0x1000, size := 0x800, base := 0x040000, caps := if debug then 0x310 else 0x710, homes := [.fe, .shed] },
   { type := 0x0004, count := 1024, stride := 0x100, size := 0x100, base := 0x100000, caps := 0x30C1A, homes := [.fe] },
   { type := 0x0005, count := 64, stride := 0x8000, size := 0x8000, base := 0x200000, caps := 0x1, homes := [.fe] },
   { type := 0x0006, count := 64, stride := 0x1000, size := 0xC0, base := 0x040800, caps := 0x1, homes := [.fe] },
   { type := 0x0007, count := 128, stride := 0x40, size := 0x40, base := 0x400000, caps := 0x1FF, homes := plotIslands },
   { type := 0x0008, count := 32, stride := 0x40, size := 0x40, base := 0x404000, caps := 0x7F, homes := sowIslands },
   { type := 0x0009, count := 1, stride := 0, size := 0x40, base := 0x405000, caps := 0x8, homes := [.fe] },
   { type := 0x000A, count := 1024, stride := 0x40, size := 0x40, base := 0x410000, caps := 0x3, homes := [.fe] },
   { type := 0x000B, count := 16, stride := 0x40, size := 0x40, base := 0x420000, caps := 0xF, homes := [.agr] },
   { type := 0x000C, count := 2, stride := 0x400, size := 0x400, base := 0x421000, caps := 0x40F, homes := [.dig] }] ++
  [{ type := 0x000D, count := 8, stride := 0x40, size := 0x40, base := 0x422000, caps := 0x7, homes := [.rng] },
   { type := 0x000E, count := 256, stride := 0x8, size := 0x8, base := 0xB00000, caps := 0x710, homes := [.shed] },
   { type := 0x000F, count := 1, stride := 0, size := 0x1000, base := 0xA00000, caps := 0xF, homes := [.time] },
   { type := 0x0010, count := 16, stride := 0x100, size := 0x100, base := 0x800000, caps := 0x7, homes := oeIslands },
   { type := 0x0011, count := 1, stride := 0, size := 0x1000, base := 0x810000, caps := 0xF, homes := [.fab] },
   { type := 0x0012, count := 1, stride := 0, size := 0x40, base := 0x423000, caps := 0x1, homes := [.fab] },
   { type := 0x0013, count := 1, stride := 0, size := 0x100, base := 0x424000, caps := 0x1000007, homes := [.hif] },
   { type := 0x0014, count := 16, stride := 0x4000, size := 0x4000, base := 0xC00000, caps := 0x1, homes := [.shed] },
   { type := 0x0015, count := 1, stride := 0, size := 0x100, base := 0xF00000, caps := 0x7, homes := [.shed] },
   { type := 0x0016, count := 1, stride := 0, size := 0x40, base := 0x425000, caps := 0x1F, homes := [.shed] },
   { type := 0x0017, count := 1, stride := 0, size := 0x1000, base := 0x426000, caps := 0x10, homes := [.fe] },
   { type := 0x0018, count := 1, stride := 0, size := 0x100, base := 0x427000, caps := 0x7, homes := [.fe] }]

/-- The blocks of a partition view (Table 3.5). [log 108 DEDUCED, 170 DESIGN CHOICE] -/
def vfBlocks (debug : Bool) : List KelriBlock :=
  [{ type := 0x0003, count := 1, stride := 0, size := 0x1000, base := 0x01000, caps := if debug then 0x310 else 0x710, homes := [.fe, .time] },
   { type := 0x0004, count := 16, stride := 0x1000, size := 0x1000, base := 0x10000, caps := 0x30C1A, homes := [.fe] },
   { type := 0x0005, count := 4096, stride := 0x8, size := 0x8, base := 0x20000, caps := 0x1, homes := [.fe] },
   { type := 0x0006, count := 24, stride := 0x8, size := 0x8, base := 0x30000, caps := 0x1, homes := [.fe] },
   { type := 0x000D, count := 1, stride := 0, size := 0x10, base := 0x40000, caps := 0x7, homes := [.rng] },
   { type := 0x0013, count := 1, stride := 0, size := 0x40, base := 0x50000, caps := 0x10000F, homes := [.hif] }]

/-- PARTIAL and UNAVAILABLE of an entry (R101). -/
def State.blockFlags (s : State) (b : KelriBlock) : Nat :=
  let failed := (b.homes.filter (fun d => (s.island d).state == .resetFailed)).length
  if failed = 0 then 0 else if failed < b.homes.length then 1 else 2

def State.entryBytes (s : State) (b : KelriBlock) : Bytes :=
  leBytes 2 b.type ++ [0x10, BitVec.ofNat 8 (s.blockFlags b)] ++ leBytes 4 b.count ++ leBytes 4 b.stride ++ leBytes 4 b.size ++ leBytes 8 b.base ++
    leBytes 8 b.caps

/-- The entries of a view, whose capability bits are those of its build (R110). [log 134 DEDUCED] -/
def State.blocksOf (s : State) : Fn → List KelriBlock
  | .pf => pfBlocks s.kelri.pf.debug
  | .vf p => vfBlocks (s.viewOf (.vf p)).debug

/-- Header FLAGS (Table 3.4). -/
def State.viewFlags (s : State) (f : Fn) : Nat :=
  let bs := s.blocksOf f
  let v := s.viewOf f
  b2n s.shed.debug * 16 + b2n (bs.any (fun b => s.blockFlags b != 0)) * 8 + b2n v.coldFrame * 4 + b2n (f != .pf) * 2 + 1

/-- The header with its CHECKSUM given. [log 134 DEDUCED, 135 DEDUCED] -/
def State.viewHeader (s : State) (f : Fn) (sum : W32) : Bytes :=
  let n := (s.blocksOf f).length + 1
  let part : Nat := match f with
    | .pf => 0xFF
    | .vf p => p.val
  leBytes 4 0x4B454C52 ++ [1, 0] ++ leBytes 2 0x40 ++ leBytes 2 n ++ leBytes 2 0x20 ++ leBytes 4 (s.viewFlags f) ++ leBytes 4 0x40 ++
    leBytes 4 (64 + 32 * n) ++ leBytes 2 0x1F6E ++ leBytes 2 0xA512 ++ [0xB1, BitVec.ofNat 8 part] ++ leBytes 2 (idWord s.spetar.fid) ++
    fit 16 Config.udid ++ leBytes 4 (s.viewOf f).generation.toNat ++ leBytes 4 (s.viewOf f).fw.toNat ++ leBytes 4 sum.toNat ++ leBytes 4 0

/-- The bytes of a view; empty while it is not VALID, when every byte reads 0. -/
def State.viewBytes (s : State) (f : Fn) : Bytes :=
  if !(s.viewOf f).valid then []
  else
    let es := (s.blocksOf f).flatMap s.entryBytes ++ leBytes 2 0xFFFF ++ zeros 30
    s.viewHeader f (crc32 (s.viewHeader f 0 ++ es)) ++ es

/-! ### The two maps -/

/-- The word at an 8-aligned offset of PF BAR 0 (Table 26.1). -/
def State.pfWord (s : State) (r : Requester) (o : Nat) : RegWord :=
  let within (base len : Nat) : Bool := decide (base ≤ o) && decide (o < base + len)
  if o < 0x10000 then { v := wordAt (s.viewBytes .pf) o, home := .hif }
  else if o < 0x20000 then s.globalWord (o - 0x10000)
  else if within 0x20000 (181 * 0x20) then s.islandWord ((o - 0x20000) / 0x20) (o % 0x20)
  else if within 0x40000 0x40000 then
    let p : Fin 64 := Fin.ofNat 64 ((o - 0x40000) / 0x1000)
    let i := o % 0x1000
    if i < 0x800 then s.partWord p i
    else if i < 0x8C0 then { v := s.progress (24 * p.val + (i - 0x800) / 8), rl := true, home := .fe }
    else { v := 0, home := .fe }
  else if within 0x100000 0x40000 then s.queueWord ((o - 0x100000) / 0x100) (o % 0x100)
  else if within 0x200000 0x200000 then { v := (s.fence ((o - 0x200000) / 8)).toNat, rl := true, home := .fe }
  else if within 0x400000 0x2000 then s.plotWord ((o - 0x400000) / 0x40) (o % 0x40)
  else if within 0x404000 0x800 then s.bedWord ((o - 0x404000) / 0x40) (o % 0x40)
  else if within 0x405000 0x40 then
    { v := if o = 0x405000 then s.rounds.stagingGiB else if o = 0x405008 then two s.heldDescs s.stagingCount else 0, home := .fe }
  else if within 0x410000 0x10000 then s.roundWord ((o - 0x410000) / 0x40) (o % 0x40)
  else if within 0x420000 0x400 then
    { v := if o % 0x40 = 8 then (Tab.get s.reg.agrCounts 0 ((o - 0x420000) / 0x40)).toNat else 0, rl := o % 0x40 = 8, home := .agr }
  else if within 0x421000 0x800 then
    let c := o % 0x400 / 4
    { v := if c < 16 then two (s.ctxWord ((o - 0x421000) / 0x400) c) (s.ctxWord ((o - 0x421000) / 0x400) (c + 1)) else 0, home := .dig }
  else if within 0x422000 0x200 then s.cellWord ((o - 0x422000) / 0x40) (o % 0x40)
  else if within 0x423000 0x40 then s.graftWord (o - 0x423000)
  else if within 0x424000 0x100 then s.hifWord (o - 0x424000)
  else if within 0x425000 0x40 then s.mailWord (o - 0x425000)
  else if within 0x426000 0x1000 then s.wlWord (o - 0x426000)
  else if within 0x427000 0x100 then
    { v := if o < 0x427020 then two (s.gateWord ((o - 0x427000) / 4)) (s.gateWord ((o - 0x427000) / 4 + 1)) else 0, home := .fe }
  else if within 0x800000 0x1000 then s.portWord ((o - 0x800000) / 0x100) (o % 0x100)
  else if within 0x810000 0x1000 then s.fabWord (o - 0x810000)
  else if within 0xA00000 0x1000 then s.timeWord r (o - 0xA00000)
  else if within 0xB00000 0x800 then { v := s.slotWord ((o - 0xB00000) / 8), home := .shed }
  else if within 0xC00000 0x40000 then s.errWord ((o - 0xC00000) / 0x4000) (o % 0x4000)
  else if within 0xF00000 0x100 then s.powerWord (o - 0xF00000)
  else { v := 0, home := .shed }

/-- PARTITION_CFG of a VF (Table 27.2). -/
def State.ptCfg (s : State) (p : Fin 64) (o : Nat) : RegWord :=
  let r : Partition := (s.partition? p).getD {}
  let w : Nat := match o with
    | 0x000 => two ((s.roundsOf p).length * 2 ^ 24 + r.slot * 2 ^ 16 + b2n r.coldFrame * 2 ^ 8 + p.val) r.quota
    | 0x008 => two r.shareWord (s.unitsOf p).length
    | 0x010 => (s.regionOf p).2 * 2 ^ 16 + (s.regionOf p).1
    | 0x018 => two r.policy.floor (r.policy.cipher * 2 + b2n r.policy.noiseRequired)
    | 0x020 => two r.policy.sigmaNum r.policy.sigmaDen
    | 0x030 => s.now % 2 ^ 64
    | 0x038 => (s.latches (.fn (.vf p))).fraction.toNat
    | 0x040 => r.ptRoot.toNat
    | 0x048 => b2n r.tlbBusy.isSome
    | 0x050 => r.faultWord
    | 0x068 => r.chunkSelVf
    | 0x070 => if r.chunkSelVf < r.quota then 2 ^ 31 + (r.chunkState r.chunkSelVf).code else 0
    | 0x078 => (Tab.get s.q.fenceRefused 0 p.val).toNat
    | 0x080 => s.tasksWord p
    | _ => r.profWord o
  { v := w, rl := o = 0x030 || o = 0x050 || (0x100 ≤ o && o < 0x120), home := if o = 0x030 || o = 0x038 then .time else .fe }

/-- The word at an 8-aligned offset of a VF BAR 0 (Table 27.1). -/
def State.vfWord (s : State) (p : Fin 64) (o : Nat) : RegWord :=
  if !s.created p || s.flrActive p then { v := 0, home := .hif }
  else if o < 0x1000 then { v := wordAt (s.viewBytes (.vf p)) o, home := .hif }
  else if o < 0x2000 then s.ptCfg p (o - 0x1000)
  else if 0x10000 ≤ o && o < 0x20000 then s.doorbellWord p (Fin.ofNat 16 ((o - 0x10000) / 0x1000)) (o % 0x1000)
  else if 0x20000 ≤ o && o < 0x28000 then { v := (s.fence (fenceKey (some p) ((o - 0x20000) / 8))).toNat, rl := true, home := .fe }
  else if 0x30000 ≤ o && o < 0x300C0 then { v := s.progress (24 * p.val + (o - 0x30000) / 8), rl := true, home := .fe }
  else if o = 0x40008 then
    { v := b2n (s.random.underrun.contains p.val) * 2 ^ 31 + b2n s.random.serving * 2 ^ 30 + (Tab.get s.random.queues [] p.val).length, home := .rng }
  else if o = 0x50000 then { v := two (Tab.get s.hif.vfIntStatus 0 p.val).toNat (Tab.get s.hif.vfIntRounds 0 p.val).toNat, home := .hif }
  else { v := 0, home := .hif }

def State.regWord (s : State) (r : Requester) (o : Nat) : RegWord :=
  match r with
  | .fn (.vf p) => s.vfWord p o
  | _ => s.pfWord r o

/-- The part as a register of an island out of RUN shows it: reset values, but for fuses, straps, the flash and the VBAT domain
(R90, R871). -/
def State.resetView (s : State) : State :=
  { State.reset with
    isl := { tab := Tab.map (fun _ (r : IslandRec) => { r with state := .reset, stale := 0, drop := 0 }) s.isl.tab }
    spetar := { State.reset.spetar with fidReq := boardFid s.power.boardBlock }
    time := { State.reset.time with synthLocked := true }
    power := { State.reset.power with minSvnSeq := s.power.minSvnSeq, minSvnMgmt := s.power.minSvnMgmt }
    mgmt := { State.reset.mgmt with staticAddr := s.mgmt.staticAddr } }

/-- The reset value of the word at `o`. Of the slots only STATE is kept in the VBAT domain, that of slots 0 and 1 following the PUF root; of the
chunk owner every field's is 0 (Tables 26.4, 26.18). -/
def State.resetWord (s : State) (r : Requester) (o : Nat) : Nat :=
  let slot := (o - 0xB00000) / 8
  match r with
  | .fn (.vf p) => (s.resetView.vfWord p o).v
  | _ =>
    if o = 0x11010 then 0
    else if 0xB00000 ≤ o && o < 0xB00800 then (if slot < 2 then 0 else s.slotWord slot % 2 ^ 8)
    else (s.resetView.pfWord r o).v

/-- What an aligned 64-bit read finds, island states and the VALID of the Kelri table taken into account (R90, R152). -/
def State.regNow (s : State) (r : Requester) (o : Nat) : Nat :=
  let w := s.regWord r o
  let z := s.resetWord r o
  let lo := if s.regAnswers r w.home then w.v else z
  let hi := if s.regAnswers r (w.hiHome.getD w.home) then w.v else z
  two lo (hi / 2 ^ 32)

/-! ### Reads (R8 to R10, R81, R880, R889) -/

def isTimeNow (r : Requester) (o : Nat) : Bool :=
  match r with
  | .fn (.vf _) => o = 0x1030
  | _ => o = 0xA00000

def State.setLatches (s : State) (r : Requester) (l : Latches) : State :=
  { s with reg := { s.reg with latches := Tab.set s.reg.latches {} (latchKey r) l } }

/-- An aligned read of 4 or 8 bytes: what it returns, and the latches after it. [log 133 DEDUCED] -/
def State.readReg (s : State) (r : Requester) (o : Nat) (wide : Bool) : Nat × State :=
  let o8 := o / 8 * 8
  let v := s.regNow r o8
  let w := s.regWord r o8
  let now := isTimeNow r o8 && s.regAnswers r .time
  let l := s.latches r
  let l' : Latches := if now then { l with fraction := BitVec.ofNat 16 s.nowFraction } else l
  if wide then (v, s.setLatches r l')
  else if o % 8 = 0 then
    (v % 2 ^ 32, if w.rl then s.setLatches r { l' with high := w32 (v / 2 ^ 32) } else s)
  else if w.rl then (l.high.toNat, s)
  else (v / 2 ^ 32, s)

end Sys2Proof.Machine
end

