-- ==== Sys2Proof/Machine/RegWrite.lean ====
section
/-!
DEFINITION. Register reads and writes through the BARs (R81 to R90, R118 to R126, R147, R870 to R904), the memory window of PF BAR 2
and the configuration space of the part's own fields.
-/

namespace Sys2Proof.Machine
open Sys2Proof

/-! ### Requesters, BARs -/

def fnOf : Requester → Fn
  | .mgmtPort => .pf
  | .fn f => f

/-- Sizes of the register and MSI-X BARs (Table 4.4); 0 for a BAR that is not one of them. -/
def barSize (f : Fn) (bar : Nat) : Nat :=
  match f with
  | .pf => if bar = 0 then 2 ^ 26 else if bar = 4 then 2 ^ 16 else 0
  | .vf _ => if bar = 0 then 2 ^ 20 else if bar = 2 then 2 ^ 16 else 0

def pbByte : Requester → Byte
  | .fn (.vf p) => partByte (some p)
  | _ => 0xFE

/-- A register access error (R81). [log 110 DEDUCED] -/
def State.accessError (s : State) (r : Requester) (o : Nat) : State :=
  s.logErr 0 (s.regWord r (o / 8 * 8)).home (pbByte r) .protocol .regAccess o

/-- Answer a read: over the link for a function, on the port's own path for the Drinoner port. -/
def State.answerRead (s : State) (r : Requester) (v : Nat) : State :=
  match r with
  | .mgmtPort => { s with mgmt := { s.mgmt with out := s.mgmt.out ++ [.regs v] } }
  | .fn f => s.toHost (.readReply f v false)

/-- The storage behind an access holds an uncorrectable error. -/
def State.badWord (s : State) (f : Fn) (bar o : Nat) : Bool := s.reg.bad.contains { fn := fnNum f, bar := bar, word := o / 8 * 8 }

/-- A write makes the word good again. -/
def State.mendWord (s : State) (f : Fn) (bar o : Nat) : State :=
  { s with reg := { s.reg with bad := s.reg.bad.filter (fun b => b != { fn := fnNum f, bar := bar, word := o / 8 * 8 }) } }

/-- A host read that meets the error: a poisoned completion whose data are 0, and an entry in the error logs (R147). -/
def State.poisonedRead (s : State) (f : Fn) (home : Island) (o : Nat) : State :=
  (s.logErr 1 home (pbByte (.fn f)) .contained .sramUce o).toHost (.readReply f 0 true)

/-! ### The MSI-X structures (R127 to R129, R140) -/

/-- An aligned word of the MSI-X BAR: table entries of 16 bytes from 0, the pending bits from 0x8000; its reset value before the Kelri table is
VALID and while HIF is not in RUN (R90, R152), 0 in an FLR (R140). [log 111 PRESUMED] -/
def State.msixWord (s : State) (f : Fn) (o : Nat) : Nat :=
  let pend (v : Nat) : Bool := decide (v < vectorsOf f) && (Tab.get s.hif.msix {} (msixKey f v)).pending
  if s.inFlr f then 0
  else if !s.pfReaches .hif then (if o < 16 * vectorsOf f && o % 16 = 8 then two 0 1 else 0)
  else if o < 16 * vectorsOf f then
    let e := Tab.get s.hif.msix {} (msixKey f (o / 16))
    if o % 16 = 0 then e.addr.toNat else two e.data.toNat (b2n e.masked)
  else if 0x8000 ≤ o && o < 0x8000 + 32 then
    (List.range 64).foldl (fun n k => n + b2n (pend (8 * (o - 0x8000) + k)) * 2 ^ k) 0
  else 0

/-- Write 32 bits of an MSI-X table entry; clearing its mask sends what is pending (R129). -/
def State.msixPoke (s : State) (f : Fn) (o : Nat) (v : W32) : State :=
  let k := o / 16
  if vectorsOf f ≤ k then s
  else
    let e := Tab.get s.hif.msix {} (msixKey f k)
    let e' : MsixVector := match o % 16 with
      | 0 => { e with addr := BitVec.ofNat 64 (two v.toNat (e.addr.toNat / 2 ^ 32)) }
      | 4 => { e with addr := BitVec.ofNat 64 (two e.addr.toNat v.toNat) }
      | 8 => { e with data := v }
      | _ => { e with masked := v.getLsbD 0 }
    { s with hif := { s.hif with msix := Tab.set s.hif.msix {} (msixKey f k) e' } }.flushVector f k

/-! ### Reads -/

/-- A read of `bytes` at offset `o` of a BAR. One that meets an uncorrectable error of a Kelri view begins the view's rebuild (R113). -/
def State.barRead (s : State) (r : Requester) (bar o bytes : Nat) : State :=
  let f := fnOf r
  if r != .mgmtPort && !s.barAnswers f then s.unanswered
  else if barSize f bar ≤ o || (r == .mgmtPort && bar != 0) then s.logAer f .unsupportedRequest
  else if bar != 0 then
    if !alignedAccess o bytes then (s.accessError r o).answerRead r 0
    else if s.badWord f bar o && !s.inFlr f then s.poisonedRead f .hif o
    else
      let v := s.msixWord f (o / 8 * 8)
      s.answerRead r (if bytes = 8 then v else if o % 8 = 0 then v % 2 ^ 32 else v / 2 ^ 32)
  else if !alignedAccess o bytes then (s.accessError r o).answerRead r 0
  else if r != .mgmtPort && s.badWord f 0 o && !s.inFlr f && (!inView f o || (s.viewOf f).valid) then
    let s := s.poisonedRead f (s.regWord r (o / 8 * 8)).home o
    if inView f o then s.beginRebuild f else s
  else match r with
    | .fn (.vf p) =>
      if o / 8 * 8 = 0x40000 then s.randomPortRead p (o - 0x40000) (bytes = 8)
      else (s.readReg r o (bytes = 8)).2.answerRead r (s.readReg r o (bytes = 8)).1
    | _ => (s.readReg r o (bytes = 8)).2.answerRead r (s.readReg r o (bytes = 8)).1

/-- RL_READ: a read of a register; one of an RL low half copies the high half into the requester's latch (R8 to R10). -/
def actRlRead (r : Requester) (bar : Nat) (offset : Nat) (bytes : Nat) (s : State) : State :=
  (s.barRead r bar offset bytes)

def execRlRead (r : Requester) (bar : Nat) (offset : Nat) (bytes : Nat) (s : State) : Host.Outcome State Fault Refusal :=
  s.conclude (actRlRead r bar offset bytes s)

/-- RANDOM_PORT_READ: a read of the random port of a VF's BAR. -/
def actRandomPortRead (p : Fin 64) (offset : Nat) (wide : Bool) (s : State) : State :=
  s.barRead (.fn (.vf p)) 0 (0x40000 + offset) (if wide then 8 else 4)

def execRandomPortRead (p : Fin 64) (offset : Nat) (wide : Bool) (s : State) : Host.Outcome State Fault Refusal :=
  s.conclude (actRandomPortRead p offset wide s)

/-- TIME_NOW_READ: a read of fabric time copies the fraction into the requester's fraction latch (R880, R889). -/
def actTimeNowRead (r : Requester) (wide : Bool) (s : State) : State :=
  let o : Nat := match r with
    | .fn (.vf _) => 0x1030
    | _ => 0xA00000
  (s.barRead r 0 o (if wide then 8 else 4))

def execTimeNowRead (r : Requester) (wide : Bool) (s : State) : Host.Outcome State Fault Refusal := s.conclude (actTimeNowRead r wide s)

/-! ### Writes of single registers -/

/-- A 64-bit register after a 32-bit write of the half at `o` (R83). -/
def halfOf (old o : Nat) (v : W32) : Nat := if o % 8 = 0 then two v.toNat (old / 2 ^ 32) else two old v.toNat

/-- Do `k` where island `d` runs; elsewhere the write is discarded and counted (R90). -/
def State.atHome (s : State) (d : Island) (k : State → State) : State := if s.running d then k s else s.dropWrite d

def State.modReg (s : State) (f : RegUnit → RegUnit) : State := { s with reg := f s.reg }

def State.modHif (s : State) (f : Hif → Hif) : State := { s with hif := f s.hif }

/-- TAMPER_EN: W1S (R711). -/
def State.writeTamperEn (s : State) (v : W32) : State :=
  { s with shed := { s.shed with tamperIn := s.shed.tamperIn || v.getLsbD 0, tamperInHigh := s.shed.tamperInHigh || v.getLsbD 1 } }

/-- Writing 0xFF to ENTRIES clears the tamper log (R711). -/
def State.clearTamper (s : State) (v : W32) : State :=
  if v.toNat % 256 = 0xFF then { s with shed := { s.shed with tamperLog := [] } } else s

/-- CLEAR of CP_ERRLOG_STATUS empties a log, its first copy and its counts (R853); NEXT_SEQ goes on. [log 112 DEDUCED] -/
def State.clearLog (s : State) (l : Nat) (v : W32) : State :=
  if v.getLsbD 31 then
    let old := Tab.get s.err.logs {} l
    let new : ErrLog := { nextSeq := old.nextSeq }
    { s with err := { s.err with logs := Tab.set s.err.logs {} l new } }
  else s

/-- Log 112 DEDUCED. -/
def State.writeThreshold (s : State) (v : W32) : State :=
  let n := bits v.toNat 15 0
  if n = 0 then s else { s with err := { s.err with ceThreshold := n } }

/-- A new end of the control range covers only chunks of the free pool, and gives chunks back to it (R648). -/
def State.writeCpChunks (s : State) (v : W32) : State :=
  let n := bits v.toNat 12 0
  let gained := (List.range (n - s.part.cpChunks)).map (· + s.part.cpChunks)
  if 4096 < n || gained.any (fun c => !s.inFreePool c) then s else { s with part := { s.part with cpChunks := n } }

/-- A write of CP_BED_HOT_TARGET, 2^20 to 2^40 bytes; it acts at the next interval boundary (ch. 8, Limits). -/
def State.writeHot (s : State) (n : Nat) : State :=
  let n := n % 2 ^ 41
  if n < 2 ^ 20 || 2 ^ 40 < n then s
  else { s with rounds := { s.rounds with hotOld := s.hotInForce, hotTarget := n, hotFrom := s.nextBoundary } }

/-- A write of CP_BED_REVISE_INTERVAL, 1 to 1,000 ms; it acts at the next interval boundary (ch. 8, Limits). -/
def State.writeInterval (s : State) (n : Nat) : State :=
  if n = 0 || 1000 < n then s
  else { s with rounds := { s.rounds with reviseOld := s.reviseNs / 1000000, reviseMs := n, reviseFrom := s.nextBoundary } }

def State.writeFePage (s : State) (o : Nat) (v : W32) : State :=
  let n := v.toNat
  match o with
  | 0x1000 => s.writeCpChunks v
  | 0x1008 => s.modReg (fun g => { g with chunkSel := bits n 16 0 })
  | 0x1018 => if 32 < bits n 5 0 then s else { s with q := { s.q with rtReserve := bits n 5 0 } }
  | 0x1020 => { s with rounds := { s.rounds with autoRevise := bit n 0 } }
  | 0x1024 => s.writeInterval (bits n 9 0)
  | 0x1028 => s.writeHot (halfOf s.rounds.hotTarget o v)
  | 0x102C => s.writeHot (halfOf s.rounds.hotTarget o v)
  | 0x1040 =>
    if n / 2 ^ 24 = 0 || n / 2 ^ 24 = 4 then s.modReg (fun g => { g with leaseClass := n / 2 ^ 24, leaseIndex := bits n 23 0 }) else s
  | _ => s

/-- Ring bases are 4 KiB aligned; ring settings change only while the queue is settable (R198, R200). -/
def State.writeRingSetting (s : State) (src : Source) (f : Queue → Queue) : State := if (s.queue src).settable then s.modQueue src f else s

def baseOf (n : Nat) : W64 := BitVec.ofNat 64 (n / 4096 * 4096)

/-- FENCE: the tail fence and the fence to own. -/
def Queue.writeFence (q : Queue) (v : W32) : Queue :=
  { q with ownEn := v.getLsbD 31, ownFence := bits v.toNat 27 16, tailFenceNo := bits v.toNat 11 0 }

def State.writeCpq (s : State) (k : Fin 16) (o : Nat) (v : W32) : State :=
  let src := Source.cp k
  let q := s.queue src
  let cmd (r : Queue) : Queue := { r with cmdBase := baseOf (halfOf q.cmdBase.toNat o v) }
  let cq (r : Queue) : Queue := { r with cqBase := baseOf (halfOf q.cqBase.toNat o v) }
  match o with
  | 0x00 => s.ctrlWrite (.cp k) v.toNat
  | 0x04 => s.writeRingSetting src (fun r => r.writeFence v)
  | 0x08 => s.writeRingSetting src cmd
  | 0x0C => s.writeRingSetting src cmd
  | 0x10 => s.writeRingSetting src cq
  | 0x14 => s.writeRingSetting src cq
  | 0x18 => s.modQueue src (fun r => r.writeTail v)
  | 0x1C => s.setCqHead src v
  | _ => s

/-- A write in the doorbell page of a queue (Table 27.5). -/
def State.writeDoorbell (s : State) (p : Fin 64) (n : Fin 16) (o : Nat) (v : W32) : State :=
  let src := Source.part p n
  let q := s.queue src
  let cmd (r : Queue) : Queue := { r with cmdBase := baseOf (halfOf q.cmdBase.toNat o v) }
  let cq (r : Queue) : Queue := { r with cqBase := baseOf (halfOf q.cqBase.toNat o v) }
  match o with
  | 0x000 => s.modQueue src (fun r => r.writeTail v)
  | 0x004 => s.setCqHead src v
  | 0x018 => s.ctrlWrite (.part p n) v.toNat
  | 0x01C => s.writeRingSetting src (fun r => r.writeFence v)
  | 0x020 => s.writeRingSetting src cmd
  | 0x024 => s.writeRingSetting src cmd
  | 0x028 => s.writeRingSetting src cq
  | 0x02C => s.writeRingSetting src cq
  | _ => s

/-! ### Policy (Table 19.6, R878) -/

def Policy.setFloor (x : Policy) (cold : Bool) (n : Nat) : Policy := if n < 100 || (cold && n < x.floor) then x else { x with floor := n }

/-- The sigma pair written at one instant. [log 109 DEDUCED] -/
def Policy.setSigma (x : Policy) (cold : Bool) (num den : Nat) : Policy :=
  if den = 0 || (cold && sigmaBelow num den x.sigmaNum x.sigmaDen) then x else { x with sigmaNum := num, sigmaDen := den }

def Policy.setNoise (x : Policy) (cold : Bool) (b : Bool) : Policy := if cold && !b then x else { x with noiseRequired := b }

def Policy.setCipher (x : Policy) (n : Nat) : Policy := if 1 < n then x else { x with cipher := n }

def State.modPolicy (s : State) (p : Fin 64) (f : Policy → Bool → Policy) : State :=
  s.atHome .shed (fun s => s.modPartition p (fun r => { r with policy := f r.policy r.coldFrame }))

/-- A 32-bit write in the control plane's page of a partition. -/
def State.writePart (s : State) (p : Fin 64) (o : Nat) (v : W32) : State :=
  let n := v.toNat
  match o with
  | 0x010 => s.modPolicy p (fun x cold => x.setFloor cold n)
  | 0x018 => s.modPolicy p (fun x cold => if cold then x else x.setSigma false n x.sigmaDen)
  | 0x01C => s.modPolicy p (fun x cold => if cold then x else x.setSigma false x.sigmaNum n)
  | 0x020 => s.modPolicy p (fun x cold => x.setNoise cold (bit n 0))
  | 0x024 => s.modPolicy p (fun x _ => x.setCipher n)
  | 0x040 => s.atHome .fe (fun s => s.modReg (fun g => { g with partSel := Tab.set g.partSel 0 p.val (bits n 16 0) }))
  | _ => s

/-! ### Riddle staging, model regions, the host interface -/

/-- CP_RIDDLE_STAGING: taken only while no round is INGESTING and enough chunks are free (R251). -/
def State.writeStaging (s : State) (v : W32) : State :=
  let g := bits v.toNat 4 0
  let ingesting := List.any s.rounds.table (fun (y : Nat × Round) => y.2.state == .ingesting)
  if g = 0 || 16 < g || ingesting then s
  else (s.reserveStaging g).getD s

/-- CP_MODEL_REGION: a range within the IDs that meets no other partition's, while the partition holds no resident model (R484). [log 127 DEDUCED] -/
def State.writeModelRegion (s : State) (p : Fin 64) (v : W32) : State :=
  let base := bits v.toNat 13 0
  let count := bits v.toNat 30 16
  let meets (y : Nat × Nat × Nat) : Bool :=
    y.1 != p.val && decide (base < y.2.1 + y.2.2) && decide (y.2.1 < base + count) && decide (0 < count) && decide (0 < y.2.2)
  let resident := List.any s.plot.models (fun (y : Nat × Model) => y.2.owner == p)
  if resident || 16384 < base + count || List.any s.plot.modelRegion meets then s
  else { s with plot := { s.plot with modelRegion := Tab.insert s.plot.modelRegion p.val (base, count) } }

/-- CP_HIF_WINDOW_BASE: bits [37:30], a multiple of the size of BAR 2 (R125). -/
def State.writeWindow (s : State) (n : Nat) : State :=
  let b := bits n 37 30 * 2 ^ 30
  if b % 2 ^ s.hif.bar2Log2 = 0 then s.modHif (fun h => { h with windowBase := b }) else s

def State.writeHif (s : State) (o : Nat) (v : W32) : State :=
  match o with
  | 0x08 => s.writeWindow (halfOf s.hif.windowBase o v)
  | 0x0C => s.writeWindow (halfOf s.hif.windowBase o v)
  | 0x18 => s.modHif (fun h => { h with intStatus := h.intStatus &&& ~~~v })
  | 0x1C => s.modHif (fun h => { h with intQueue := h.intQueue &&& ~~~(BitVec.ofNat 16 v.toNat) })
  | _ => s

def State.writeMailbox (s : State) (o : Nat) (v : W32) : State :=
  let b : Byte := BitVec.ofNat 8 v.toNat
  match o with
  | 0x00 => s.modMgmt (fun m => { m with alert := m.alert &&& ~~~b })
  | 0x04 => s.modMgmt (fun m => { m with alertEn := b })
  | _ => s

/-! ### Links, fabric, time, power -/

/-- A signed 16-bit or 32-bit field. -/
def asSigned (n v : Nat) : Int := if v < 2 ^ (n - 1) then (v : Int) else (v : Int) - 2 ^ n

/-- CP_SPETAR_RX_HIGH: −10.0 to +5.0 dBm. -/
def State.writeRxHigh (s : State) (n : Nat) (v : W32) : State :=
  let l := asSigned 16 (bits v.toNat 15 0)
  if l < -100 || 50 < l then s else s.modPort n (fun p => { p with rxHigh := l })

def State.writeFab (s : State) (o : Nat) (v : W32) : State :=
  let n := v.toNat
  let x := s.spetar
  match o with
  | 0x004 => { s with spetar := { x with fidReq := if bit n 15 then some (bits n 8 0) else none } }
  | 0x00C => { s with spetar := { x with encMode := bit n 0 } }
  | 0x010 => { s with spetar := { x with encSlot := bits n 7 0 } }
  | _ => s

/-- The TOD offset is taken at the next pulse boundary after a TOD frame (R426). -/
def State.writeTod (s : State) (n : Nat) : State := s.modTime (fun t => { t with todOffsetNext := some (asSigned 64 n), todOffsetDue := false })

/-- Log 112 DEDUCED. -/
def State.writeTime (s : State) (o : Nat) (v : W32) : State :=
  let n := v.toNat
  let tod := signedField 64 (s.time.todOffsetNext.getD s.time.todOffset)
  match o with
  | 0x018 => s.modTime (fun t => { t with priority := bits n 7 0 })
  | 0x01C => s.modTime (fun t => { t with errBasePs := t.errEst, errSince := t.now, holdoverRate := bits n 15 0 })
  | 0x020 => s.writeTod (halfOf tod o v)
  | 0x024 => s.writeTod (halfOf tod o v)
  | 0x028 => s.modTime (fun t => { t with utcOffset := BitVec.ofNat 16 n })
  | 0x02C => s.modTime (fun t => { t with leap := BitVec.ofNat 2 n })
  | _ =>
    if 0x080 ≤ o && o < 0x0C0 then
      let a := asSigned 32 n
      if a < -10000 || 10000 < a then s else s.modTime (fun t => { t with asym := Tab.set t.asym 0 ((o - 0x080) / 4) a })
    else s

def State.writePower (s : State) (o : Nat) (v : W32) : State :=
  let n := v.toNat
  match o with
  | 0x00 =>
    if 4 < bits n 2 0 then s
    else
      if s.power.mainHeld then { s with power := { s.power with opReq := bits n 2 0 } } else s.followOp (fun p => { p with opReq := bits n 2 0 })
  | 0x10 => if bits n 8 0 < 150 || 380 < bits n 8 0 then s else { s with power := { s.power with cap := bits n 8 0 } }
  | 0x14 => { s with power := { s.power with gateIdle := bits n 15 0 } }
  | _ => s

/-! ### The two maps -/

/-- A 32-bit write at a 4-aligned offset of PF BAR 0 (Table 26.1). -/
def State.pokePf (s : State) (o : Nat) (v : W32) : State :=
  let within (base len : Nat) : Bool := decide (base ≤ o) && decide (o < base + len)
  if within 0x10000 0x1000 then
    match o with
    | 0x10024 => s.atHome .shed (fun s => s.writeTamperEn v)
    | 0x10028 => s.atHome .shed (fun s => s.clearTamper v)
    | 0x10030 => s.atHome .shed (fun s => s.writeThreshold v)
    | _ => s
  else if within 0x11000 0x1000 then s.atHome .fe (fun s => s.writeFePage (o - 0x10000) v)
  else if within 0x16000 0x1000 then s.atHome .fe (fun s => s.writeCpq (Fin.ofNat 16 ((o - 0x16000) / 0x100)) (o % 0x100) v)
  else if within 0x40000 0x40000 then s.writePart (Fin.ofNat 64 ((o - 0x40000) / 0x1000)) (o % 0x1000) v
  else if within 0x100000 0x40000 then
    let k := (o - 0x100000) / 0x100
    if o % 0x100 = 0 then (actQueueClassWrite (Fin.ofNat 64 (k / 16)) (Fin.ofNat 16 k) v s) else s
  else if o = 0x405000 then s.atHome .fe (fun s => s.writeStaging v)
  else if within 0x424000 0x100 then s.atHome .hif (fun s => s.writeHif (o - 0x424000) v)
  else if within 0x425000 0x40 then s.atHome .shed (fun s => s.writeMailbox (o - 0x425000) v)
  else if within 0x426000 0x100 then
    s.atHome .fe (fun s => (actWlRegionWrite (Fin.ofNat 64 ((o - 0x426000) / 4)) v s))
  else if within 0x426100 0x100 then s.atHome .fe (fun s => s.writeModelRegion (Fin.ofNat 64 ((o - 0x426100) / 4)) v)
  else if o = 0x426200 then s.atHome .fe (fun s => s.modReg (fun g => { g with wlSel := bits v.toNat 15 0 }))
  else if within 0x800000 0x1000 then
    let n := (o - 0x800000) / 0x100
    let d : Island := .oe (Fin.ofNat 4 (n / 4))
    if o % 0x100 = 0 then s.portAccess n v else if o % 0x100 = 8 then s.atHome d (fun s => s.writeRxHigh n v) else s
  else if within 0x810040 0x10 then (actCalNow (Fin.ofNat 4 ((o - 0x810040) / 4)) v s)
  else if within 0x810000 0x1000 then s.atHome .fab (fun s => s.writeFab (o - 0x810000) v)
  else if within 0xA00000 0x1000 then s.atHome .time (fun s => s.writeTime (o - 0xA00000) v)
  else if within 0xC00000 0x40000 then
    if o % 0x4000 = 0 then s.atHome .shed (fun s => s.clearLog ((o - 0xC00000) / 0x4000) v) else s
  else if within 0xF00000 0x100 then s.atHome .shed (fun s => s.writePower (o - 0xF00000) v)
  else s

/-- An aligned 64-bit write of PF BAR 0: the registers that span 64 bits, and the sigma pair, are written at one instant; elsewhere
the high half goes before the low one. [log 109 DEDUCED] -/
def State.pokePf64 (s : State) (o : Nat) (v : W64) : State :=
  let n := v.toNat
  let lo := w32 n
  let hi := w32 (n / 2 ^ 32)
  if 0x40000 ≤ o && o < 0x80000 && o % 0x1000 = 0x018 then
    s.modPolicy (Fin.ofNat 64 ((o - 0x40000) / 0x1000)) (fun x cold => x.setSigma cold (n % 2 ^ 32) (n / 2 ^ 32))
  else if o = 0x11028 then s.atHome .fe (fun s => s.writeHot n)
  else if o = 0x424008 then s.atHome .hif (fun s => s.writeWindow n)
  else if o = 0xA00020 then s.atHome .time (fun s => s.writeTod n)
  else (s.pokePf (o + 4) hi).pokePf o lo

/-- A 32-bit write of a VF BAR 0 (Table 27.1) whose partition is open. -/
def State.pokeVf (s : State) (p : Fin 64) (o : Nat) (v : W32) : State :=
  let n := v.toNat
  if 0x1000 ≤ o && o < 0x2000 then
    match o with
    | 0x1040 => (actPtPartPtRoot p (BitVec.ofNat 64 (halfOf (((s.partition? p).map (fun (r : Partition) => r.ptRoot.toNat)).getD 0) o v)) s)
    | 0x1044 => (actPtPartPtRoot p (BitVec.ofNat 64 (halfOf (((s.partition? p).map (fun (r : Partition) => r.ptRoot.toNat)).getD 0) o v)) s)
    | 0x1048 => (actPtPartTlbInval p v s)
    | 0x1058 => (actPtPartFaultClear p v s)
    | 0x1060 => (actPtPartChunkRelease p v s)
    | 0x1068 => s.atHome .fe (fun s => s.modPartition p (fun r => { r with chunkSelVf := bits n 16 0 }))
    | _ => s
  else if 0x10000 ≤ o && o < 0x20000 then
    s.atHome .fe (fun s => s.writeDoorbell p (Fin.ofNat 16 ((o - 0x10000) / 0x1000)) (o % 0x1000) v)
  else if o = 0x40008 then
    s.atHome .rng (fun s => if v.getLsbD 31 then { s with random := { s.random with underrun := s.random.underrun.filter (· != p.val) } } else s)
  else if o = 0x50000 then
    s.atHome .hif (fun s => s.modHif (fun h => { h with vfIntStatus := Tab.set h.vfIntStatus 0 p.val (Tab.get h.vfIntStatus 0 p.val &&& ~~~v) }))
  else if o = 0x50008 then
    s.atHome .hif (fun s => s.modHif (fun h =>
      { h with vfIntRounds := Tab.set h.vfIntRounds 0 p.val (Tab.get h.vfIntRounds 0 p.val &&& ~~~(BitVec.ofNat 16 n)) }))
  else s

/-- An aligned 64-bit write of a VF BAR 0: a fence by its window, the page-table root and ring bases whole, CQ_HEAD before TAIL
(R895, R896). [log 109 DEDUCED] -/
def State.pokeVf64 (s : State) (p : Fin 64) (o : Nat) (v : W64) : State :=
  if 0x20000 ≤ o && o < 0x28000 then (actFenceWindowWrite p ((o - 0x20000) / 8) true v s)
  else if o = 0x1040 then (actPtPartPtRoot p v s)
  else (s.pokeVf p (o + 4) (w32 (v.toNat / 2 ^ 32))).pokeVf p o (w32 v.toNat)

/-- What the Drinoner port may write: policy, the CLEAR of an error log, the tamper log's W1C (R665, R711, R853). [log 110 DEDUCED] -/
def portMayWrite (o : Nat) : Bool :=
  (decide (0x40000 ≤ o) && decide (o < 0x80000) && decide (0x010 ≤ o % 0x1000) && decide (o % 0x1000 < 0x028)) ||
  (decide (0xC00000 ≤ o) && decide (o < 0xC40000) && o % 0x4000 = 0) || o = 0x10028

/-- A doorbell write is one of a PT_DOORBELL_TAIL (R892). -/
def isDoorbell (o : Nat) : Bool := decide (0x10000 ≤ o) && decide (o < 0x20000) && o % 0x1000 = 0

/-- The islands out of a requester's reach that house a register a write touches; each once. -/
def State.shutHomes (s : State) (r : Requester) (o bytes : Nat) : List Island :=
  let assigned : Nat → Bool := match r with
    | .fn (.vf _) => vfAssigned
    | _ => pfAssigned
  let w := s.regWord r (o / 8 * 8)
  let half (a : Nat) : List Island :=
    if assigned a then [if a % 8 = 0 then w.home else w.hiHome.getD w.home] else []
  ((half o ++ if bytes = 8 then half (o + 4) else []).eraseDups).filter (fun d => !s.regAnswers r d)

/-- Make a register write where its islands answer; else it is discarded and counted once in each that does not (R90). Where the two
halves of a 64-bit word have different homes, both are read-only. -/
def State.ifHome (s : State) (r : Requester) (o bytes : Nat) (k : State → State) : State :=
  match s.shutHomes r o bytes with
  | [] => k s
  | ds => ds.foldl State.dropWrite s

/-- A write of `bytes` at offset `o` of a BAR. -/
def State.barWrite (s : State) (r : Requester) (bar o bytes : Nat) (v : W64) : State :=
  let f := fnOf r
  let lo := w32 v.toNat
  if r != .mgmtPort && !s.barAnswers f then s.unanswered
  else if barSize f bar ≤ o || (r == .mgmtPort && bar != 0) then s.logAer f .unsupportedRequest
  else if !alignedAccess o bytes then s.accessError r o
  else if bar != 0 then
    if s.inFlr f then s
    else if !s.pfReaches .hif then s.dropWrite .hif
    else
      let s := s.mendWord f bar o
      if bytes = 8 then (s.msixPoke f (o + 4) (w32 (v.toNat / 2 ^ 32))).msixPoke f o lo
      else s.msixPoke f o lo
  else match r with
    | .mgmtPort =>
      if !portMayWrite o then s else s.ifHome r o bytes (fun s => if bytes = 8 then s.pokePf64 o v else s.pokePf o lo)
    | .fn .pf => s.ifHome r o bytes (fun s => let s := s.mendWord f 0 o; if bytes = 8 then s.pokePf64 o v else s.pokePf o lo)
    | .fn (.vf p) =>
      if !s.created p || s.flrActive p then (if isDoorbell o then s.closedDoorbell else s)
      else s.ifHome r o bytes (fun s => let s := s.mendWord f 0 o; if bytes = 8 then s.pokeVf64 p o v else s.pokeVf p o lo)

/-- REGISTER_WRITE. -/
def actRegisterWrite (r : Requester) (bar : Nat) (offset : Nat) (bytes : Nat) (v : W64) (s : State) : State :=
  (s.barWrite r bar offset bytes v)

def execRegisterWrite (r : Requester) (bar : Nat) (offset : Nat) (bytes : Nat) (v : W64) (s : State) : Host.Outcome State Fault Refusal :=
  s.conclude (actRegisterWrite r bar offset bytes v s)

/-- ERRLOG_CLEAR: a write of CP_ERRLOG_STATUS, by the PF or the Drinoner port (R853). -/
def actErrlogClear (r : Requester) (log : Fin 16) (v : W32) (s : State) : State :=
  s.barWrite r 0 (0xC00000 + 0x4000 * log.val) 4 (v.setWidth 64)

def execErrlogClear (r : Requester) (log : Fin 16) (v : W32) (s : State) : Host.Outcome State Fault Refusal := s.conclude (actErrlogClear r log v s)

/-- TAMPER_LOG_CLEAR: a write of CP_SHED_TAMPER_STATUS, by the PF or the Drinoner port (R711). -/
def actTamperLogClear (r : Requester) (v : W32) (s : State) : State := s.barWrite r 0 0x10028 4 (v.setWidth 64)

def execTamperLogClear (r : Requester) (v : W32) (s : State) : Host.Outcome State Fault Refusal := s.conclude (actTamperLogClear r v s)

/-! ### DIAG_LIVE_READ (R805) -/

def specDiagLiveRead : OpSpec :=
  { code := 0x0F00, callC := true, callM := true, used := [0, 1],
    checks := [.word 0 .badParam (fun v => v % 4 != 0), .word 0 .range (fun v => 2 ^ 26 ≤ v), .word 1 .range (fun v => v == 0 || 4 < v)] }

/-- Words read one by one as 32-bit reads, in ascending offset. [log 114 DEDUCED] -/
def State.liveWords (s : State) (r : Requester) (o : Nat) : Nat → List Nat × State
  | 0 => ([], s)
  | n + 1 =>
    let (v, s) := s.readReg r o false
    let (l, s) := s.liveWords r (o + 4) n
    (v :: l, s)

/-- Aligned pairs read as 64-bit reads, the latch of R8 left as it is. -/
def State.livePairs (s : State) (r : Requester) (o : Nat) : Nat → List Nat × State
  | 0 => ([], s)
  | n + 1 =>
    let (v, s) := s.readReg r o true
    let (l, s) := s.livePairs r (o + 8) n
    (v % 2 ^ 32 :: v / 2 ^ 32 :: l, s)

/-- A caller M reads as the Drinoner port, a caller C as the PF. [log 114 DEDUCED] -/
def bodyDiagLiveRead : Body := fun c s =>
  let r : Requester := match c.src with
    | .mgmt _ => .mgmtPort
    | _ => .fn .pf
  let (l, s) := if c.w 1 % 2 = 0 && c.w 0 % 8 = 0 then s.livePairs r (c.w 0) (c.w 1 / 2) else s.liveWords r (c.w 0) (c.w 1)
  okRes l s

def execDiagLiveRead (src : Source) (pkt : Packet) (s : State) : Host.Outcome State Fault Refusal :=
  runRow specDiagLiveRead bodyDiagLiveRead src pkt s

/-! ### The memory window (R125, R126) -/

/-- A chunk that BAR 2 does not show: round-private memory, the staging pool, or the quota of a cold partition. A quota chunk is
round-private while a round of the partition holds it (R660). [log 138 DEDUCED] -/
def State.closedChunk (s : State) (c : Nat) : Bool :=
  s.isStaging c || (match s.quotaOf c with
    | none => false
    | some (p, k) => match s.partition? (Fin.ofNat 64 p) with
      | none => false
      | some r => r.coldFrame || List.any s.rounds.table (fun (y : Nat × Round) => y.2.part.val == p && y.2.chunks.contains k))

/-- A range cut at chunk bounds: address and length of each part. -/
def chunkParts (a len : Nat) : List (Nat × Nat) :=
  (chunksOf a len).map (fun c =>
    let lo := max a (c * chunkBytes)
    (lo, min (a + len) ((c + 1) * chunkBytes) - lo))

/-- What a read of the window finds: zeros in closed chunks. A bad line makes the whole completion poisoned, with no data (R147). [log 113 DEDUCED] -/
def State.windowRead (s : State) (a len : Nat) : Option Bytes × State :=
  let shown := (chunkParts a len).filter (fun y => !s.closedChunk (y.1 / chunkBytes))
  match s.consumeLines 0xFE (shown.flatMap (fun y => linesOf y.1 y.2)) with
  | (some _, s) => (none, s)
  | (none, s) =>
    (some ((chunkParts a len).flatMap (fun y => if s.closedChunk (y.1 / chunkBytes) then zeros y.2 else memRead s.part.mem y.1 y.2)), s)

/-- Log 113 DEDUCED. -/
def State.windowWrite (s : State) (a : Nat) (d : Bytes) : State :=
  (chunkParts a d.length).foldl (fun s y => if s.closedChunk (y.1 / chunkBytes) then s else s.writePhys y.1 (slice d (y.1 - a) y.2)) s

/-- BAR2_ACCESS: a read, or a write of `data`, of `len` bytes through PF BAR 2. [log 113 DEDUCED] -/
def actBar2Access (offset : Nat) (len : Nat) (data : Option Bytes) (s : State) : State :=
  let n := match data with
    | some d => d.length
    | none => len
  if !s.barAnswers .pf then s.unanswered
  else if 2 ^ s.hif.bar2Log2 < offset + n then s.logAer .pf .unsupportedRequest
  else if !s.pfReaches .fe then
    match data with
    | some _ => s.dropWrite .fe
    | none => (s.toHost (.readReply .pf 0 false))
  else
    let a := s.hif.windowBase + offset
    let s := if (chunksOf a n).any s.closedChunk then s.closedDoorbell else s
    match data with
    | some d => (s.windowWrite a d)
    | none => match s.windowRead a n with
      | (some b, s) => (s.toHost (.readReply .pf (leNat b) false))
      | (none, s) => (s.toHost (.readReply .pf 0 true))

def execBar2Access (offset : Nat) (len : Nat) (data : Option Bytes) (s : State) : Host.Outcome State Fault Refusal :=
  s.conclude (actBar2Access offset len data s)

/-! ### Configuration space (R118 to R122, R151) -/

/-- Subsystem Vendor ID and Subsystem ID: from the board parameter block, else 0x1F6E and 0. -/
def State.subsystem (s : State) : Nat := if boardGood s.power.boardBlock then leNat (slice s.power.boardBlock 4 4) else 0x1F6E

/-- The size field of PF BAR 2: 2^n MiB. -/
def Hif.barSizeField (h : Hif) : Nat := h.bar2Log2 - 20

def log2Of : Nat → Nat → Nat
  | 0, _ => 0
  | fuel + 1, n => if n ≤ 1 then 0 else 1 + log2Of fuel (n / 2)

/-- Device Control: error reporting enables [3:0], Enable Relaxed Ordering [4], Max_Payload_Size [7:5], Extended Tag Field Enable [8],
Max_Read_Request_Size [14:12]. [log 111 PRESUMED] -/
def Hif.deviceControl (h : Hif) : Nat :=
  log2Of 16 (h.maxReadReq / 128) * 2 ^ 12 + b2n h.extTag * 2 ^ 8 + log2Of 16 (h.maxPayload / 128) * 2 ^ 5 + b2n h.relaxedOrdering * 16 +
    h.errEnables.toNat

/-- A BAR register: for a 64-bit BAR of `size` bytes, the low half gives the base with the memory type and the prefetchable bit, the
half above it the base's upper bits (R123, Table 4.4); 0 where there is no BAR. -/
def barWord (base : W64) (size : Nat) (prefetch : Bool) (high : Bool) : Nat :=
  if size = 0 then 0
  else
    let a := base.toNat / size * size
    if high then a / 2 ^ 32 else a % 2 ^ 32 + b2n prefetch * 8 + 4

/-- The size of the BAR that BAR register `n` of the PF belongs to; that of BAR 2 is as the host set it (R125). -/
def Hif.pfBarSize (h : Hif) (n : Nat) : Nat := if n / 2 = 1 then 2 ^ h.bar2Log2 else barSize .pf (n / 2 * 2)

/-- Write one half of a BAR's base. -/
def Hif.setBar (h : Hif) (k n : Nat) (v : W32) : Hif :=
  let key := k + n / 2 * 2
  let old := (Tab.get h.bars 0 key).toNat
  let new := if n % 2 = 0 then two v.toNat (old / 2 ^ 32) else two old v.toNat
  { h with bars := Tab.set h.bars 0 key (BitVec.ofNat 64 new) }

/-- Device Status of a function: the errors it detected, and Transactions Pending. [log 111 PRESUMED] -/
def State.deviceStatus (s : State) (f : Fn) : Nat :=
  (Tab.get s.hif.aer {} (fnNum f)).detected.toNat +
    32 * b2n (List.any s.hif.reads (fun (y : Nat × HostRead) => y.2.fn == f && !y.2.expired))

/-- A double word of a control register and, above it, a status register. -/
def two16 (lo hi : Nat) : Nat := lo % 2 ^ 16 + 2 ^ 16 * hi

/-- What a field of a function's configuration space reads (Table 4.3). [log 111 PRESUMED] -/
def State.cfgValue (s : State) (f : Fn) (g : CfgField) : Nat :=
  let pf := f == .pf
  match g with
  | .vendorDevice => if pf then 0xA5121F6E else 0xFFFFFFFF
  | .revisionClass => 0x120000B1
  | .headerType => 0
  | .subsystem => s.subsystem
  | .interruptPin => 0
  | .sriovVfs => if pf then two 64 0 + 64 * 2 ^ 16 else 0
  | .sriovDevice => if pf then 0xA513 else 0
  | .sriovPages => if pf then 0x11 else 0
  | .numVfs => if pf then s.hif.numVfs else 0
  | .deviceCaps => 2 + 2 ^ 5 + 2 ^ 15 + (if pf then 0 else 2 ^ 28)
  | .deviceCaps2 => 2 + 2 ^ 16 + 2 ^ 17
  | .deviceControl => if pf then s.hif.deviceControl else 0
  | .deviceControl2 => if pf then s.hif.cplTimeout.toNat + b2n s.hif.tag10 * 2 ^ 12 else 0
  | .bar2Size => if pf then s.hif.barSizeField * 2 ^ 8 + 2 ^ 5 + 2 else 0
  | .bar2Sizes => if pf then 0x007FC000 else 0
  | .msixControl =>
    b2n (Tab.get s.hif.msixEnable false (fnNum f)) * 2 ^ 31 + b2n (Tab.get s.hif.msixFnMask false (fnNum f)) * 2 ^ 30 + (vectorsOf f - 1) * 2 ^ 16
  | .dvsec => if pf then 0x01001F6E else 0
  | .dvsecId => if pf then 1 else 0
  | .dvsecBody => 0
  | .firstVfOffset => if pf then 1 + 2 ^ 16 else 0
  | .bar n => if pf then barWord (Tab.get s.hif.bars 0 (n.val / 2 * 2)) (s.hif.pfBarSize n.val) (n.val / 2 = 1) (n.val % 2 = 1) else 0
  | .vfBar n => if pf then barWord (Tab.get s.hif.bars 0 (8 + n.val / 2 * 2)) (barSize (.vf 0) (n.val / 2 * 2)) false (n.val % 2 = 1) else 0
  | .pmCapability => if pf then 0x00030001 else 0
  | .pmControl => if pf then 8 + (if s.hif.d3hot then 3 else 0) else 0
  | .aerCapability => 0x00020001
  | .aerUncorrectable => (Tab.get s.hif.aer {} (fnNum f)).uncorrectable.toNat
  | .aerCorrectable => (Tab.get s.hif.aer {} (fnNum f)).correctable.toNat
  | .aerSeverity => if pf then s.hif.pcie.severity.toNat else 0
  | .aerUncorrectableMask => if pf then s.hif.pcie.uncMask.toNat else 0
  | .aerCorrectableMask => if pf then s.hif.pcie.corMask.toNat else 0
  | .acsCapability => if pf then 0x0001000D else 0
  | .ariCapability => 0x0001000E
  | .pcieCapabilities => 0x80020010
  | .deviceStatus => s.deviceStatus f
  | .linkCaps => 0x00400086
  | .linkControlStatus => if pf then two16 s.hif.pcie.linkControl.toNat (2 ^ 12 + 16 * s.hif.linkWidth + s.hif.linkRate) else 0
  | .linkCaps2 => 0x7E
  | .linkControlStatus2 => if pf then two16 s.hif.pcie.linkControl2.toNat (b2n s.hif.linkFlit * 2 ^ 10) else 0
  | .sriovCapabilities => if pf then 6 else 0
  | .sriovControlStatus => if pf then s.hif.pcie.sriovControl.toNat + b2n s.hif.vfEnable else 0
  | .systemPageSize => if pf then s.hif.pcie.pageSize.toNat else 0

/-- Resize BAR 2, clearing the low bits of the window base (R125). -/
def Hif.resize (h : Hif) (field : Nat) : Hif :=
  if field < 10 || 18 < field then h
  else { h with bar2Log2 := field + 20, windowBase := h.windowBase / 2 ^ (field + 20) * 2 ^ (field + 20) }

/-- Device Control of the PF. A payload above 512 B is taken as 512 B, a read request above 4,096 B as 4,096 B. -/
def Hif.setControl (h : Hif) (n : Nat) : Hif :=
  { h with
    maxPayload := 128 * 2 ^ min 2 (bits n 7 5)
    maxReadReq := 128 * 2 ^ min 5 (bits n 14 12)
    relaxedOrdering := bit n 4
    extTag := bit n 8
    errEnables := BitVec.ofNat 4 n }

/-- Write 1 to clear the bits of a function's AER status registers. -/
def Hif.clearAer (h : Hif) (f : Fn) (uncorrectable correctable : W32) : Hif :=
  let l := Tab.get h.aer {} (fnNum f)
  let l : AerLog := { l with uncorrectable := l.uncorrectable &&& ~~~uncorrectable, correctable := l.correctable &&& ~~~correctable }
  { h with aer := Tab.set h.aer {} (fnNum f) l }

/-- The AER errors that a mask or the severity register has a bit for, and the correctable ones. -/
def uncorrectableBits : W32 := 0x00577030

def correctableBits : W32 := 0x000031C1

def State.modPcie (s : State) (f : PcieRegs → PcieRegs) : State := s.modHif (fun h => { h with pcie := f h.pcie })

/-- Write 1 to clear the error bits of Device Status. -/
def Hif.clearDetected (h : Hif) (f : Fn) (v : W32) : Hif :=
  let l := Tab.get h.aer {} (fnNum f)
  { h with aer := Tab.set h.aer {} (fnNum f) { l with detected := l.detected &&& ~~~(v.setWidth 4) } }

/-- A write of a register that only the PF has. -/
def State.cfgWritePf (s : State) (g : CfgField) (v : W32) : State :=
  let n := v.toNat
  match g with
  | .deviceControl => s.modHif (fun h => h.setControl n)
  | .deviceControl2 => s.modHif (fun h => { h with cplTimeout := BitVec.ofNat 4 n, tag10 := bit n 12 })
  | .bar k => s.modHif (fun h => h.setBar 0 k.val v)
  | .vfBar k => s.modHif (fun h => h.setBar 8 k.val v)
  | .pmControl => if bits n 1 0 = 0 || bits n 1 0 = 3 then s.modHif (fun h => { h with d3hot := bit n 0 }) else s
  | .bar2Size => s.modHif (fun h => h.resize (bits n 13 8))
  | .numVfs => s.setVfs s.hif.vfEnable (n % 2 ^ 16)
  | .sriovControlStatus => (s.modPcie (fun p => { p with sriovControl := v.setWidth 16 &&& 0x0038 })).setVfs (bit n 0) s.hif.numVfs
  | .systemPageSize => if n = 1 || n = 16 then s.modPcie (fun p => { p with pageSize := v }) else s
  | .linkControlStatus => s.modPcie (fun p => { p with linkControl := v.setWidth 16 &&& 0x00CB })
  | .linkControlStatus2 => s.modPcie (fun p => { p with linkControl2 := v.setWidth 16 &&& 0x000F })
  | .aerUncorrectableMask => s.modPcie (fun p => { p with uncMask := v &&& uncorrectableBits })
  | .aerCorrectableMask => s.modPcie (fun p => { p with corMask := v &&& correctableBits })
  | .aerSeverity => s.modPcie (fun p => { p with severity := v &&& uncorrectableBits })
  | _ => s

/-- A configuration write; fields not writable ignore it. Completion Timeout settings are held and change nothing (R122). [log 111 PRESUMED] -/
def State.cfgWrite (s : State) (f : Fn) (g : CfgField) (v : W32) : State :=
  let n := v.toNat
  match g with
  | .aerUncorrectable => s.modHif (fun h => h.clearAer f v 0)
  | .aerCorrectable => s.modHif (fun h => h.clearAer f 0 v)
  | .deviceStatus => s.modHif (fun h => h.clearDetected f v)
  | .msixControl =>
    (s.modHif (fun h => { h with
      msixFnMask := Tab.set h.msixFnMask false (fnNum f) (bit n 30), msixEnable := Tab.set h.msixEnable false (fnNum f) (bit n 31) })).flushVectors f
  | g => if f = .pf then s.cfgWritePf g v else s

/-- A configuration request: nothing while PERST_N is asserted, Request Retry Status until configuration space is ready, then
its answer (R150, R151). -/
def actConfigurationRequest (f : Fn) (g : CfgField) (v : Option W32) (s : State) : State :=
  let present : Bool := match f with
    | .pf => true
    | .vf p => s.vfPresent p
  if s.power.mainHeld then s
  else if !s.hif.configReady then (s.toHost (.retryStatus f))
  else if !present then (s.logAer .pf .unsupportedRequest)
  else match v with
    | some x => ((s.cfgWrite f g x).toHost (.cfgDone f))
    | none => (s.toHost (.readReply f (s.cfgValue f g) false))

def execConfigurationRequest (f : Fn) (g : CfgField) (v : Option W32) (s : State) : Host.Outcome State Fault Refusal :=
  s.conclude (actConfigurationRequest f g v s)

end Sys2Proof.Machine
end

