-- ==== Sys2Proof/Machine/Bodies.lean ====
section
/-!
DEFINITION. Every opcode's specification and body under its opcode, for packets that come from a ring, the Drinoner port or a mirror
item rather than by their row (Tables 5.5 to 5.17).
-/

namespace Sys2Proof.Machine
open Sys2Proof

/-- An opcode's value checks and its stages 4 and 5. -/
abbrev CmdRow := OpSpec × Body

/-- Class 0x00. -/
def rows00 : List CmdRow :=
  [(specNop, bodyNop), (specFenceWait, bodyFenceWait), (specFenceSignal, bodyFenceSignal),
   (specSignalRemote, bodySignalRemote), (specRingJump, bodyRingJump), (specResidentStart, bodyResidentStart),
   (specResidentPost, bodyResidentPost), (specResidentStop, bodyResidentStop), (specBarrier, bodyBarrier)]

/-- Class 0x01. -/
def rows01 : List CmdRow :=
  [(specCopy, bodyCopy), (specFill, bodyFill), (specScrub, bodyScrub), (specHostPull, bodyHostPull),
   (specHostPush, bodyHostPush)]

/-- Class 0x02. -/
def rows02 : List CmdRow :=
  [(specRoundOpen, bodyRoundOpen), (specRoundLayout, bodyRoundLayout), (specIngestBind, bodyIngestBind),
   (specHarvest, bodyHarvest), (specSharesSubmit, bodySharesSubmit), (specRevealCombine, bodyRevealCombine),
   (specUnmask, bodyUnmask), (specCodedDecode, bodyCodedDecode), (specSeal, bodySeal), (specRelease, bodyRelease),
   (specRoundAbort, bodyRoundAbort), (specPlacementRevise, bodyPlacementRevise)]

/-- Class 0x03. -/
def rows03 : List CmdRow :=
  [(specExpand, bodyExpand)]

/-- Class 0x04. -/
def rows04 : List CmdRow :=
  [(specMatmul, bodyMatmul), (specRouteTopk, bodyRouteTopk), (specReduceIdx, bodyReduceIdx), (specEltwise, bodyEltwise),
   (specModelLoad, bodyModelLoad), (specPlacementSet, bodyPlacementSet)]

/-- Class 0x05. -/
def rows05 : List CmdRow :=
  [(specFabDiscover, bodyFabDiscover), (specFabRoutes, bodyFabRoutes), (specWindowOpen, bodyWindowOpen),
   (specWindowClose, bodyWindowClose), (specRmaWrite, bodyRmaWrite), (specRmaRead, bodyRmaRead), (specRmaAdd, bodyRmaAdd),
   (specTrellisForm, bodyTrellisForm), (specTrellisReduce, bodyTrellisReduce)]

/-- Class 0x06. -/
def rows06 : List CmdRow :=
  [(specKeyWrite, bodyKeyWrite), (specKeyDerive, bodyKeyDerive), (specKeyErase, bodyKeyErase), (specKeyInfo, bodyKeyInfo),
   (specAeadSeal, bodyAeadSeal), (specAeadOpen, bodyAeadOpen)]

/-- Class 0x07. -/
def rows07 : List CmdRow :=
  [(specDigest, bodyDigest), (specProve, bodyProve), (specAttestReport, bodyAttestReport),
   (specWeightsLoad, bodyWeightsLoad)]

/-- Class 0x08. -/
def rows08 : List CmdRow :=
  [(specRandomFill, bodyRandomFill), (specRandomReseed, bodyRandomReseed), (specRandomPersonalize, bodyRandomPersonalize),
   (specNoiseFill, bodyNoiseFill)]

/-- Class 0x09. -/
def rows09 : List CmdRow :=
  [(specPartCreate, bodyPartCreate), (specPartDestroy, bodyPartDestroy), (specPartShares, bodyPartShares),
   (specShears, bodyShears), (specIslandReset, bodyIslandReset), (specColdFrameEnter, bodyColdFrameEnter)]

/-- Class 0x0A. -/
def rows0A : List CmdRow :=
  [(specTimeSet, bodyTimeSet), (specTimeAlarm, bodyTimeAlarm), (specTimeOutputs, bodyTimeOutputs)]

/-- Class 0x0B. -/
def rows0B : List CmdRow :=
  [(specGraftPair, bodyGraftPair), (specGraftUnpair, bodyGraftUnpair), (specGraftTakeover, bodyGraftTakeover)]

/-- Class 0x0C. -/
def rows0C : List CmdRow :=
  [(specFwStage, bodyFwStage), (specFwActivate, bodyFwActivate)]

/-- Class 0x0F. -/
def rows0F : List CmdRow :=
  [(specDiagLiveRead, bodyDiagLiveRead), (specDiagEcho, bodyDiagEcho)]

def rowsOfClass (k : Nat) : List CmdRow :=
  match k with
  | 0x00 => rows00
  | 0x01 => rows01
  | 0x02 => rows02
  | 0x03 => rows03
  | 0x04 => rows04
  | 0x05 => rows05
  | 0x06 => rows06
  | 0x07 => rows07
  | 0x08 => rows08
  | 0x09 => rows09
  | 0x0A => rows0A
  | 0x0B => rows0B
  | 0x0C => rows0C
  | 0x0F => rows0F
  | _ => []

/-- The row of an opcode, if the table gives it (R171). -/
def rowOf (op : Nat) : Option CmdRow := (rowsOfClass (op / 256)).find? (fun y => y.1.code == op)

end Sys2Proof.Machine
end

