-- ==== Sys2Proof/Machine/Sequencers.lean ====
section
/-!
DEFINITION. What the sequencers do with queues and commands: slot fetch from device and host rings, readiness, dispatch slots,
completion records (R174, R184 to R191, R199 to R211, R215, R235, R616, R935).
-/

namespace Sys2Proof.Machine
open Sys2Proof

/-! ### Slot fetch -/

/-- `n` slots are fetched; a RING_JUMP used up returns fetch to the ring. -/
def Queue.advance (q : Queue) (n : Nat) : Queue :=
  match q.jump with
  | some j => { q with jump := if j.left ≤ n then none else some { addr := j.addr + 64 * n, left := j.left - n } }
  | none => { q with head := q.head + BitVec.ofNat 32 n }

/-- A RING_JUMP not yet completed decides where the next slot lies. -/
def State.jumpPending (s : State) (src : Source) : Bool := (s.cmdsOf src).any (fun c => c.readable && c.pkt.header.op == 0x0004 && !c.phase.isDone)

/-- Take a packet of `n` slots that was read whole. -/
def State.takePacket (s : State) (src : Source) (n : Nat) (b : Bytes) : State :=
  let inJump := (s.queue src).jump.isSome
  let pkt := packetOf b
  ((s.modQueue src (fun q => q.advance n)).fetchPacket ((rowOf pkt.header.op.toNat).map (fun y => y.1)) src pkt inJump).2

/-- A KEY_WRITE read from a control-plane ring in device memory leaves zeros in its packet bytes 0x30 to 0x5F (R694). [log 42 DEDUCED] -/
def State.scrubKeySlots (s : State) (src : Source) (b : Bytes) (a a2 : Nat) : State :=
  match src with
  | .cp _ =>
    if (packetOf b).header.op == 0x0600 && isBig b && (s.queue src).cmdLoc == .device then (s.writePhys (a + 0x30) (zeros 16)).writePhys a2 (zeros 32)
    else s
  | _ => s

/-- Take a packet whose fetch met bad data: it completes at once, under the tag of R190. -/
def State.takeBad (s : State) (src : Source) (n : Nat) (st : Status) : State :=
  let (id, s) := (s.modQueue src (fun q => q.advance n)).accept src { hdr := 0, params := [] } false
  s.complete src id st []

/-- A fetch that faults stops the queue at the slot that faulted, whose ring address is the entry's ADDR (R191, R235). [log 142 DESIGN CHOICE] -/
def State.fetchFault (s : State) (src : Source) (a : Nat) : State :=
  (s.modQueue src (fun q => { q with stop := .fetchFault, fetching := none })).logErr 3 .fe (srcPartByte src) .contained .queueFault a

/-- Fetch from device memory: the first slot, and the second one of a 128-byte packet once it is offered. A packet whose second slot faults
stays at HEAD whole. [log 142 DESIGN CHOICE] -/
def State.fetchDevice (s : State) (src : Source) : State :=
  match (s.queue src).offered with
  | [] => s
  | a :: rest =>
    match s.readSlot src a with
    | (.error .translationFault, s) => s.fetchFault src a
    | (.error st, s) => s.takeBad src 1 st
    | (.ok b, s) =>
      if !isBig b then s.takePacket src 1 b
      else match rest with
        | [] => s
        | a2 :: _ =>
          match s.readSlot src a2 with
          | (.error .translationFault, s) => s.fetchFault src a2
          | (.error st, s) => s.takeBad src 2 st
          | (.ok b2, s) => (s.scrubKeySlots src b a a2).takePacket src 2 (b ++ b2)

/-- Read a slot of a host ring. -/
def State.askSlot (s : State) (q : QueueId) (a : Nat) (first : Bytes) : State :=
  let src := queueSrc q
  if s.readRoom (srcFn src) = 0 then s
  else
    let t := s.nextRead (srcFn src)
    (s.issueRead (srcFn src) a 64 (.slot q first)).modQueue src (fun r => { r with fetching := some t })

def State.fetchHost (s : State) (q : QueueId) : State :=
  let r := s.queue (queueSrc q)
  if r.fetching.isSome then s
  else match r.offered with
    | [] => s
    | a :: _ => s.askSlot q a []

/-- QUEUE_FETCH: the next available slot of a queue, where the queue is enabled, runs, and has room for a command (R193, R204). Jumped-to
slots lie in device memory. -/
def actQueueFetch (q : QueueId) (s : State) : State :=
  let src := queueSrc q
  if !s.fetchable src || s.jumpPending src || !s.running .fe then s
  else if (s.queue src).cmdLoc = .host && (s.queue src).jump.isNone then (s.fetchHost q)
  else (s.fetchDevice src)

def execQueueFetch (q : QueueId) (s : State) : Host.Outcome State Fault Refusal := s.conclude (actQueueFetch q s)

/-- A slot of a host ring arrives under tag `t`: it is dropped where the queue no longer waits for it. -/
def State.slotArrives (s : State) (q : QueueId) (t : Nat) (first data : Bytes) : State :=
  let src := queueSrc q
  let r := s.queue src
  if r.fetching ≠ some t then s
  else
    let s := s.modQueue src (fun r => { r with fetching := none })
    if !r.enable || r.stop != .none then s
    else if !first.isEmpty then s.takePacket src 2 (first ++ data)
    else if !isBig data then s.takePacket src 1 data
    else match r.offered with
      | _ :: a2 :: _ => s.askSlot q a2 data
      | _ => s.modQueue src (fun r => { r with half := some r.head })

/-- A slot read under tag `t` fails. -/
def State.slotFails (s : State) (q : QueueId) (t : Nat) (first : Bytes) (a : Nat) (st : Status) : State :=
  let src := queueSrc q
  let r := s.queue src
  if r.fetching ≠ some t then s
  else
    let s := s.modQueue src (fun r => { r with fetching := none })
    if !r.enable || r.stop != .none then s
    else if st = .poisoned then s.takeBad src (if first.isEmpty then 1 else 2) .poisoned
    else s.fetchFault src a

/-! ### Readiness (R157, R161, R215) -/

/-- WAIT_SATISFIED: a command at stage 2 becomes ready, or a FENCE_WAIT or BARRIER completes, once what it waits for holds. -/
def actWaitSatisfied (src : Source) (id : Nat) (s : State) : State :=
  match s.cmd? src id with
  | none => s
  | some c => match c.phase with
    | .waiting => if (s.waitKind c).isNone then (s.modCmd src id (fun c => { c with phase := .ready })) else s
    | .executing (.fenceWait k v) => if v ≤ (s.fence k).toNat then (s.complete src id .ok []) else s
    | .executing (.barrier qs) => if s.barrierHolds src id qs then s else (s.complete src id .ok [])
    | _ => s

def execWaitSatisfied (src : Source) (id : Nat) (s : State) : Host.Outcome State Fault Refusal := s.conclude (actWaitSatisfied src id s)

/-! ### Dispatch (R195, R208 to R210, R791) -/

/-- An uncorrectable error met in partition `p`'s chunk map: PART_DESTROY, with the cause on PF vector 0 (R679). [log 28 DESIGN CHOICE, 30 DEDUCED] -/
def State.mapFailed (s : State) (p : Fin 64) : State :=
  ({ s with part := { s.part with mapUce := s.part.mapUce.erase p.val } }.destroyPartition p).raisePf .hif

/-- Whether a command's partition has a chunk map that cannot be read. -/
def State.mapBad (s : State) (src : Source) : Option (Fin 64) :=
  (srcPart src).bind (fun p => if s.part.mapUce.contains p.val then some p else none)

/-- One slot of a sequencer goes to the command or the task step that R208 to R210 choose; with none ready it stays empty. A command whose
partition's chunk map holds an uncorrectable error finds it, and the partition is destroyed (R679). [log 30 DEDUCED] -/
def State.dispatchSlot (s : State) (csq : Nat) : State :=
  match s.slotChoice csq with
  | none => s.passSlot csq 0 0
  | some (x, k) =>
    let s := s.giveSlot csq x k
    match x with
    | .task t => s.runStep t
    | .cmd c =>
      match s.mapBad c.src, rowOf c.pkt.header.op.toNat with
      | some p, _ => s.mapFailed p
      | none, none => s
      | none, some (sp, body) => s.runCmd sp body c

/-- DISPATCH: an M command of the AUX domain that waits behind what the Shed or MGMT was doing goes first, outside the slots and whatever
state FE is in (R192); then one slot of the sequencer goes, while FE runs. [log 43 DEDUCED] -/
def actDispatch (csq : Fin 4) (s : State) : State :=
  let aux : Option (Cmd × OpSpec × Body) :=
    if csq.val = 0 then s.readyAux.bind (fun c => (rowOf c.pkt.header.op.toNat).map (fun y => (c, y))) else none
  match aux with
  | some (c, sp, body) => s.runCmd sp body c
  | none => if s.running .fe then s.dispatchSlot csq.val else s

def execDispatch (csq : Fin 4) (s : State) : Host.Outcome State Fault Refusal := s.conclude (actDispatch csq s)

/-! ### Completion (R159, R174, R205, R206, R616, R790) -/

/-- Write the next record of a completed command; a HELD primary writes none of a round command. -/
def State.recordCmd (s : State) (c : Cmd) (st : Status) (res : List W32) (time : Nat) : State :=
  match c.src with
  | .mgmt t => s.keepPending t c st res time
  | _ =>
    if s.graft.role = .held && c.pkt.header.op.toNat / 256 == 2 then s
    else
      let e := s.roundOfCmd c
      let s := s.writeNextRecord c.src c st res time
      match e with
      | some e => if (s.cmd? c.src c.id).isNone then s.closeIfAborted e else s
      | none => s

/-- COMMAND_COMPLETION: the engine work of a command ends where nothing else ends it, or the record, signal and interrupt of the
completed command that is next in its queue's completion order are made. -/
def actCommandCompletion (src : Source) (id : Nat) (s : State) : State :=
  match s.cmd? src id with
  | none => s
  | some c => match c.phase with
    | .executing (.discover t) => if s.discoveryDue (.discover t) then s.endDiscovery else s
    | .executing (.stage t b) => (s.endStage c t b)
    | .executing .activate => (s.endActivate c)
    | .executing (.keyStore n o u m l g k) => (s.endKeyStore src id n o u m l g k)
    | .executing (.keyErase n) => (s.endKeyErase src id n)
    | .executing (.combine e n) => (s.endCombine c e n)
    | .executing (.route _ b) => (s.endRoute c b)
    | .executing (.coldFrame p) => (s.coldReady c p)
    | .done _ st res time =>
      let s := s.countDone c
      if (s.nextDone src).any (fun d => d.id == id) then (s.recordCmd c st res time) else s
    | _ => s

def execCommandCompletion (src : Source) (id : Nat) (s : State) : Host.Outcome State Fault Refusal :=
  s.conclude (actCommandCompletion src id s)

end Sys2Proof.Machine
end

