-- ==== Sys2Proof/Machine/HostReads.lean ====
section
/-!
DEFINITION. What answers the part's reads of host memory (R138, R140, R143, R145, R146, R249, R250): data for HOST_PULL, bundles and
ring slots, their failures and their timeout.
-/

namespace Sys2Proof.Machine
open Sys2Proof

/-- A read of host memory ends: it leaves the list, or stays there as expired. -/
def State.endRead (s : State) (tag : Nat) : State := s.modHif (fun h => { h with reads := Tab.erase h.reads tag })

def State.expireRead (s : State) (tag : Nat) (r : HostRead) : State :=
  let r' : HostRead := { r with expired := true }
  s.modHif (fun h => { h with reads := Tab.insert h.reads tag r' })

/-- Issue the reads that the limit of 768 held back. -/
def State.resumePull (s : State) (c : Cmd) : State :=
  match c.phase with
  | .executing (.hostPull h l ps dst got out) =>
    let total := c.words.getD 0 0 + 2 ^ 32 * c.words.getD 1 0
    let (h', l', o', s) := pullIssue c.src c.id total 768 h l out s
    s.modCmd c.src c.id (fun d => { d with phase := .executing (.hostPull h' l' ps dst got o') })
  | _ => s

def State.resumeReads (s : State) : State :=
  let s := s.q.cmds.foldl (fun s c => s.resumePull c) s
  List.foldl (fun (s : State) (y : Nat × Round) =>
    ((y.2.ring.map (fun (g : Ring) => g.descs.map (fun (d : Desc) => d.n))).getD []).foldl (fun s n => s.continueReads y.1 n) s) s s.rounds.table

/-- Bytes of a HOST_PULL arrive at offset `off`: they are written, and with the last of them the command ends (R178, R222). [log 115 DEDUCED] -/
def State.pullData (s : State) (src : Source) (id off : Nat) (data : Bytes) : State :=
  match s.cmd? src id with
  | none => s
  | some c => match c.phase with
    | .executing (.hostPull h l ps dst got out) =>
      let s := (s.writeRange ps (dst + off) data).profDma src data.length
      if l = 0 && out ≤ 1 then
        (s.progressSrc src ((c.words.getD 0 0 + 2 ^ 32 * c.words.getD 1 0) / mib)).complete src id .ok []
      else s.modCmd src id (fun d => { d with phase := .executing (.hostPull h l ps dst got (out - 1)) })
    | _ => s

/-- A HOST_PULL fails: its other reads are abandoned. -/
def State.pullFail (s : State) (src : Source) (id : Nat) (st : Status) : State :=
  match s.cmd? src id with
  | none => s
  | some c => match c.phase with
    | .executing (.hostPull _ _ _ _ _ _) => (s.abandonPulls src id).complete src id st []
    | _ => s

/-- Hand over the data of a read. -/
def State.giveRead (s : State) (tag : Nat) (r : HostRead) (data : Bytes) : State :=
  match r.purpose with
  | .pull src id off => s.pullData src id off data
  | .bundle e n off => s.bundleData e n off data
  | .slot q first => s.slotArrives q tag first data
  | .record t q => s.recordArrives t q tag data

/-- End what needed a read. -/
def State.readFails (s : State) (tag : Nat) (r : HostRead) (st : Status) : State :=
  match r.purpose with
  | .pull src id _ => s.pullFail src id st
  | .bundle e n _ => s.bundleFail e n st
  | .slot q first => s.slotFails q tag first r.addr st
  | .record t _ => s.recordFails t tag

def fnByte : Fn → Byte
  | .pf => 0xFE
  | .vf p => partByte (some p)

/-- The completion status as the PCIe base specification numbers it. [log 115 DEDUCED] -/
def cplCode : CplStatus → W32
  | .ur => 1
  | .ca => 4
  | _ => 0

/-- HOST_COMPLETION: an answer to a read of function `f`. One that matches no read in flight, or comes after the timeout, is an unexpected
completion, whether the read was abandoned or not (R145, R250), but for reads that an FLR came after (R140); one for an abandoned read in
time is discarded in silence. [log 115 DEDUCED, 137 DEDUCED] -/
def actHostCompletion (f : Fn) (tag : Nat) (st : CplStatus) (data : Bytes) (s : State) : State :=
  let k := readKey f tag
  if s.power.mainHeld then s
  else match Tab.find? s.hif.reads k with
    | none => (s.logAer f .unexpectedCompletion)
    | some r =>
      let t := s.endRead k
      if r.beforeFlr then t.resumeReads
      else if r.expired then t.logAer f .unexpectedCompletion
      else if r.abandoned then t.resumeReads
      else if s.staleTag r.tag then (t.countStale r.tag).resumeReads
      else match st with
        | .success => if data.length = r.len then (t.giveRead k r data).resumeReads else (s.logAer .pf .malformedTlp)
        | .poisoned => ((t.logAer f .poisonedTlp).readFails k r .poisoned).resumeReads
        | x =>
          ((t.logErr 1 .hif (fnByte f) .protocol .hostCompletion 0 (cplCode x) .hostReadTimeout).readFails k r .hostReadTimeout).resumeReads

def execHostCompletion (f : Fn) (tag : Nat) (st : CplStatus) (data : Bytes) (s : State) : Host.Outcome State Fault Refusal :=
  s.conclude (actHostCompletion f tag st data s)

/-- HOST_READ_TIMEOUT: 50 ms without a completion. [log 115 DEDUCED] -/
def actHostReadTimeout (f : Fn) (tag : Nat) (s : State) : State :=
  let k := readKey f tag
  match Tab.find? s.hif.reads k with
  | none => s
  | some r =>
    if r.expired || s.now < r.issued + 50000000 then s
    else
      let t := s.expireRead k r
      if r.abandoned then t.resumeReads
      else ((t.logAer f .completionTimeout).readFails k r .hostReadTimeout).resumeReads

def execHostReadTimeout (f : Fn) (tag : Nat) (s : State) : Host.Outcome State Fault Refusal := s.conclude (actHostReadTimeout f tag s)

end Sys2Proof.Machine
end

