-- ==== Sys2Proof/Machine/Crossings.lean ====
section
/-!
DEFINITION. CROSSING_PARITY: what becomes of a crossing's item whose parity check fails (R92).
-/

namespace Sys2Proof.Machine
open Sys2Proof

/-- A request of a command, or the reply to one: the command ends with POISONED, and what else it has under way stops. -/
def State.poisonCommand (s : State) (src : Source) (id : Nat) : State :=
  match s.cmd? src id with
  | none => s
  | some c => match c.phase with
    | .executing _ => s.endWork c .poisoned
    | _ => s

/-- A host read: what needed it ends with POISONED. An abandoned or expired one serves nothing. -/
def State.poisonRead (s : State) (f : Fn) (tag : Nat) : State :=
  let k := readKey f tag
  match Tab.find? s.hif.reads k with
  | none => s
  | some r => if r.abandoned || r.expired then s else ((s.endRead k).readFails k r .poisoned).resumeReads

/-- Replies of the fabric: their poisoned form (Table 17.3). -/
def poisonedReply (o : FabOut) : Option FabOut :=
  match o with
  | .packet p h _ => match h.type with
    | .ack => some (.packet p { h with type := .nak, status := Status.poisoned.code } [])
    | .nak => some (.packet p { h with status := Status.poisoned.code } [])
    | .readResp => some (.packet p { h with status := Status.poisoned.code } [])
    | _ => none
  | _ => none

/-- A frame on its way to its port: a request of this device ends with POISONED; the reply to a peer's request is replaced; whatever else it
is, it is dropped. [log 161 DEDUCED] -/
def State.poisonFrame (s : State) (port : Fin 16) (n : Nat) : State :=
  let p := s.port port.val
  match p.queue[n]? with
  | none => s
  | some o =>
    if s.carries (fun _ => true) o then
      match o with
      | .packet _ h _ => (s.setPort port.val { p with queue := p.queue.eraseIdx n }).answered { h with src := h.dst } h.psn .poisoned false
      | _ => s
    else match poisonedReply o with
      | some o' => s.setPort port.val { p with queue := p.queue.set n o' }
      | none => s.setPort port.val { p with queue := p.queue.eraseIdx n }

/-- CROSSING_PARITY: an item of a crossing into or out of island `d` is not handed over. A request completes with POISONED, a reply is
replaced by a POISONED completion to its requester, and the event is recorded (R92). [log 161 DEDUCED] -/
def actCrossingParity (d : Island) (item : CrossItem) (s : State) : State :=
  let s := s.logErr 14 d 0xFF .contained .crossingParity
  match item with
  | .posted => s
  | .command src id => s.poisonCommand src id
  | .read f tag => s.poisonRead f tag
  | .register f => s.toHost (.readReply f 0 true)
  | .frame port n => s.poisonFrame port n

def execCrossingParity (d : Island) (item : CrossItem) (s : State) : Host.Outcome State Fault Refusal :=
  s.conclude (actCrossingParity d item s)

end Sys2Proof.Machine
end

