-- ==== Sys2Proof/Machine/MgmtPort.lean ====
section
/-!
DEFINITION. The Drinoner port's bus and its vendor messages: I3C common command codes, the SMBus alert protocol, COMMAND, POLL,
MAIN_RESET and ALERT, sensor samples and their events, and the limits of Table 23.6 (R778 to R781, R786 to R793, R800 to R805).
-/

namespace Sys2Proof.Machine
open Sys2Proof

/-- The port's limits of 100 ms, in ns. -/
def portLimit : Nat := 100 * msNs

/-- The port answers only while its firmware runs (R802). -/
def State.portUp (s : State) : Bool := s.mgmt.firmware

def State.nak (s : State) : State := s.mgmtSend .nak

/-! ### The I3C target (R779, R780) -/

/-- The 48-bit provisional ID. -/
def Mgmt.pid (m : Mgmt) : Nat := 0x2C6 * 2 ^ 33 + 0xA512 * 2 ^ 16 + m.strap * 2 ^ 12

/-- Log 119 PRESUMED. -/
def bcrValue : Nat := 0x07
def dcrValue : Nat := 0x00

/-- A common command code the target answers: firmware runs and it has a dynamic address. -/
def State.i3cUp (s : State) : Bool := s.portUp && s.mgmt.i3c

/-- A dynamic address is assigned: the port is an I3C target from now on. -/
def State.assignAddr (s : State) (a : Byte) : State := s.modMgmt (fun m => { m with i3c := true, dynAddr := a.toNat % 128 })

/-- A CCC that changes the port where it is an I3C target. -/
def State.onCcc (s : State) (f : Mgmt → Mgmt) : State := if s.i3cUp then s.modMgmt f else s.nak

/-- A CCC that returns a value. -/
def State.cccAnswer (s : State) (v : Nat) : State := if s.i3cUp then s.mgmtSend (.ccc v) else s.nak

/-- ENTDAA: a target without a dynamic address sends its PID, BCR and DCR and takes the address. [log 120 PRESUMED] -/
def actEntdaa (addr : Byte) (s : State) : State :=
  if !s.portUp || s.mgmt.i3c then s.nak
  else ((s.mgmtSend (.ccc (s.mgmt.pid * 65536 + bcrValue * 256 + dcrValue))).assignAddr addr)

def execEntdaa (addr : Byte) (s : State) : Host.Outcome State Fault Refusal := s.conclude (actEntdaa addr s)

/-- SETDASA naming the static address. [log 120 PRESUMED] -/
def actSetdasa (static_ addr : Byte) (s : State) : State :=
  if !s.portUp || s.mgmt.i3c || static_.toNat ≠ s.mgmt.staticAddr then s.nak else (s.assignAddr addr)

def execSetdasa (static_ addr : Byte) (s : State) : Host.Outcome State Fault Refusal := s.conclude (actSetdasa static_ addr s)

def actSetnewda (addr : Byte) (s : State) : State :=
  (s.onCcc (fun m => { m with dynAddr := addr.toNat % 128 }))

def execSetnewda (addr : Byte) (s : State) : Host.Outcome State Fault Refusal := s.conclude (actSetnewda addr s)

/-- RSTDAA: the port is an SMBus target again. -/
def actRstdaa (s : State) : State := (s.onCcc (fun m => { m with i3c := false, dynAddr := 0, ibiAt := none }))

def execRstdaa (s : State) : Host.Outcome State Fault Refusal := s.conclude (actRstdaa s)

def actEnec (s : State) : State := (s.onCcc (fun m => { m with ibiEnabled := true }))

def execEnec (s : State) : Host.Outcome State Fault Refusal := s.conclude (actEnec s)

def actDisec (s : State) : State := (s.onCcc (fun m => { m with ibiEnabled := false }))

def execDisec (s : State) : Host.Outcome State Fault Refusal := s.conclude (actDisec s)

def actGetpid (s : State) : State := (s.cccAnswer s.mgmt.pid)

def execGetpid (s : State) : Host.Outcome State Fault Refusal := s.conclude (actGetpid s)

def actGetbcr (s : State) : State := (s.cccAnswer bcrValue)

def execGetbcr (s : State) : Host.Outcome State Fault Refusal := s.conclude (actGetbcr s)

def actGetdcr (s : State) : State := (s.cccAnswer dcrValue)

def execGetdcr (s : State) : Host.Outcome State Fault Refusal := s.conclude (actGetdcr s)

/-- GETSTATUS: the two status bytes, which the spec does not state. [log 120 PRESUMED] -/
def actGetstatus (s : State) : State :=
  let (n, s) := s.freeNat
  (s.cccAnswer (n % 65536))

def execGetstatus (s : State) : Host.Outcome State Fault Refusal := s.conclude (actGetstatus s)

def actGetmrl (s : State) : State := (s.cccAnswer s.mgmt.mrl)

/-- Log 9 DESIGN CHOICE. -/
def execGetmrl (s : State) : Host.Outcome State Fault Refusal := s.conclude (actGetmrl s)

def actGetmwl (s : State) : State := (s.cccAnswer s.mgmt.mwl)

/-- Log 9 DESIGN CHOICE. -/
def execGetmwl (s : State) : Host.Outcome State Fault Refusal := s.conclude (actGetmwl s)

def actSetmrl (len : Nat) (s : State) : State := (s.onCcc (fun m => { m with mrl := len % 65536 }))

def execSetmrl (len : Nat) (s : State) : Host.Outcome State Fault Refusal := s.conclude (actSetmrl len s)

def actSetmwl (len : Nat) (s : State) : State := (s.onCcc (fun m => { m with mwl := len % 65536 }))

def execSetmwl (len : Nat) (s : State) : Host.Outcome State Fault Refusal := s.conclude (actSetmwl len s)

/-! ### The SMBus target (R781, R800) -/

/-- A read of the Alert Response Address 0x0C. [log 120 PRESUMED] -/
def actAlertResponseAddress (s : State) : State :=
  if s.portUp && !s.mgmt.i3c && s.alertLow then (s.mgmtSend (.ara s.mgmt.staticAddr)) else s.nak

def execAlertResponseAddress (s : State) : Host.Outcome State Fault Refusal := s.conclude (actAlertResponseAddress s)

/-- The port releases the bus; the packet in progress never arrives, so nothing of it stands in the state. [log 124 DEDUCED] -/
def actSmbusClockTimeout (s : State) : State := s

def execSmbusClockTimeout (s : State) : Host.Outcome State Fault Refusal := s.conclude (actSmbusClockTimeout s)

/-! ### Vendor messages (R788 to R793) -/

/-- A vendor response (Tables 23.3 and 23.4b). -/
def State.vendorReply (s : State) (ticket : Byte) (subtype status : Nat) (body : Bytes) : State :=
  s.mgmtReply (.vendor ticket (BitVec.ofNat 8 subtype) (BitVec.ofNat 8 status) body)

/-- Where a ticket is in flight or kept. [log 118 DEDUCED] -/
def State.ticketAt (s : State) (t : Byte) : Option (Nat × Ticket) := List.find? (fun (y : Nat × Ticket) => y.2.ticket == t) s.mgmt.tickets

/-- A place for a new command: neither kept nor with a command still in FE. [log 118 DEDUCED] -/
def State.ticketFree (s : State) : Option (Fin 4) :=
  ([0, 1, 2, 3] : List (Fin 4)).find? (fun t => (Tab.find? s.mgmt.tickets t.val).isNone && (s.cmdsOf (.mgmt t)).isEmpty)

/-- The first word of a packet whose size bit matches the body's length. -/
def packetFits (body : Bytes) : Bool := if isBig body then body.length == 128 else body.length == 64

/-- An earlier M command waits for its slot: the port's commands are served in arrival order (R791). -/
def State.mWaiting (s : State) : Bool :=
  s.q.cmds.any (fun c => match c.src, c.phase with
    | .mgmt _, .waiting => true
    | .mgmt _, .ready => true
    | _, _ => false)

/-- Hand an M command to the part: an AUX command runs at once, another runs when nothing keeps it waiting. -/
def State.handCommand (s : State) (t : Fin 4) (body : Bytes) : Nat × State :=
  let pkt := packetOf body
  let row := rowOf pkt.header.op.toNat
  let turn := !s.mWaiting || isAuxCmd pkt.header.op.toNat pkt.word
  let (id, s) := s.fetchPacket (row.map (fun y => y.1)) (.mgmt t) pkt false
  match row, s.cmd? (.mgmt t) id with
  | some (sp, bd), some c => (id, if turn && s.mayDispatch c then s.runCmd sp bd c else s)
  | _, _ => (id, s)

/-- Answer a COMMAND: DONE with the record where it has completed, else PENDING. [log 118 DEDUCED] -/
def State.answerCommand (s : State) (t : Fin 4) (ticket : Byte) (id : Nat) : State :=
  match s.cmd? (.mgmt t) id with
  | none => s.vendorReply ticket 1 1 []
  | some c => match c.phase with
    | .done _ st res time => (s.keepResult t c st res time).vendorReply ticket 1 0 (c.record st res time)
    | _ => s.vendorReply ticket 1 1 []

def State.vendorCommand (s : State) (ticket : Byte) (body : Bytes) : State :=
  if !packetFits body then s.vendorReply ticket 1 3 []
  else if (s.ticketAt ticket).isSome then s.vendorReply ticket 1 5 []
  else match s.ticketFree with
    | none => s.vendorReply ticket 1 2 []
    | some t =>
      let tk : Ticket := { ticket := ticket, state := .executing }
      let s := s.modMgmt (fun m => { m with tickets := Tab.insert m.tickets t.val tk })
      let (id, s) := s.handCommand t body
      s.answerCommand t ticket id

def State.vendorPoll (s : State) (ticket : Byte) (body : Bytes) : State :=
  if !body.isEmpty then s.vendorReply ticket 2 3 []
  else match s.ticketAt ticket with
    | none => s.vendorReply ticket 2 4 []
    | some (_, k) => match k.state with
      | .executing => s.vendorReply ticket 2 1 []
      | .done record _ => s.vendorReply ticket 2 0 record

/-- MAIN_RESET (R793): DONE, then a main-side warm reset for 1 ms, or 1 ms more; refused in AUX_ONLY. -/
def State.vendorReset (s : State) (ticket : Byte) (body : Bytes) : State :=
  if !body.isEmpty then s.vendorReply ticket 3 3 []
  else if s.powerState = 2 then s.vendorReply ticket 3 6 []
  else ((s.vendorReply ticket 3 0 []).modMgmt (fun m => { m with mainResetUntil := some (s.now + msNs) })).warmReset

/-- ALERT: the causes before the clear, then the W1C. -/
def State.vendorAlert (s : State) (ticket : Byte) (body : Bytes) : State :=
  if body.length ≠ 4 then s.vendorReply ticket 4 3 []
  else
    let mask := BitVec.ofNat 8 (leNat (body.take 1))
    (s.vendorReply ticket 4 0 (leBytes 4 s.mgmt.alert.toNat)).modMgmt (fun m => { m with alert := m.alert &&& ~~~mask })

/-- A message row acts while the port answers. -/
def State.whenUp (s : State) (f : State → State) : State := if s.portUp then f s else s.nak

/-- Log 118 DEDUCED. -/
def actCommand (ticket : Byte) (body : Bytes) (s : State) : State :=
  (s.whenUp (fun s => s.vendorCommand ticket body))

def execCommand (ticket : Byte) (body : Bytes) (s : State) : Host.Outcome State Fault Refusal := s.conclude (actCommand ticket body s)

def actPoll (ticket : Byte) (body : Bytes) (s : State) : State :=
  (s.whenUp (fun s => s.vendorPoll ticket body))

def execPoll (ticket : Byte) (body : Bytes) (s : State) : Host.Outcome State Fault Refusal := s.conclude (actPoll ticket body s)

def actMainReset (ticket : Byte) (body : Bytes) (s : State) : State :=
  (s.whenUp (fun s => s.vendorReset ticket body))

def execMainReset (ticket : Byte) (body : Bytes) (s : State) : Host.Outcome State Fault Refusal := s.conclude (actMainReset ticket body s)

def actAlert (ticket : Byte) (body : Bytes) (s : State) : State :=
  (s.whenUp (fun s => s.vendorAlert ticket body))

def execAlert (ticket : Byte) (body : Bytes) (s : State) : Host.Outcome State Fault Refusal := s.conclude (actAlert ticket body s)

/-- The 1 ms assertion ends: the main side boots unless something else holds it. -/
def actMainResetRelease (s : State) : State :=
  match s.mgmt.mainResetUntil with
  | none => s
  | some t => if s.now < t then s else (s.modMgmt (fun m => { m with mainResetUntil := none })).releaseMain

def execMainResetRelease (s : State) : Host.Outcome State Fault Refusal := s.conclude (actMainResetRelease s)

/-- 10 s after completion a kept result goes and its ticket is free. -/
def actResultExpiry (ticket : Byte) (s : State) : State :=
  match s.ticketAt ticket with
  | none => s
  | some (k, t) => match t.state with
    | .executing => s
    | .done _ at_ => if s.now < at_ + 10000 * msNs then s else (s.modMgmt (fun m => { m with tickets := Tab.erase m.tickets k }))

def execResultExpiry (ticket : Byte) (s : State) : Host.Outcome State Fault Refusal := s.conclude (actResultExpiry ticket s)

/-! ### Sensors and events (R786, R787, R792) -/

/-- Powered: main sensors need PWRGD_MAIN. -/
def State.sensorPowered (s : State) (n : Nat) : Bool := s.portUp && (!mainSensor n || s.power.pwrgdMain)

/-- A numeric sensor is sampled: a threshold crossed sends its event, and of sensors 1 and 3 to 6 latches THERMAL. A first sample
only crosses what it lies beyond. [log 122 DEDUCED] -/
def State.sampleValue (s : State) (n : Nat) (v : Int) : State :=
  let old := Tab.find? s.mgmt.sensors n
  let s := s.modMgmt (fun m => { m with sensors := Tab.insert m.sensors n v })
  let crossed := match old with
    | some a => crosses n a v
    | none => (thresholds n).1.any (fun t => decide (t ≤ v)) || (thresholds n).2.any (fun t => decide (v ≤ t))
  if !crossed then s
  else
    let s := s.sendEvent n v
    if n = 1 || (3 ≤ n && n ≤ 6) then s.latchAlert .thermal else s

/-- SENSOR_SAMPLE: `v` is the reading of a numeric sensor; a state sensor shows what the part is in. [log 122 DEDUCED] -/
def actSensorSample (sensor : Nat) (v : Int) (s : State) : State :=
  if !s.sensorPowered sensor then s
  else if 1 ≤ sensor && sensor ≤ 9 then (s.sampleValue sensor v)
  else if isStateSensor sensor then (s.sampleState sensor)
  else s

def execSensorSample (sensor : Nat) (v : Int) (s : State) : Host.Outcome State Fault Refusal := s.conclude (actSensorSample sensor v s)

/-- The oldest event of a sensor that awaits its acknowledgement. -/
def firstEvent (n : Nat) (l : List PendingEvent) : Option PendingEvent := l.find? (fun e => e.sensor == n)

/-- PLATFORMEVENTMESSAGE_RESEND: 100 ms without an acknowledgement; two resends, then the event is dropped. -/
def actPlatformeventmessageResend (sensor : Nat) (s : State) : State :=
  match firstEvent sensor s.mgmt.events with
  | none => s
  | some e =>
    if s.now < e.sentAt + portLimit then s
    else if e.resends < 2 then
      let e' : PendingEvent := { e with resends := e.resends + 1, sentAt := s.now }
      ((s.mgmtSend (.event e.sensor e.value)).modMgmt (fun m => { m with events := m.events.erase e ++ [e'] }))
    else (s.modMgmt (fun m => { m with events := m.events.erase e }))

def execPlatformeventmessageResend (sensor : Nat) (s : State) : Host.Outcome State Fault Refusal :=
  s.conclude (actPlatformeventmessageResend sensor s)

/-- The receiver acknowledges an event. [log 122 DEDUCED] -/
def State.eventAcked (s : State) (n : Nat) : State :=
  match firstEvent n s.mgmt.events with
  | none => s
  | some e => s.modMgmt (fun m => { m with events := m.events.erase e })

def actPlatformEventAcknowledgement (sensor : Nat) (s : State) : State := (s.eventAcked sensor)

def execPlatformEventAcknowledgement (sensor : Nat) (s : State) : Host.Outcome State Fault Refusal :=
  s.conclude (actPlatformEventAcknowledgement sensor s)

/-! ### Limits (Table 23.6) -/

/-- An IBI not serviced in 100 ms is withdrawn; ALERT_N stays as it is. -/
def actIbiTimeout (s : State) : State :=
  match s.mgmt.ibiAt with
  | none => s
  | some t => if s.now < t + portLimit then s else (s.modMgmt (fun m => { m with ibiAt := none }))

def execIbiTimeout (s : State) : Host.Outcome State Fault Refusal := s.conclude (actIbiTimeout s)

/-- An I3C response not read in 100 ms is discarded; a COMMAND's result stays for POLL. -/
def actResponseUnreadTimeout (s : State) : State :=
  match s.mgmt.responses with
  | [] => s
  | (_, t, _) :: rest =>
    if !s.mgmt.i3c || s.now < t + portLimit then s else (s.modMgmt (fun m => { m with responses := rest }))

def execResponseUnreadTimeout (s : State) : Host.Outcome State Fault Refusal := s.conclude (actResponseUnreadTimeout s)

/-- An SMBus write of a response was NAKed or lost arbitration: 3 retries at 5 ms, then it is discarded and counted. [log 100 DEDUCED] -/
def actResponseRetry (s : State) : State :=
  match s.mgmt.responses with
  | [] => s
  | (o, t, n) :: rest =>
    if s.mgmt.i3c || s.now < t + 5 * msNs then s
    else if n < 3 then ((s.mgmtSend o).modMgmt (fun m => { m with responses := (o, s.now, n + 1) :: rest }))
    else ((s.modMgmt (fun m => { m with responses := rest })).discardMsg)

def execResponseRetry (s : State) : Host.Outcome State Fault Refusal := s.conclude (actResponseRetry s)

/-- 1 ms after the activation of a management image completed, MGMT is reset into it (R824, R801). -/
def actMgmtFirmwareActivation (s : State) : State :=
  match s.mgmt.activateAt with
  | none => s
  | some t => if s.now < t then s else ((s.modMgmt (fun m => { m with activateAt := none })).resetIsland .mgmt)

def execMgmtFirmwareActivation (s : State) : Host.Outcome State Fault Refusal := s.conclude (actMgmtFirmwareActivation s)

end Sys2Proof.Machine
end

