-- ==== Sys2Proof/Machine/Mirror.lean ====
section
/-!
DEFINITION. What a secondary does with the items of the mirror stream (R619 to R626).
-/

namespace Sys2Proof.Machine
open Sys2Proof

/-- A mirrored command runs on the secondary under the number that marks it as one, with the values the primary read for it. -/
def mirrorId (id : Nat) : Nat := id + 2 ^ 40

/-- Acknowledge an item. -/
def State.ackMirror (s : State) (seq : Nat) (st : Status) : State := s.toPartner s.graft.partner (.mirrorAck seq s.graft.epoch st.code s.now)

/-- A round command of the primary's: it acts on the shadow, and its status is the acknowledgement (R620 to R622). -/
def State.mirrorCommand (s : State) (seq : Nat) (src : Source) (id : Nat) (pkt : Packet) (words : List Nat) (inputs : Bytes) : State :=
  match rowOf pkt.header.op.toNat with
  | none => s.ackMirror seq .badOpcode
  | some (_, body) =>
    let epoch := (s.queue src).epoch
    let c : Cmd := { src := src, id := mirrorId id, pkt := pkt, epoch := epoch, words := words, inputs := inputs, mirrored := some seq }
    let s := s.setCmds (s.q.cmds ++ [c])
    let cx : Ctx := { src := src, id := mirrorId id, hdr := pkt.header, w := fun n => words.getD n 0, shadow := true, given := inputs }
    let (r, s) := body cx s
    s.after src (mirrorId id) r

/-- A bundle the primary has staged: it commits here now, or is refused with LATE (R624). -/
def State.mirrorBundle (s : State) (seq : Nat) (p : Fin 64) (id : W32) (client : Nat) (b : Bytes) : State :=
  let answer (st : Status) (s : State) : State := s.ackMirror seq st
  match s.shadowEntry p id.toNat with
  | none => answer .badParam s
  | some e => match s.round? e with
    | none => answer .badParam s
    | some r => match r.modulus with
      | none => answer .badParam s
      | some m =>
        let d : Desc :=
          { n := 2 ^ 33 + seq, stamp := s.now, roundId := id, client := client, bodyAddr := 0, bodyBytes := b.length
            segCount := leNat (slice b 12 4), state := .decided .ok 0 }
        if r.policy.deadline + 1000 * r.policy.harvestGraceUs < s.now then answer .late s
        else match s.roundAlloc e (recordSize r (segTable d b)) with
          | none => answer .range s
          | some s => answer .ok (s.addBundle e d m b)

/-- A segment the primary has marked: its shadow counts as RELEASED from there on (R626). -/
def Round.mirrorMark (r : Round) (seg : Nat) : Round :=
  { r with
    segs := r.segs.modify seg (fun x => { x with marked := true })
    state := if r.state = .sealed then .released else r.state }

/-- Apply one item; a command answers when it completes, every other item at once. -/
def State.mirrorApply (s : State) (seq : Nat) : MirrorItem → State
  | .command src id pkt words inputs => s.mirrorCommand seq src id pkt words inputs
  | .bundle p id client b => s.mirrorBundle seq (Fin.ofNat 64 p) id client b
  | .message p id o m =>
    let s := match s.shadowEntry (Fin.ofNat 64 p) id.toNat with
      | some e => s.roundMessage e o m
      | none => s
    s.ackMirror seq .ok
  | .mark p id seg =>
    let s := match s.shadowEntry (Fin.ofNat 64 p) id.toNat with
      | some e => s.modRound e (fun r => r.mirrorMark seg)
      | none => s
    s.ackMirror seq .ok
  | .unmirror p id =>
    let s := match s.shadowEntry (Fin.ofNat 64 p) id.toNat with
      | some e => s.closeRound e
      | none => s
    s.ackMirror seq .ok

/-- MIRROR_ITEM: the next item in sequence, from a primary whose role epoch this secondary has not outgrown. [log 64 DEDUCED] -/
def actMirrorItem (seq : Nat) (epoch : W16) (item : MirrorItem) (s : State) : State :=
  if s.graft.role != .secondary || epoch.toNat < s.graft.epoch.toNat || seq ≠ s.graft.appliedSeq then s
  else ((s.modGraft (fun g => { g with appliedSeq := seq + 1 })).mirrorApply seq item)

def execMirrorItem (a : Arrival) (h : FabHeader) (seq : Nat) (epoch : W16) (item : MirrorItem) (s : State) : Host.Outcome State Fault Refusal :=
  s.conclude (s.fromPartner a (.mirror h seq epoch item) (actMirrorItem seq epoch item))

end Sys2Proof.Machine
end

