-- ==== Sys2Proof/Machine/Pldm.lean ====
section
/-!
DEFINITION. MCTP and PLDM on the Drinoner port: packets and their reassembly, control commands, PLDM Types 0, 2 and 5 (R782 to R787,
R794, R796, R798, R800). Command and completion codes and the places of fields are those of DSP0236, DSP0240, DSP0248 and DSP0267,
which the spec names; a field the spec gives no value is free.
-/

namespace Sys2Proof.Machine
open Sys2Proof

/-! ### MCTP control (R783) -/

/-- Log 119 PRESUMED. -/
def State.controlReply (s : State) (cmd code : Nat) (body : Bytes) : State :=
  s.mgmtReply (.control (BitVec.ofNat 8 cmd) (BitVec.ofNat 8 code) body)

/-- Completion codes: 2 ERROR_INVALID_DATA, 5 ERROR_UNSUPPORTED_CMD. -/
def State.setEid (s : State) (op eid : Byte) : State :=
  if 2 ≤ op.toNat || eid = 0 || eid = 0xFF then s.controlReply 1 2 []
  else (s.controlReply 1 0 [0, eid, 0]).modMgmt (fun m => { m with eid := eid })

def State.getEid (s : State) : State := s.controlReply 2 0 [s.mgmt.eid, 0, 0]

def State.getUuid (s : State) : State := s.controlReply 3 0 udid

/-- The message types of R784. -/
def messageTypes : List Nat := [0x00, 0x01, 0x7E]

/-- Versions are not stated: free. -/
def State.getVersions (s : State) (type : Byte) : State :=
  if type = 0xFF || messageTypes.contains type.toNat then
    let (b, s) := s.freeBytes 4
    s.controlReply 4 0 (1 :: b)
  else s.controlReply 4 0x80 []

def State.getMessageTypes (s : State) : State := s.controlReply 5 0 [2, 0x01, 0x7E]

/-- One vendor set: PCI format, 0x1F6E; its command set value is free. -/
def State.getVendorSupport (s : State) (sel : Byte) : State :=
  if sel = 0 then
    let (b, s) := s.freeBytes 2
    s.controlReply 6 0 ([0xFF, 0x00, 0x1F, 0x6E] ++ b)
  else s.controlReply 6 2 []

def actSetEndpointId (op eid : Byte) (s : State) : State := (s.whenUp (fun s => s.setEid op eid))

def execSetEndpointId (op eid : Byte) (s : State) : Host.Outcome State Fault Refusal := s.conclude (actSetEndpointId op eid s)

def actGetEndpointId (s : State) : State := (s.whenUp State.getEid)

def execGetEndpointId (s : State) : Host.Outcome State Fault Refusal := s.conclude (actGetEndpointId s)

def actGetEndpointUuid (s : State) : State := (s.whenUp State.getUuid)

def execGetEndpointUuid (s : State) : Host.Outcome State Fault Refusal := s.conclude (actGetEndpointUuid s)

def actGetMctpVersionSupport (type : Byte) (s : State) : State := (s.whenUp (fun s => s.getVersions type))

def execGetMctpVersionSupport (type : Byte) (s : State) : Host.Outcome State Fault Refusal := s.conclude (actGetMctpVersionSupport type s)

def actGetMessageTypeSupport (s : State) : State := (s.whenUp State.getMessageTypes)

def execGetMessageTypeSupport (s : State) : Host.Outcome State Fault Refusal := s.conclude (actGetMessageTypeSupport s)

def actGetVendorDefinedMessageSupport (sel : Byte) (s : State) : State :=
  (s.whenUp (fun s => s.getVendorSupport sel))

def execGetVendorDefinedMessageSupport (sel : Byte) (s : State) : Host.Outcome State Fault Refusal :=
  s.conclude (actGetVendorDefinedMessageSupport sel s)

/-! ### PLDM Type 0 (R785) -/

/-- Log 119 PRESUMED. -/
def State.pldmReply (s : State) (type cmd code : Nat) (body : Bytes) : State :=
  s.mgmtReply (.pldm (BitVec.ofNat 8 type) (BitVec.ofNat 8 cmd) (BitVec.ofNat 8 code) body)

def pldmTypes : List Nat := [0, 2, 5]

/-- The commands of a type that the port answers. -/
def pldmCommands (type : Nat) : List Nat :=
  if type = 0 then [0x02, 0x03, 0x04, 0x05]
  else if type = 2 then [0x04, 0x11, 0x21, 0x50, 0x51]
  else if type = 5 then [0x01, 0x02, 0x10, 0x13, 0x14, 0x1A, 0x1B, 0x1C, 0x1D]
  else []

/-- A bit map of `n` bytes. -/
def bitMap (n : Nat) (l : List Nat) : Bytes := leBytes n ((l.map (fun k => 2 ^ k)).foldl (· + ·) 0)

/-- The terminus ID, which the spec does not state. -/
def State.getTid (s : State) : State :=
  let (b, s) := s.freeBytes 1
  s.pldmReply 0 2 0 b

def State.getPldmVersion (s : State) (type : Byte) : State :=
  if pldmTypes.contains type.toNat then
    let (b, s) := s.freeBytes 8
    s.pldmReply 0 3 0 ([0, 0, 0, 0, 0x05] ++ b)
  else s.pldmReply 0 3 0x83 []

def State.getPldmTypes (s : State) : State := s.pldmReply 0 4 0 (bitMap 8 pldmTypes)

def State.getPldmCommands (s : State) (type : Byte) : State :=
  if pldmTypes.contains type.toNat then s.pldmReply 0 5 0 (bitMap 32 (pldmCommands type.toNat)) else s.pldmReply 0 5 0x83 []

def actGettid (s : State) : State := (s.whenUp State.getTid)

def execGettid (s : State) : Host.Outcome State Fault Refusal := s.conclude (actGettid s)

def actGetpldmversion (type : Byte) (s : State) : State := (s.whenUp (fun s => s.getPldmVersion type))

def execGetpldmversion (type : Byte) (s : State) : Host.Outcome State Fault Refusal := s.conclude (actGetpldmversion type s)

def actGetpldmtypes (s : State) : State := (s.whenUp State.getPldmTypes)

def execGetpldmtypes (s : State) : Host.Outcome State Fault Refusal := s.conclude (actGetpldmtypes s)

def actGetpldmcommands (type : Byte) (s : State) : State := (s.whenUp (fun s => s.getPldmCommands type))

def execGetpldmcommands (type : Byte) (s : State) : Host.Outcome State Fault Refusal := s.conclude (actGetpldmcommands type s)

/-! ### PLDM Type 2 (R785 to R787) -/

/-- Sensors of Table 23.2, one PDR each. -/
def sensorCount : Nat := 13

/-- Update times and sizes of the repository are free. -/
def State.getRepository (s : State) : State :=
  let (a, s) := s.freeBytes 26
  let (b, s) := s.freeBytes 8
  s.pldmReply 2 0x50 0 ([0] ++ a ++ leBytes 4 sensorCount ++ b)

/-- The PDR of sensor `n`: numeric sensor PDRs have type 2, state sensor PDRs type 4; what lies past the sensor ID is free. [log 119 PRESUMED] -/
def State.getPdr (s : State) (handle : Nat) : State :=
  let n := if handle = 0 then 1 else handle
  if sensorCount < n then s.pldmReply 2 0x51 0x82 []
  else
    let (b, s) := s.freeBytes 40
    let next := if n = sensorCount then 0 else n + 1
    let kind : Byte := if isStateSensor n then 4 else 2
    let record := leBytes 4 n ++ [0x01, kind] ++ b.take 6 ++ leBytes 2 n ++ b.drop 6
    s.pldmReply 2 0x51 0 (leBytes 4 next ++ leBytes 4 0 ++ [0x05] ++ leBytes 2 record.length ++ record)

/-- The state a numeric sensor's reading has: 1 normal, 5 to 7 below the lower warning, critical and fatal thresholds, 8 to 10 above
the upper ones. -/
def presentState (n : Nat) (v : Int) : Nat :=
  if n = 1 then (if 115 ≤ v then 10 else if 100 ≤ v then 9 else if 95 ≤ v then 8 else 1)
  else if n = 2 then (if 110 ≤ v then 10 else if v ≤ -20 then 7 else 1)
  else if n = 9 then (if v ≤ 2200 then 6 else if v ≤ 2400 then 5 else 1)
  else if (thresholds n).1.any (fun t => decide (t ≤ v)) then 8
  else 1

/-- A signed reading as 4 bytes. -/
def readingBytes (v : Int) : Bytes := leBytes 4 (v % 2 ^ 32).toNat

/-- Operational states: 0 enabled, 2 unavailable, 5 initializing before the first sample. -/
def State.getSensorReading (s : State) (n : Nat) : State :=
  if n = 0 || 9 < n then s.pldmReply 2 0x11 0x80 []
  else if !s.sensorUp n then s.pldmReply 2 0x11 0 [0x05, 2]
  else match Tab.find? s.mgmt.sensors n with
    | none => s.pldmReply 2 0x11 0 [0x05, 5]
    | some v =>
      let (b, s) := s.freeBytes 3
      s.pldmReply 2 0x11 0 ([0x05, 0] ++ b.take 1 ++ leBytes 1 (presentState n v) ++ b.drop 1 ++ readingBytes v)

def State.getStateReadings (s : State) (n : Nat) : State :=
  if !isStateSensor n then s.pldmReply 2 0x21 0x80 []
  else if !s.sensorUp n then s.pldmReply 2 0x21 0 [0x01, 2]
  else
    let (b, s) := s.freeBytes 2
    s.pldmReply 2 0x21 0 ([0x01, 0] ++ leBytes 1 (Tab.get s.mgmt.sensors (sensorStart n : Int) n).toNat ++ b)

def State.setReceiver (s : State) (r : Option Nat) : State := (s.pldmReply 2 0x04 0 []).modMgmt (fun m => { m with eventReceiver := r })

def actGetpdrrepositoryinfo (s : State) : State := (s.whenUp State.getRepository)

def execGetpdrrepositoryinfo (s : State) : Host.Outcome State Fault Refusal := s.conclude (actGetpdrrepositoryinfo s)

def actGetpdr (handle : Nat) (s : State) : State := (s.whenUp (fun s => s.getPdr handle))

def execGetpdr (handle : Nat) (s : State) : Host.Outcome State Fault Refusal := s.conclude (actGetpdr handle s)

def actGetsensorreading (sensor : Nat) (s : State) : State := (s.whenUp (fun s => s.getSensorReading sensor))

def execGetsensorreading (sensor : Nat) (s : State) : Host.Outcome State Fault Refusal := s.conclude (actGetsensorreading sensor s)

def actGetstatesensorreadings (sensor : Nat) (s : State) : State :=
  (s.whenUp (fun s => s.getStateReadings sensor))

def execGetstatesensorreadings (sensor : Nat) (s : State) : Host.Outcome State Fault Refusal :=
  s.conclude (actGetstatesensorreadings sensor s)

def actSeteventreceiver (receiver : Option Nat) (s : State) : State :=
  (s.whenUp (fun s => s.setReceiver receiver))

def execSeteventreceiver (receiver : Option Nat) (s : State) : Host.Outcome State Fault Refusal :=
  s.conclude (actSeteventreceiver receiver s)

/-! ### PLDM Type 5 (R794, R798, R800) -/

/-- The update changes state, which latches FW_UPDATE (R792). -/
def State.toUpdate (s : State) (u : Update) : State :=
  let moved := decide (u.state ≠ s.mgmt.update.state)
  let s := s.modMgmt (fun m => { m with update := u })
  if moved then s.latchAlert .fwUpdate else s

/-- The update ends: its images are no longer busy. -/
def State.endUpdate (s : State) : State := s.dropUpdates.toUpdate {}

/-- Image types this update has begun to write. -/
def State.updating (s : State) : List Nat := ([0, 1] : List Nat).filter (fun t => s.fwBusy t == .update)

/-- A cancelled update leaves the inactive half it wrote INVALID. [log 123 DEDUCED] -/
def State.cancelUpdate (s : State) : State := (s.updating.foldl State.spoilStandby s).endUpdate

/-- The image is whole: it is programmed into the standby half, read back and verified; a failure ends the update with VERIFY_FAILED. [log 123 DEDUCED] -/
def State.finishDownload (s : State) : State :=
  let u := s.mgmt.update
  let s := s.toUpdate { u with state := .verify }
  let verdict (ok : Nat) (s : State) : State := s.mgmtSend (.pldm 5 0x17 (BitVec.ofNat 8 ok) [])
  match imageFails u.component (s.power.minSvn u.component) u.data with
  | some _ => (verdict 1 s).endUpdate
  | none =>
    let (ok, s) := s.programStandby u.component u.data
    if ok then ((verdict 0 s).toUpdate { u with state := .apply }).toUpdate
      { u with state := .readyXfer, size := 0, data := [], staged := insertNat u.component u.staged }
    else (verdict 1 s).endUpdate

/-- RequestFirmwareData for what is still missing. -/
def State.askData (s : State) : State :=
  let u := s.mgmt.update
  s.mgmtSend (.pldm 5 0x15 0 (leBytes 4 u.data.length ++ leBytes 4 (min 512 (u.size - u.data.length))))

/-- Data of the image arrives; the rest is asked for, or the download is complete. -/
def State.takeData (s : State) (d : Bytes) : State :=
  let u := s.mgmt.update
  let got := (u.data ++ d).take u.size
  let s := s.modMgmt (fun m => { m with update := { u with data := got } })
  if u.size ≤ got.length then s.finishDownload else s.askData

/-- The component an image identifier names: the recovery responder offers the management image only (R841). -/
def State.offersImage (s : State) (cls ident : Nat) : Bool := cls == 0x000A && (ident == 1 || (ident == 0 && !s.power.noMgmtImage))

/-- UpdateComponent: the standby half of the component is taken, unless a FW_STAGE has it (R798). [log 123 DEDUCED] -/
def State.updateComponent (s : State) (d : Bytes) : State :=
  let u := s.mgmt.update
  let t := leNat (slice d 2 2)
  if u.state ≠ .readyXfer then s.pldmReply 5 0x14 0x88 []
  else if !s.offersImage (leNat (d.take 2)) t then s.pldmReply 5 0x14 0 [1, 0x06]
  else if s.fwBusy t = .stage then s.pldmReply 5 0x14 0x81 []
  else
    let s := (s.spoilStandby t).setBusy t .update
    let s := s.pldmReply 5 0x14 0 [0, 0]
    (s.toUpdate { u with state := .download, component := t, size := leNat (slice d 9 4), data := [], staged := u.staged.erase t }).askData

/-- A sequencer image goes live under R73 where the main side runs; elsewhere the next boot takes it (R794, R842). [log 123 DEDUCED] -/
def State.activateSequencer (s : State) : State :=
  if !s.kelri.pf.valid then s.activateHalf 0
  else
    let b := s.power.flashImage (!(s.power.image 0).active) 0
    let (ok, s) := s.flashWorks
    match (if ok then imageFails 0 (s.power.minSvn 0) b else some 6) with
    | some _ => (s.spoilStandby 0).logErr 15 .mgmt 0xFF .contained .image
    | none => (s.modPower (fun p => { p with imageBuffer := b, bufferBad := false, imageLoaded := b, seqFw := fwOf b 0 })).activateHalf 0

/-- Activation of one staged component. -/
def State.activateComponent (s : State) (t : Nat) : State :=
  if (s.power.image t).standby ≠ .staged then s
  else if t = 0 then s.activateSequencer
  else (s.activateHalf 1).modMgmt (fun m => { m with activateAt := some (s.now + msNs) })

/-- ActivateFirmware: what the update staged is activated and the update ends. -/
def State.activateUpdate (s : State) : State :=
  let u := s.mgmt.update
  if u.state = .idle then s.pldmReply 5 0x1A 0x80 []
  else if u.state ≠ .readyXfer then s.pldmReply 5 0x1A 0x84 []
  else if u.staged.isEmpty then s.pldmReply 5 0x1A 0x85 []
  else
    let s := (s.pldmReply 5 0x1A 0 [0, 0]).toUpdate { u with state := .activate }
    (u.staged.foldl State.activateComponent s).endUpdate

/-- Descriptors: one, the PCI vendor ID. -/
def State.queryDevice (s : State) : State := s.pldmReply 5 0x01 0 (leBytes 4 6 ++ [1] ++ leBytes 2 0 ++ leBytes 2 2 ++ leBytes 2 0x1F6E)

/-- One component of GetFirmwareParameters: its class, identifier and the version in force; the rest of the table is free. -/
def componentEntry (t : Nat) (f : FwInForce) (rest : Bytes) : Bytes := leBytes 2 0x000A ++ leBytes 2 t ++ [0] ++ leBytes 4 f.version.toNat ++ rest

def State.firmwareParameters (s : State) : State :=
  let (a, s) := s.freeBytes 4
  let (b, s) := s.freeBytes 32
  let (c, s) := s.freeBytes 32
  s.pldmReply 5 0x02 0 (a ++ leBytes 2 2 ++ componentEntry 0 s.power.seqFw b ++ componentEntry 1 s.power.mgmtFw c)

/-- The number of a state in GetStatus. -/
def UpdateState.code : UpdateState → Nat
  | .idle => 0
  | .learnComponents => 1
  | .readyXfer => 2
  | .download => 3
  | .verify => 4
  | .apply => 5
  | .activate => 6

def State.updateStatus (s : State) : State :=
  let (b, s) := s.freeBytes 9
  s.pldmReply 5 0x1B 0 (leBytes 1 s.mgmt.update.state.code ++ b)

/-- A firmware device command, or (0x15) the data it asked for. -/
def State.updateCommand (s : State) (cmd : Nat) (d : Bytes) : State :=
  let s := s.modMgmt (fun m => { m with update := { m.update with lastRequest := s.now } })
  let u := s.mgmt.update
  let idle := u.state == .idle
  match cmd with
  | 0x01 => s.queryDevice
  | 0x02 => s.firmwareParameters
  | 0x10 => if !idle then s.pldmReply 5 0x10 0x81 [] else (s.pldmReply 5 0x10 0 [0, 0, 0]).toUpdate { u with state := .learnComponents }
  | 0x13 =>
    if idle then s.pldmReply 5 0x13 0x80 []
    else if u.state ≠ .learnComponents then s.pldmReply 5 0x13 0x84 []
    else
      let ok := s.offersImage (leNat (slice d 1 2)) (leNat (slice d 3 2))
      let s := s.pldmReply 5 0x13 0 (if ok then [0, 0] else [1, 0x06])
      if bit (leNat (d.take 1)) 2 then s.toUpdate { u with state := .readyXfer } else s
  | 0x14 => if idle then s.pldmReply 5 0x14 0x80 [] else s.updateComponent d
  | 0x15 => if u.state = .download then s.takeData d else s
  | 0x1A => s.activateUpdate
  | 0x1B => s.updateStatus
  | 0x1C =>
    if idle then s.pldmReply 5 0x1C 0x80 []
    else if u.state ≠ .download then s.pldmReply 5 0x1C 0x88 []
    else ((s.pldmReply 5 0x1C 0 []).setBusy u.component .none).toUpdate { u with state := .readyXfer, size := 0, data := [] }
  | 0x1D => if idle then s.pldmReply 5 0x1D 0x80 [] else (s.pldmReply 5 0x1D 0 [0]).cancelUpdate
  | c => s.pldmReply 5 c 0x05 []

def actPldmType5Update (cmd : Byte) (data : Bytes) (s : State) : State :=
  (s.whenUp (fun s => s.updateCommand cmd.toNat data))

def execPldmType5Update (cmd : Byte) (data : Bytes) (s : State) : Host.Outcome State Fault Refusal :=
  s.conclude (actPldmType5Update cmd data s)

def actActivatefirmware (s : State) : State := (s.whenUp (fun s => s.updateCommand 0x1A []))

def execActivatefirmware (s : State) : Host.Outcome State Fault Refusal := s.conclude (actActivatefirmware s)

/-- 60 s without a request of the update agent. -/
def actUpdateAgentTimeout (s : State) : State :=
  let u := s.mgmt.update
  if u.state = .idle || s.now < u.lastRequest + 60000 * msNs then s else s.cancelUpdate

def execUpdateAgentTimeout (s : State) : Host.Outcome State Fault Refusal := s.conclude (actUpdateAgentTimeout s)

/-! ### Messages as bytes (R784, R788, R796) -/

/-- An MCTP control request; any other command is ERROR_UNSUPPORTED_CMD. -/
def State.controlMessage (s : State) (b : Bytes) : State :=
  let arg (k : Nat) : Byte := b.getD (3 + k) 0
  match leNat (slice b 2 1) with
  | 1 => s.setEid (arg 0) (arg 1)
  | 2 => s.getEid
  | 3 => s.getUuid
  | 4 => s.getVersions (arg 0)
  | 5 => s.getMessageTypes
  | 6 => s.getVendorSupport (arg 0)
  | c => s.controlReply c 5 []

/-- A PLDM request of Type 0 or 2. -/
def State.pldmRequest (s : State) (type cmd : Nat) (d : Bytes) : State :=
  match type, cmd with
  | 0, 0x02 => s.getTid
  | 0, 0x03 => s.getPldmVersion (d.getD 5 0)
  | 0, 0x04 => s.getPldmTypes
  | 0, 0x05 => s.getPldmCommands (d.getD 0 0)
  | 2, 0x04 => s.setReceiver (if d.getD 0 0 = 0 then none else some (d.getD 2 0).toNat)
  | 2, 0x11 => s.getSensorReading (leNat (d.take 2))
  | 2, 0x21 => s.getStateReadings (leNat (d.take 2))
  | 2, 0x50 => s.getRepository
  | 2, 0x51 => s.getPdr (leNat (d.take 4))
  | t, c => s.pldmReply t c 0x05 []

/-- A PLDM response to the part: an event's acknowledgement, or image data. -/
def State.pldmAnswer (s : State) (type cmd : Nat) (d : Bytes) : State :=
  if type = 2 && cmd = 0x0A then
    match s.mgmt.events with
    | e :: _ => s.eventAcked e.sensor
    | [] => s
  else if type = 5 && cmd = 0x15 && d.getD 0 1 = 0 then s.updateCommand 0x15 (d.drop 1)
  else s

def State.pldmMessage (s : State) (b : Bytes) : State :=
  let type := leNat (slice b 2 1) % 64
  let cmd := leNat (slice b 3 1)
  if !bit (leNat (slice b 1 1)) 7 then s.pldmAnswer type cmd (b.drop 4)
  else if type = 5 then s.updateCommand cmd (b.drop 4)
  else s.pldmRequest type cmd (b.drop 4)

/-- A vendor message (Table 23.3). -/
def State.vendorMessage (s : State) (b : Bytes) : State :=
  let sub := leNat (slice b 3 1)
  let ticket := b.getD 4 0
  if b.length < 8 || !allZero (slice b 5 3) then s.vendorReply ticket sub 3 []
  else match sub with
    | 1 => s.vendorCommand ticket (b.drop 8)
    | 2 => s.vendorPoll ticket (b.drop 8)
    | 3 => s.vendorReset ticket (b.drop 8)
    | 4 => s.vendorAlert ticket (b.drop 8)
    | n => s.vendorReply ticket n 3 []

/-- A whole message: one of another type or vendor, or with the integrity check bit set, is discarded and counted. -/
def State.takeMessage (s : State) (b : Bytes) : State :=
  match leNat (b.take 1) with
  | 0x00 => s.controlMessage b
  | 0x01 => s.pldmMessage b
  | 0x7E => if slice b 1 2 = [0x1F, 0x6E] then s.vendorMessage b else s.discardMsg
  | _ => s.discardMsg

/-! ### Packets and reassembly (R782, R800) -/

def Reassembly.of (origin : Byte) (tag : Nat) (r : Reassembly) : Bool := r.srcEid == origin && r.tag == tag

def State.dropReassembly (s : State) (origin : Byte) (tag : Nat) : State :=
  s.modMgmt (fun m => { m with reassembly := m.reassembly.filter (fun r => !r.of origin tag) })

/-- MCTP_PACKET: on SMBus a packet whose PEC fails is discarded. A first packet starts its message over; a later one without a first is
dropped; a message of more than 1,024 bytes is discarded and counted. [log 121 DEDUCED] -/
def actMctpPacket (origin : Byte) (tag : Nat) (som eom pecOk : Bool) (data : Bytes) (s : State) : State :=
  if !s.portUp then s.nak
  else if (!s.mgmt.i3c && !pecOk) || 64 < data.length then s
  else
    let before := if som then some [] else (s.mgmt.reassembly.find? (Reassembly.of origin tag)).map (fun r => r.data)
    let s := s.dropReassembly origin tag
    match before with
    | none => s
    | some b =>
      let whole := b ++ data
      if 1024 < whole.length then s.discardMsg
      else if eom then (s.takeMessage whole)
      else
        let r : Reassembly := { srcEid := origin, tag := tag, data := whole, lastAt := s.now }
        (s.modMgmt (fun m => { m with reassembly := m.reassembly ++ [r] }))

def execMctpPacket (origin : Byte) (tag : Nat) (som eom pecOk : Bool) (data : Bytes) (s : State) : Host.Outcome State Fault Refusal :=
  s.conclude (actMctpPacket origin tag som eom pecOk data s)

/-- A gap of 100 ms discards a message in reassembly, counted. [log 121 DEDUCED] -/
def actReassemblyTimeout (origin : Byte) (tag : Nat) (s : State) : State :=
  match s.mgmt.reassembly.find? (Reassembly.of origin tag) with
  | none => s
  | some r => if s.now < r.lastAt + portLimit then s else (s.dropReassembly origin tag).discardMsg

def execReassemblyTimeout (origin : Byte) (tag : Nat) (s : State) : Host.Outcome State Fault Refusal :=
  s.conclude (actReassemblyTimeout origin tag s)

end Sys2Proof.Machine
end

