-- ==== Sys2Proof/Machine/ShedEvents.lean ====
section
/-!
DEFINITION. What happens in the Shed without a command: tamper events, battery root generation, the patrol, BATTERY_LOW, the DEBUG state
(R670, R683, R691, R692, R699, R700, R708 to R717); the memory patrol scrubber and errors of the error logs (R857, R864).
-/

namespace Sys2Proof.Machine
open Sys2Proof

def allParts : List (Fin 64) := (List.range 64).map (Fin.ofNat 64)

def State.modShed (s : State) (f : Shed → Shed) : State := { s with shed := f s.shed }

/-! ### Tamper (R708 to R711, R713, R717) -/

/-- A tamper log entry; a ninth overwrites the oldest (Table 26.3). -/
def Shed.logTamper (x : Shed) (c : TamperCause) (t : Nat) : Shed :=
  let l := x.tamperLog ++ [{ cause := c, time := t }]
  { x with tamperLog := l.drop (l.length - 8) }

/-- A VALID record becomes BAD with its wrapped key scrubbed (R709). -/
def SlotRec.spoil (r : SlotRec) : SlotRec := if r.state = .valid then { r with state := .bad, wrapped := [] } else r

/-- Latch the Shed's cause on PF vector 7. -/
def State.shedAlarm (s : State) : State := if s.running .hif then s.raisePf .shed else s

/-- A tamper event in the order of R709, key commands in progress losing to it (R706). -/
def State.tamper (s : State) (c : TamperCause) : State :=
  let s := s.endKeys
  let s := s.modShed (fun x => { x with batteryRoot := none, slots := Tab.map (fun _ (r : SlotRec) => r.spoil) x.slots })
  let s := s.modShed (fun x => x.logTamper c s.now)
  let s := if s.running .fe then (allParts.foldl (fun s p => if s.created p then s.destroyPartition p else s) s).shedAlarm else s
  if s.mgmt.firmware then (s.latchAlert .tamper).sampleState 12 else s

/-- Whether a condition acts: TAMPER_IN only while enabled, VBAT low only with VDD_AUX absent (Table 20.6). -/
def State.tamperActs (s : State) : TamperCause → Bool
  | .tamperIn => s.shed.tamperIn
  | .vbatLow => !s.power.pwrgdAux
  | _ => true

/-- Every island's epoch restarts at 0x0001 (R67). -/
def State.restartEpochs (s : State) : State := allIslands.foldl (fun s d => s.setIsland d { s.island d with epoch := 1 }) s

/-- VDD_AUX and VBAT have both been lost: what VBAT held is gone, the epoch file too, every record is EMPTY, and no tamper handling
follows (R67, R711, R717). BROOT_GEN is then free. [log 116 DEDUCED] -/
def State.batteryLost (s : State) : State :=
  let (g, s) := s.restartEpochs.freeNat
  let s := s.modShed (fun x => { x with
    batteryRoot := none, slots := [], tamperLog := [], tamperIn := false, tamperInHigh := false, brootGen := BitVec.ofNat 32 g })
  s.modShed (fun x => x.logTamper .batteryLost s.now)

/-- TAMPER_EVENT: a condition has held for its filter time, or (`holds` false) has ended. ROOT_CORRUPT acts as an event and is no
lasting condition; BATTERY_LOST is found at AUX rise. [log 116 DEDUCED] -/
def actTamperEvent (cause : TamperCause) (holds : Bool) (s : State) : State :=
  if !holds then (s.modShed (fun x => { x with conditions := x.conditions.filter (· != cause) }))
  else match cause with
    | .batteryLost => if s.power.pwrgdAux then s else s.batteryLost
    | .rootCorrupt => if s.shed.batteryRoot.isSome then (s.tamper .rootCorrupt) else s
    | c =>
      if !s.tamperActs c || s.shed.conditions.contains c then s
      else ((s.modShed (fun x => { x with conditions := x.conditions ++ [c] })).tamper c)

def execTamperEvent (cause : TamperCause) (holds : Bool) (s : State) : Host.Outcome State Fault Refusal :=
  s.conclude (actTamperEvent cause holds s)

/-- BATTERY_ROOT_GENERATION: with no root held and no tamper condition, 512 noise bits give a new root (R683). -/
def actBatteryRootGeneration (s : State) : State :=
  if s.shed.batteryRoot.isSome || !s.shed.conditions.isEmpty || !s.running .shed then s
  else
    let (b, s) := s.freeBytes 64
    (s.modShed (fun x => { x with batteryRoot := some ((sha384 b).take 32), brootGen := x.brootGen + 1 }))

def execBatteryRootGeneration (s : State) : Host.Outcome State Fault Refusal := s.conclude (actBatteryRootGeneration s)

/-- BATTERY_LOW: VBAT below 2.2 V while VDD_AUX is present (R712). -/
def actBatteryLow (low : Bool) (s : State) : State :=
  if !s.power.pwrgdAux || !s.running .shed || low == s.shed.batteryLow then s
  else
    let s := s.modShed (fun x => { x with batteryLow := low })
    if low then
      let s := s.shedAlarm
      (if s.mgmt.firmware then s.latchAlert .tamper else s)
    else s

def execBatteryLow (low : Bool) (s : State) : Host.Outcome State Fault Refusal := s.conclude (actBatteryLow low s)

/-! ### The patrol (R691, R692, R699, R713) -/

/-- The check of one tenant slot: an uncorrectable error or a failing record makes it BAD; without the PUF root no record can be
checked. [log 116 DEDUCED] -/
def State.patrolSlot (s : State) (uce : List Nat) (n : Nat) : State :=
  let r := s.slot n
  if r.state != .valid then s
  else if uce.contains n then s.slotBad n
  else if s.shed.pufRoot.isNone then s
  else if (s.slotKey n r).isNone then s.slotBad n
  else s

/-- A policy tag that fails takes its partition (R699). -/
def State.patrolPolicy (s : State) (bad : List Nat) (p : Fin 64) : State :=
  let fails := ((s.partition? p).map (fun (r : Partition) => !r.policy.tagOk)).getD false || bad.contains p.val
  if s.created p && fails then (s.destroyPartition p).shedAlarm else s

/-- SLOT_PATROL, once each second. `uce` are the slots whose records hold an uncorrectable error, `policies` the partitions whose policy
tag fails, `root` whether the battery root's check does. -/
def actSlotPatrol (uce : List Nat) (policies : List Nat) (root : Bool) (s : State) : State :=
  if !s.running .shed || s.now < s.shed.patrolAt + 1000000000 then s
  else
    let s := s.modShed (fun x => { x with patrolAt := s.now })
    let s := if root && s.shed.batteryRoot.isSome then s.tamper .rootCorrupt else s
    let s := (List.range 240).foldl (fun s k => s.patrolSlot uce (16 + k)) s
    (allParts.foldl (fun s p => s.patrolPolicy policies p) s)

def execSlotPatrol (uce : List Nat) (policies : List Nat) (root : Bool) (s : State) : Host.Outcome State Fault Refusal :=
  s.conclude (actSlotPatrol uce policies root s)

/-! ### DEBUG (R670, R700) -/

/-- DEBUG_ENTRY, until the next cold reset; DEBUG_STATE and the capabilities that DEBUG takes away change in every view (R110).
[log 116 DEDUCED, 134 DEDUCED] -/
def actDebugEntry (s : State) : State :=
  if s.shed.debug || !s.running .shed then s
  else
    let s := allParts.foldl (fun s p => if s.isCold p then s.destroyPartition p else s) s
    let s := (List.range 240).foldl (fun s k => if (s.slot (16 + k)).state == .empty then s else s.eraseSlot (16 + k)) s
    (s.modShed (fun x => { x with debug := true, pufRoot := some Config.testRoot, batteryRoot := some Config.testRoot })).stepAllViews

def execDebugEntry (s : State) : Host.Outcome State Fault Refusal := s.conclude (actDebugEntry s)

/-! ### The memory patrol scrubber and the logs' own errors (R857, R858, R864) -/

def memLines : Nat := 2 ^ 32

/-- PATROL_SCRUB: the next line is read; a correctable error is written back, an uncorrectable one becomes poison. [log 117 DEDUCED] -/
def actPatrolScrub (found : EccFound) (s : State) : State :=
  let l := s.part.patrolLine
  let a := 64 * l
  if !s.running (memcOf a) || s.power.mainHeld then s
  else
    let seen : EccFound := if s.part.uncorrectable.contains l then (match found with
      | .uncorrectable x => .uncorrectable x
      | _ => .uncorrectable 0)
      else if found == .clean && s.part.correctable.contains l then .corrected 0 else found
    let s := { s with part := { s.part with patrolLine := (l + 1) % memLines } }
    match seen with
    | .clean => s
    | .corrected x =>
      let s := { s with part := { s.part with correctable := s.part.correctable.filter (· != l) } }
      (s.logErr 2 (memcOf a) (s.lineOwner a) .ce .memCe a x)
    | .uncorrectable x =>
      if s.part.poisonLines.contains l then s
      else
        let s := { s with part := { s.part with
          uncorrectable := s.part.uncorrectable.filter (· != l)
          poisonLines := insertNat l s.part.poisonLines } }
        ((s.countUce (a / chunkBytes)).logErr 2 (memcOf a) (s.lineOwner a) .contained .memUce a x)

def execPatrolScrub (found : EccFound) (s : State) : Host.Outcome State Fault Refusal := s.conclude (actPatrolScrub found s)

/-- The entry that stands for one whose parity failed. [log 117 DEDUCED] -/
def corruptEntry : ErrEntry := { cause := .logCorrupt, cls := .protocol, count := 0 }

/-- LOG_PARITY: the entry of a slot is replaced, or with no slot named CP_ERRLOG_STATUS has failed: the log is cleared and takes that
entry. [log 117 DEDUCED] -/
def actLogParity (log : Fin 16) (slot : Option (Fin 256)) (s : State) : State :=
  let l := Tab.get s.err.logs {} log.val
  let put (l' : ErrLog) : State := ({ s with err := { s.err with logs := Tab.set s.err.logs {} log.val l' } }).raisePf (.errlog log.val)
  if !s.running .shed then s
  else match slot with
    | some k =>
      if (Tab.find? l.slots k.val).isNone then s
      else (put { l with slots := Tab.insert l.slots k.val corruptEntry })
    | none =>
      let l' : ErrLog := { slots := [(0, corruptEntry)], nextSeq := 1 }
      (put l')

def execLogParity (log : Fin 16) (slot : Option (Fin 256)) (s : State) : Host.Outcome State Fault Refusal :=
  s.conclude (actLogParity log slot s)

end Sys2Proof.Machine
end

