-- ==== Sys2Proof/Machine/Dispatch.lean ====
section
/-!
DEFINITION. The meaning of each command: one arm per constructor, each a direct call of that command's own meaning.
-/

namespace Sys2Proof.Machine
open Sys2Proof

def exec (i : Instr) (s : State) : Host.Outcome State Fault Refusal :=
  match i with
  | .nop src pkt => Sys2Proof.Machine.execNop src pkt s
  | .fenceWait src pkt => Sys2Proof.Machine.execFenceWait src pkt s
  | .fenceSignal src pkt => Sys2Proof.Machine.execFenceSignal src pkt s
  | .signalRemote src pkt => Sys2Proof.Machine.execSignalRemote src pkt s
  | .ringJump src pkt => Sys2Proof.Machine.execRingJump src pkt s
  | .residentStart src pkt => Sys2Proof.Machine.execResidentStart src pkt s
  | .residentPost src pkt => Sys2Proof.Machine.execResidentPost src pkt s
  | .residentStop src pkt => Sys2Proof.Machine.execResidentStop src pkt s
  | .barrier src pkt => Sys2Proof.Machine.execBarrier src pkt s
  | .copy src pkt => Sys2Proof.Machine.execCopy src pkt s
  | .fill src pkt => Sys2Proof.Machine.execFill src pkt s
  | .scrub src pkt => Sys2Proof.Machine.execScrub src pkt s
  | .hostPull src pkt => Sys2Proof.Machine.execHostPull src pkt s
  | .hostPush src pkt => Sys2Proof.Machine.execHostPush src pkt s
  | .roundOpen src pkt => Sys2Proof.Machine.execRoundOpen src pkt s
  | .roundLayout src pkt => Sys2Proof.Machine.execRoundLayout src pkt s
  | .ingestBind src pkt => Sys2Proof.Machine.execIngestBind src pkt s
  | .harvest src pkt => Sys2Proof.Machine.execHarvest src pkt s
  | .sharesSubmit src pkt => Sys2Proof.Machine.execSharesSubmit src pkt s
  | .revealCombine src pkt => Sys2Proof.Machine.execRevealCombine src pkt s
  | .unmask src pkt => Sys2Proof.Machine.execUnmask src pkt s
  | .codedDecode src pkt => Sys2Proof.Machine.execCodedDecode src pkt s
  | .seal src pkt => Sys2Proof.Machine.execSeal src pkt s
  | .release src pkt => Sys2Proof.Machine.execRelease src pkt s
  | .roundAbort src pkt => Sys2Proof.Machine.execRoundAbort src pkt s
  | .placementRevise src pkt => Sys2Proof.Machine.execPlacementRevise src pkt s
  | .expand src pkt => Sys2Proof.Machine.execExpand src pkt s
  | .matmul src pkt => Sys2Proof.Machine.execMatmul src pkt s
  | .routeTopk src pkt => Sys2Proof.Machine.execRouteTopk src pkt s
  | .reduceIdx src pkt => Sys2Proof.Machine.execReduceIdx src pkt s
  | .eltwise src pkt => Sys2Proof.Machine.execEltwise src pkt s
  | .modelLoad src pkt => Sys2Proof.Machine.execModelLoad src pkt s
  | .placementSet src pkt => Sys2Proof.Machine.execPlacementSet src pkt s
  | .fabDiscover src pkt => Sys2Proof.Machine.execFabDiscover src pkt s
  | .fabRoutes src pkt => Sys2Proof.Machine.execFabRoutes src pkt s
  | .windowOpen src pkt => Sys2Proof.Machine.execWindowOpen src pkt s
  | .windowClose src pkt => Sys2Proof.Machine.execWindowClose src pkt s
  | .rmaWrite src pkt => Sys2Proof.Machine.execRmaWrite src pkt s
  | .rmaRead src pkt => Sys2Proof.Machine.execRmaRead src pkt s
  | .rmaAdd src pkt => Sys2Proof.Machine.execRmaAdd src pkt s
  | .trellisForm src pkt => Sys2Proof.Machine.execTrellisForm src pkt s
  | .trellisReduce src pkt => Sys2Proof.Machine.execTrellisReduce src pkt s
  | .keyWrite src pkt => Sys2Proof.Machine.execKeyWrite src pkt s
  | .keyDerive src pkt => Sys2Proof.Machine.execKeyDerive src pkt s
  | .keyErase src pkt => Sys2Proof.Machine.execKeyErase src pkt s
  | .keyInfo src pkt => Sys2Proof.Machine.execKeyInfo src pkt s
  | .aeadSeal src pkt => Sys2Proof.Machine.execAeadSeal src pkt s
  | .aeadOpen src pkt => Sys2Proof.Machine.execAeadOpen src pkt s
  | .digest src pkt => Sys2Proof.Machine.execDigest src pkt s
  | .prove src pkt => Sys2Proof.Machine.execProve src pkt s
  | .attestReport src pkt => Sys2Proof.Machine.execAttestReport src pkt s
  | .weightsLoad src pkt => Sys2Proof.Machine.execWeightsLoad src pkt s
  | .randomFill src pkt => Sys2Proof.Machine.execRandomFill src pkt s
  | .randomReseed src pkt => Sys2Proof.Machine.execRandomReseed src pkt s
  | .randomPersonalize src pkt => Sys2Proof.Machine.execRandomPersonalize src pkt s
  | .noiseFill src pkt => Sys2Proof.Machine.execNoiseFill src pkt s
  | .partCreate src pkt => Sys2Proof.Machine.execPartCreate src pkt s
  | .partDestroy src pkt => Sys2Proof.Machine.execPartDestroy src pkt s
  | .partShares src pkt => Sys2Proof.Machine.execPartShares src pkt s
  | .shears src pkt => Sys2Proof.Machine.execShears src pkt s
  | .islandReset src pkt => Sys2Proof.Machine.execIslandReset src pkt s
  | .coldFrameEnter src pkt => Sys2Proof.Machine.execColdFrameEnter src pkt s
  | .timeSet src pkt => Sys2Proof.Machine.execTimeSet src pkt s
  | .timeAlarm src pkt => Sys2Proof.Machine.execTimeAlarm src pkt s
  | .timeOutputs src pkt => Sys2Proof.Machine.execTimeOutputs src pkt s
  | .graftPair src pkt => Sys2Proof.Machine.execGraftPair src pkt s
  | .graftUnpair src pkt => Sys2Proof.Machine.execGraftUnpair src pkt s
  | .graftTakeover src pkt => Sys2Proof.Machine.execGraftTakeover src pkt s
  | .fwStage src pkt => Sys2Proof.Machine.execFwStage src pkt s
  | .fwActivate src pkt => Sys2Proof.Machine.execFwActivate src pkt s
  | .diagLiveRead src pkt => Sys2Proof.Machine.execDiagLiveRead src pkt s
  | .diagEcho src pkt => Sys2Proof.Machine.execDiagEcho src pkt s
  | .queueFetch q => Sys2Proof.Machine.execQueueFetch q s
  | .waitSatisfied src id => Sys2Proof.Machine.execWaitSatisfied src id s
  | .dispatch csq => Sys2Proof.Machine.execDispatch csq s
  | .taskWait t fences inbox served => Sys2Proof.Machine.execTaskWait t fences inbox served s
  | .taskRead t va loc len => Sys2Proof.Machine.execTaskRead t va loc len s
  | .taskWrite t va loc len => Sys2Proof.Machine.execTaskWrite t va loc len s
  | .putSlot t q slot data => Sys2Proof.Machine.execPutSlot t q slot data s
  | .taskSignal t fence op v => Sys2Proof.Machine.execTaskSignal t fence op v s
  | .takeRecord t q => Sys2Proof.Machine.execTakeRecord t q s
  | .takeMessage t => Sys2Proof.Machine.execTakeMessage t s
  | .ownFence t fence => Sys2Proof.Machine.execOwnFence t fence s
  | .dropFence t fence => Sys2Proof.Machine.execDropFence t fence s
  | .ptDoorbellTail p q tail cqHead => Sys2Proof.Machine.execPtDoorbellTail p q tail cqHead s
  | .ptDoorbellCqHead p q v => Sys2Proof.Machine.execPtDoorbellCqHead p q v s
  | .queueEnable q v => Sys2Proof.Machine.execQueueEnable q v s
  | .queueDisable q v => Sys2Proof.Machine.execQueueDisable q v s
  | .restart q v => Sys2Proof.Machine.execRestart q v s
  | .fenceWindowWrite p f wide v => Sys2Proof.Machine.execFenceWindowWrite p f wide v s
  | .ptPartPtRoot p v => Sys2Proof.Machine.execPtPartPtRoot p v s
  | .ptPartTlbInval p v => Sys2Proof.Machine.execPtPartTlbInval p v s
  | .ptPartFaultClear p v => Sys2Proof.Machine.execPtPartFaultClear p v s
  | .ptPartChunkRelease p v => Sys2Proof.Machine.execPtPartChunkRelease p v s
  | .chunkReleaseScrub p chunk failed => Sys2Proof.Machine.execChunkReleaseScrub p chunk failed s
  | .randomPortRead p offset wide => Sys2Proof.Machine.execRandomPortRead p offset wide s
  | .rlRead r bar offset bytes => Sys2Proof.Machine.execRlRead r bar offset bytes s
  | .timeNowRead r wide => Sys2Proof.Machine.execTimeNowRead r wide s
  | .queueClassWrite p q v => Sys2Proof.Machine.execQueueClassWrite p q v s
  | .wlRegionWrite p v => Sys2Proof.Machine.execWlRegionWrite p v s
  | .errlogClear r log v => Sys2Proof.Machine.execErrlogClear r log v s
  | .tamperLogClear r v => Sys2Proof.Machine.execTamperLogClear r v s
  | .portEnable port v => Sys2Proof.Machine.execPortEnable port v s
  | .portReset port v => Sys2Proof.Machine.execPortReset port v s
  | .unfence port v => Sys2Proof.Machine.execUnfence port v s
  | .calNow e v => Sys2Proof.Machine.execCalNow e v s
  | .registerWrite r bar offset bytes v => Sys2Proof.Machine.execRegisterWrite r bar offset bytes v s
  | .bar2Access offset len data => Sys2Proof.Machine.execBar2Access offset len data s
  | .configurationRequest f g v => Sys2Proof.Machine.execConfigurationRequest f g v s
  | .flr p => Sys2Proof.Machine.execFlr p s
  | .flrComplete p failed => Sys2Proof.Machine.execFlrComplete p failed s
  | .vfEnable enable num => Sys2Proof.Machine.execVfEnable enable num s
  | .d3hot enter => Sys2Proof.Machine.execD3hot enter s
  | .msixUnmask f vector => Sys2Proof.Machine.execMsixUnmask f vector s
  | .hostCompletion f tag st data => Sys2Proof.Machine.execHostCompletion f tag st data s
  | .hostReadTimeout f tag => Sys2Proof.Machine.execHostReadTimeout f tag s
  | .linkRetrain rate width flit up => Sys2Proof.Machine.execLinkRetrain rate width flit up s
  | .dlDown => Sys2Proof.Machine.execDlDown s
  | .mainSideWarmReset => Sys2Proof.Machine.execMainSideWarmReset s
  | .mainSideBoot => Sys2Proof.Machine.execMainSideBoot s
  | .kelriValid => Sys2Proof.Machine.execKelriValid s
  | .pwrgdMainFall => Sys2Proof.Machine.execPwrgdMainFall s
  | .coldReset rising => Sys2Proof.Machine.execColdReset rising s
  | .auxReset => Sys2Proof.Machine.execAuxReset s
  | .auxBoot strap1 strap0 => Sys2Proof.Machine.execAuxBoot strap1 strap0 s
  | .auxBootComplete => Sys2Proof.Machine.execAuxBootComplete s
  | .thermTrip => Sys2Proof.Machine.execThermTrip s
  | .thermalSample tj => Sys2Proof.Machine.execThermalSample tj s
  | .powerLimit watts => Sys2Proof.Machine.execPowerLimit watts s
  | .opChange mv => Sys2Proof.Machine.execOpChange mv s
  | .droop mv => Sys2Proof.Machine.execDroop mv s
  | .arrUndervoltage mv => Sys2Proof.Machine.execArrUndervoltage mv s
  | .plotGate k => Sys2Proof.Machine.execPlotGate k s
  | .plotWake k => Sys2Proof.Machine.execPlotWake k s
  | .islandRun d kat => Sys2Proof.Machine.execIslandRun d kat s
  | .resetFailed d => Sys2Proof.Machine.execResetFailed d s
  | .kelriRebuild f => Sys2Proof.Machine.execKelriRebuild f s
  | .epochParity d => Sys2Proof.Machine.execEpochParity d s
  | .crossingParity d item => Sys2Proof.Machine.execCrossingParity d item s
  | .staleReply d epoch agent => Sys2Proof.Machine.execStaleReply d epoch agent s
  | .deadlineAlarm e => Sys2Proof.Machine.execDeadlineAlarm e s
  | .alarm key => Sys2Proof.Machine.execAlarm key s
  | .descriptorFetch e => Sys2Proof.Machine.execDescriptorFetch e s
  | .stagingGrant e => Sys2Proof.Machine.execStagingGrant e s
  | .harvestGraceExpiry e => Sys2Proof.Machine.execHarvestGraceExpiry e s
  | .stripOperation k found => Sys2Proof.Machine.execStripOperation k found s
  | .stripResidencyLimit k => Sys2Proof.Machine.execStripResidencyLimit k s
  | .placementRevision => Sys2Proof.Machine.execPlacementRevision s
  | .harvestJoinClose e => Sys2Proof.Machine.execHarvestJoinClose e s
  | .harvestBitmapStart e => Sys2Proof.Machine.execHarvestBitmapStart e s
  | .harvestBitmapClose e => Sys2Proof.Machine.execHarvestBitmapClose e s
  | .harvestResult o m => Sys2Proof.Machine.execHarvestResult o m s
  | .harvestAbsentTimeout e => Sys2Proof.Machine.execHarvestAbsentTimeout e s
  | .revealBarrierStart o m => Sys2Proof.Machine.execRevealBarrierStart o m s
  | .revealBarrierClose e => Sys2Proof.Machine.execRevealBarrierClose e s
  | .recordRouted o m => Sys2Proof.Machine.execRecordRouted o m s
  | .mark o m => Sys2Proof.Machine.execMark o m s
  | .markAck o m => Sys2Proof.Machine.execMarkAck o m s
  | .roundStateChange o m => Sys2Proof.Machine.execRoundStateChange o m s
  | .releaseSlotGrant slot => Sys2Proof.Machine.execReleaseSlotGrant slot s
  | .gateStrip slot => Sys2Proof.Machine.execGateStrip slot s
  | .samplerBatch => Sys2Proof.Machine.execSamplerBatch s
  | .tileClaim k found stalls => Sys2Proof.Machine.execTileClaim k found stalls s
  | .tileComplete k drained => Sys2Proof.Machine.execTileComplete k drained s
  | .contextGrant aead => Sys2Proof.Machine.execContextGrant aead s
  | .turnEnd aead => Sys2Proof.Machine.execTurnEnd aead s
  | .syncExchange port => Sys2Proof.Machine.execSyncExchange port s
  | .timeFrame a t1 t2 t3 t4 => Sys2Proof.Machine.execTimeFrame a t1 t2 t3 t4 s
  | .announceTimer => Sys2Proof.Machine.execAnnounceTimer s
  | .announce a master priority generation hops lead => Sys2Proof.Machine.execAnnounce a master priority generation hops lead s
  | .announceTimeout => Sys2Proof.Machine.execAnnounceTimeout s
  | .candidacy a priority fid time => Sys2Proof.Machine.execCandidacy a priority fid time s
  | .candidacyClose => Sys2Proof.Machine.execCandidacyClose s
  | .parentLoss => Sys2Proof.Machine.execParentLoss s
  | .ppsOut => Sys2Proof.Machine.execPpsOut s
  | .todFrame => Sys2Proof.Machine.execTodFrame s
  | .timeSynthLock osc50 => Sys2Proof.Machine.execTimeSynthLock osc50 s
  | .timeSynthUnlock => Sys2Proof.Machine.execTimeSynthUnlock s
  | .signalQualified port p0 p1 => Sys2Proof.Machine.execSignalQualified port p0 p1 s
  | .trainingComplete port peer peerPort ack => Sys2Proof.Machine.execTrainingComplete port peer peerPort ack s
  | .trainingTimeout port => Sys2Proof.Machine.execTrainingTimeout port s
  | .floodDetected port x cut => Sys2Proof.Machine.execFloodDetected port x cut s
  | .backoffExpiry port => Sys2Proof.Machine.execBackoffExpiry port s
  | .activeHold port => Sys2Proof.Machine.execActiveHold port s
  | .los port p0 p1 => Sys2Proof.Machine.execLos port p0 p1 s
  | .faultPattern port => Sys2Proof.Machine.execFaultPattern port s
  | .nakBurst port => Sys2Proof.Machine.execNakBurst port s
  | .linkAck port lseq => Sys2Proof.Machine.execLinkAck port lseq s
  | .linkNak port lseq => Sys2Proof.Machine.execLinkNak port lseq s
  | .replayTimeout port => Sys2Proof.Machine.execReplayTimeout port s
  | .replayBufferEcc port => Sys2Proof.Machine.execReplayBufferEcc port s
  | .tagFailure port => Sys2Proof.Machine.execTagFailure port s
  | .synthLock e temp => Sys2Proof.Machine.execSynthLock e temp s
  | .synthLockTimeout e => Sys2Proof.Machine.execSynthLockTimeout e s
  | .synthLockRetry e => Sys2Proof.Machine.execSynthLockRetry e s
  | .losInDazzled port => Sys2Proof.Machine.execLosInDazzled port s
  | .temperatureDrift e temp => Sys2Proof.Machine.execTemperatureDrift e temp s
  | .calibrationDrained e => Sys2Proof.Machine.execCalibrationDrained e s
  | .calibrationEnd e temp => Sys2Proof.Machine.execCalibrationEnd e temp s
  | .drainTimeout e => Sys2Proof.Machine.execDrainTimeout e s
  | .calibrationRetry e => Sys2Proof.Machine.execCalibrationRetry e s
  | .pause a => Sys2Proof.Machine.execPause a s
  | .unpause a => Sys2Proof.Machine.execUnpause a s
  | .unpauseTimeout port => Sys2Proof.Machine.execUnpauseTimeout port s
  | .discover a h d => Sys2Proof.Machine.execDiscover a h d s
  | .linkState a h d => Sys2Proof.Machine.execLinkState a h d s
  | .write a h data => Sys2Proof.Machine.execWrite a h data s
  | .readReq a h data => Sys2Proof.Machine.execReadReq a h data s
  | .readResp a h data => Sys2Proof.Machine.execReadResp a h data s
  | .add a h data => Sys2Proof.Machine.execAdd a h data s
  | .signal a h data => Sys2Proof.Machine.execSignal a h data s
  | .probe a h data => Sys2Proof.Machine.execProbe a h data s
  | .ack a h data => Sys2Proof.Machine.execAck a h data s
  | .nak a h data => Sys2Proof.Machine.execNak a h data s
  | .retransmitTimeout dest psn => Sys2Proof.Machine.execRetransmitTimeout dest psn s
  | .retransmitGiveUp dest psn => Sys2Proof.Machine.execRetransmitGiveUp dest psn s
  | .windowHandleFree p h => Sys2Proof.Machine.execWindowHandleFree p h s
  | .trellisChunk o m found => Sys2Proof.Machine.execTrellisChunk o m found s
  | .keepalive => Sys2Proof.Machine.execKeepalive s
  | .escalation e => Sys2Proof.Machine.execEscalation e s
  | .propose o m => Sys2Proof.Machine.execPropose o m s
  | .standbyTakeover e => Sys2Proof.Machine.execStandbyTakeover e s
  | .leave o m => Sys2Proof.Machine.execLeave o m s
  | .pairRequest a h m => Sys2Proof.Machine.execPairRequest a h m s
  | .pairTimeout => Sys2Proof.Machine.execPairTimeout s
  | .heartbeatTimer => Sys2Proof.Machine.execHeartbeatTimer s
  | .heartbeat a h m => Sys2Proof.Machine.execHeartbeat a h m s
  | .heartbeatSilence => Sys2Proof.Machine.execHeartbeatSilence s
  | .renewalTimer => Sys2Proof.Machine.execRenewalTimer s
  | .renewal o m => Sys2Proof.Machine.execRenewal o m s
  | .renewalAck o m => Sys2Proof.Machine.execRenewalAck o m s
  | .leaseLapse => Sys2Proof.Machine.execLeaseLapse s
  | .takeoverRequest o m => Sys2Proof.Machine.execTakeoverRequest o m s
  | .grant o m => Sys2Proof.Machine.execGrant o m s
  | .refuse o m => Sys2Proof.Machine.execRefuse o m s
  | .substitution o m => Sys2Proof.Machine.execSubstitution o m s
  | .mirrorItem a h seq epoch item => Sys2Proof.Machine.execMirrorItem a h seq epoch item s
  | .mirrorAck a h m => Sys2Proof.Machine.execMirrorAck a h m s
  | .witnessFailover target => Sys2Proof.Machine.execWitnessFailover target s
  | .witnessHoldEnd a b => Sys2Proof.Machine.execWitnessHoldEnd a b s
  | .tamperEvent cause holds => Sys2Proof.Machine.execTamperEvent cause holds s
  | .batteryRootGeneration => Sys2Proof.Machine.execBatteryRootGeneration s
  | .slotPatrol uce policies root => Sys2Proof.Machine.execSlotPatrol uce policies root s
  | .batteryLow low => Sys2Proof.Machine.execBatteryLow low s
  | .cellTestFail c apt => Sys2Proof.Machine.execCellTestFail c apt s
  | .cellRetry c => Sys2Proof.Machine.execCellRetry c s
  | .startupTestPass c => Sys2Proof.Machine.execStartupTestPass c s
  | .blockConditioned c => Sys2Proof.Machine.execBlockConditioned c s
  | .queueRefill p => Sys2Proof.Machine.execQueueRefill p s
  | .patrolScrub found => Sys2Proof.Machine.execPatrolScrub found s
  | .logParity log slot => Sys2Proof.Machine.execLogParity log slot s
  | .command ticket body => Sys2Proof.Machine.execCommand ticket body s
  | .poll ticket body => Sys2Proof.Machine.execPoll ticket body s
  | .mainReset ticket body => Sys2Proof.Machine.execMainReset ticket body s
  | .mainResetRelease => Sys2Proof.Machine.execMainResetRelease s
  | .alert ticket body => Sys2Proof.Machine.execAlert ticket body s
  | .resultExpiry ticket => Sys2Proof.Machine.execResultExpiry ticket s
  | .setEndpointId op eid => Sys2Proof.Machine.execSetEndpointId op eid s
  | .getEndpointId => Sys2Proof.Machine.execGetEndpointId s
  | .getEndpointUuid => Sys2Proof.Machine.execGetEndpointUuid s
  | .getMctpVersionSupport type => Sys2Proof.Machine.execGetMctpVersionSupport type s
  | .getMessageTypeSupport => Sys2Proof.Machine.execGetMessageTypeSupport s
  | .getVendorDefinedMessageSupport sel => Sys2Proof.Machine.execGetVendorDefinedMessageSupport sel s
  | .gettid => Sys2Proof.Machine.execGettid s
  | .getpldmversion type => Sys2Proof.Machine.execGetpldmversion type s
  | .getpldmtypes => Sys2Proof.Machine.execGetpldmtypes s
  | .getpldmcommands type => Sys2Proof.Machine.execGetpldmcommands type s
  | .getpdrrepositoryinfo => Sys2Proof.Machine.execGetpdrrepositoryinfo s
  | .getpdr handle => Sys2Proof.Machine.execGetpdr handle s
  | .getsensorreading sensor => Sys2Proof.Machine.execGetsensorreading sensor s
  | .getstatesensorreadings sensor => Sys2Proof.Machine.execGetstatesensorreadings sensor s
  | .seteventreceiver receiver => Sys2Proof.Machine.execSeteventreceiver receiver s
  | .pldmType5Update cmd data => Sys2Proof.Machine.execPldmType5Update cmd data s
  | .activatefirmware => Sys2Proof.Machine.execActivatefirmware s
  | .updateAgentTimeout => Sys2Proof.Machine.execUpdateAgentTimeout s
  | .sensorSample sensor v => Sys2Proof.Machine.execSensorSample sensor v s
  | .platformeventmessageResend sensor => Sys2Proof.Machine.execPlatformeventmessageResend sensor s
  | .entdaa addr => Sys2Proof.Machine.execEntdaa addr s
  | .setdasa static_ addr => Sys2Proof.Machine.execSetdasa static_ addr s
  | .setnewda addr => Sys2Proof.Machine.execSetnewda addr s
  | .rstdaa => Sys2Proof.Machine.execRstdaa s
  | .enec => Sys2Proof.Machine.execEnec s
  | .disec => Sys2Proof.Machine.execDisec s
  | .getpid => Sys2Proof.Machine.execGetpid s
  | .getbcr => Sys2Proof.Machine.execGetbcr s
  | .getdcr => Sys2Proof.Machine.execGetdcr s
  | .getstatus => Sys2Proof.Machine.execGetstatus s
  | .getmrl => Sys2Proof.Machine.execGetmrl s
  | .getmwl => Sys2Proof.Machine.execGetmwl s
  | .setmrl len => Sys2Proof.Machine.execSetmrl len s
  | .setmwl len => Sys2Proof.Machine.execSetmwl len s
  | .alertResponseAddress => Sys2Proof.Machine.execAlertResponseAddress s
  | .smbusClockTimeout => Sys2Proof.Machine.execSmbusClockTimeout s
  | .reassemblyTimeout origin tag => Sys2Proof.Machine.execReassemblyTimeout origin tag s
  | .ibiTimeout => Sys2Proof.Machine.execIbiTimeout s
  | .responseUnreadTimeout => Sys2Proof.Machine.execResponseUnreadTimeout s
  | .responseRetry => Sys2Proof.Machine.execResponseRetry s
  | .mgmtFirmwareActivation => Sys2Proof.Machine.execMgmtFirmwareActivation s
  | .extest => Sys2Proof.Machine.execExtest s
  | .idcode => Sys2Proof.Machine.execIdcode s
  | .samplePreload lands shift => Sys2Proof.Machine.execSamplePreload lands shift s
  | .clamp => Sys2Proof.Machine.execClamp s
  | .highz => Sys2Proof.Machine.execHighz s
  | .bypass => Sys2Proof.Machine.execBypass s
  | .tapReset => Sys2Proof.Machine.execTapReset s
  | .debugEntry => Sys2Proof.Machine.execDebugEntry s
  | .commandCompletion src id => Sys2Proof.Machine.execCommandCompletion src id s
  | .idlePlotRelease k => Sys2Proof.Machine.execIdlePlotRelease k s
  | .tlbInvalidationComplete p => Sys2Proof.Machine.execTlbInvalidationComplete p s
  | .witnessLeaseExpiry a b => Sys2Proof.Machine.execWitnessLeaseExpiry a b s
  | .graftAnswerTimeout => Sys2Proof.Machine.execGraftAnswerTimeout s
  | .frameCrcFailure port line => Sys2Proof.Machine.execFrameCrcFailure port line s
  | .dlUp rate width flit => Sys2Proof.Machine.execDlUp rate width flit s
  | .pwrgdMainRise => Sys2Proof.Machine.execPwrgdMainRise s
  | .mctpPacket origin tag som eom pecOk data => Sys2Proof.Machine.execMctpPacket origin tag som eom pecOk data s
  | .platformEventAcknowledgement sensor => Sys2Proof.Machine.execPlatformEventAcknowledgement sensor s
  | .aerError f err => Sys2Proof.Machine.execAerError f err s
  | .roundKeyTransfer o m => Sys2Proof.Machine.execRoundKeyTransfer o m s
  | .homeMap o m => Sys2Proof.Machine.execHomeMap o m s
  | .trellisAcknowledgement o m => Sys2Proof.Machine.execTrellisAcknowledgement o m s
  | .time10mOut => Sys2Proof.Machine.execTime10mOut s

end Sys2Proof.Machine
end

