-- ==== Sys2Proof/Machine/Step.lean ====
section
/-!
DEFINITION. One step of the block: the command at the front of the queue, or one TIME-island cycle when none waits.
-/

namespace Sys2Proof.Machine
open Sys2Proof

/-- Log 1 DESIGN CHOICE, 2 DESIGN CHOICE, 131 DESIGN CHOICE. -/
def step (s : State) : Host.Outcome State Fault Refusal :=
  match s.pending with
  | [] => s.conclude (tick s)
  | c :: rest => exec c { s with pending := rest }

def State.withFetchWord (s : State) (nbits w : Nat) : State :=
  match decodeTableWord nbits w with
  | none => s
  | some c => { s with pending := c :: s.pending }

end Sys2Proof.Machine
end

