-- ==== Sys2Proof/Safety.lean ====
section
/-!
DEFINITION. The terms in which claims speak of the block: what a safe state is, when a presented command packet goes to its
own effect in the step that presents it, and how a command stands in flight after it.
-/

namespace Sys2Proof.Machine
open Sys2Proof

/-- Device memory is in its canonical form. -/
abbrev State.memOk (s : State) : Prop := Memory.wf s.part.mem = true

/-- A header that asks for nothing beside the command: no WAIT, SIGNAL, BARRIER or indirect pair. -/
def Header.plain (h : Header) : Bool := !h.wait && !h.signal && !h.barrier && h.indMask == 0

/-- The M commands that find what they need (R192). -/
def State.mgmtServes (s : State) (p : Packet) : Bool :=
  isAuxCmd p.header.op.toNat p.word || (s.kelri.pf.valid && !s.mainInReset)

/-- The caller's completion ring has room; the Drinoner port has none (R206). -/
def State.recordRoom (s : State) (src : Source) : Bool :=
  match src with
  | .mgmt _ => true
  | _ => !(s.queue src).cqFull

/-- An M command finds the units it needs; the other callers' rule is in what they fetch (R192, R193). -/
def State.served (s : State) (src : Source) (p : Packet) : Bool :=
  match src with
  | .mgmt _ => s.mgmtServes p
  | _ => true

/-- A packet of `src` that the AUX domain executes, which takes no dispatch slot (R192, R236). -/
def inAux (src : Source) (p : Packet) : Bool := Cmd.inAux { src := src, id := 0, pkt := p }

/-- A packet presented by `src` goes to its own effect at once: the part fetches from the caller (R193, R199 to R204),
nothing of the caller is in flight, nothing awaits a slot of its sequencer if it takes one (R208), and no CHAIN binds it (R161, R162), stage 1 finds nothing (R167), the header is plain,
the completion ring has room (R206), an M command is served (R192), and no pair mirrors or drains (R620, R633). -/
def State.ready (s : State) (sp : OpSpec) (src : Source) (p : Packet) : Bool :=
  let p := p.withOp sp.code
  s.fetchable src && s.q.cmds.all (fun c => c.src != src) && (inAux src p || s.seqFree src) &&
  !((s.queue src).last.any (fun l => l.chain)) &&
  (stage1Of sp src p (s.queue src).jump.isSome).isNone && p.header.plain &&
  s.recordRoom src && s.served src p &&
  s.graft.waits.isEmpty && (sp.code / 256 != 2 || (s.graft.state != .mirroring && !s.graft.draining))

/-- A packet presented by `src` whose header and unused words pass stage 1: what `ready` asks of it but for its words' values (R167, R175). -/
def State.headed (s : State) (sp : OpSpec) (src : Source) (p : Packet) : Bool :=
  let p := p.withOp sp.code
  s.fetchable src && s.q.cmds.all (fun c => c.src != src) && !((s.queue src).last.any (fun l => l.chain)) && p.header.plain &&
  (headerFails sp src p).isEmpty && (unusedFails sp p).isEmpty && s.recordRoom src && s.graft.waits.isEmpty

/-- The number a packet presented by `src` takes. -/
def State.nextCmd (s : State) (src : Source) : Nat := (s.queue src).nextId

/-- The packet of a row as a command in flight, dispatched. -/
def State.flying (s : State) (sp : OpSpec) (src : Source) (p : Packet) : Cmd :=
  let p := p.withOp sp.code
  { src := src, id := s.nextCmd src, pkt := p
    epoch := s.dispatchEpoch src
    tag := s.sourceTag (srcIsland src)
    serial := s.q.serial src
    words := (List.range p.words).map p.word }

/-- The state after a ready packet is fetched: its caller's number goes on, and no CHAIN outcome is known. -/
def State.counted (s : State) (sp : OpSpec) (src : Source) (p : Packet) : State :=
  let q := s.queue src
  s.setQueue src { q with
    nextId := q.nextId + 1
    last := some { id := q.nextId, chain := (p.withOp sp.code).header.chain, outcome := none } }

/-- The queue block once a ready packet has its slot, if it takes one. -/
def State.slotted (s : State) (sp : OpSpec) (src : Source) (p : Packet) : Queues :=
  if inAux src (p.withOp sp.code) then (s.counted sp src p).q else ((s.counted sp src p).takeDispatch src).q

/-- The state that stages 4 and 5 of a ready packet see: the packet is in flight, the last of its caller, with its slot and its serial
number. -/
def State.atBody (s : State) (sp : OpSpec) (src : Source) (p : Packet) : State :=
  let b := s.slotted sp src p
  { s with q := { b with serials := b.nextSerials src, cmds := s.q.cmds ++ [s.flying sp src p] } }

/-- What the body of a ready packet is given. -/
def State.ctxOf (s : State) (sp : OpSpec) (src : Source) (p : Packet) : Ctx :=
  { src := src, id := s.nextCmd src, hdr := (p.withOp sp.code).header, w := p.word }

/-- In `t` the packet that `src` presented in `s` has completed with `st` and `res`: it is the newest command in flight, its
record still to be written, and the other commands are as they were. -/
def Completed (s t : State) (src : Source) (st : Status) (res : List W32) : Prop :=
  ∃ c, t.q.cmds = s.q.cmds ++ [c] ∧ c.src = src ∧ c.id = s.nextCmd src ∧ c.phase = .done s.q.doneOrd st res s.now

/-- Command `c`, number `id` of `src`, ends when its effects do: it is no shadow of a mirrored command, asks for no SIGNAL, no
CHAIN hangs on it, and no mirror item waits. -/
def State.endsCmd (s : State) (src : Source) (id : Nat) (c : Cmd) : Prop :=
  s.cmd? src id = some c ∧ c.mirrored = none ∧ c.pkt.header.signal = false ∧ (∀ d ∈ s.q.cmds, d.src = src → d.chain ≠ .after id) ∧
  s.graft.waits = []

/-- In `t` command `id` of `src` has completed with `st` and `res`, and the other commands in flight are as they were. -/
def Ended (s t : State) (src : Source) (id : Nat) (st : Status) (res : List W32) : Prop :=
  t.q.cmds = s.q.cmds.map (fun d => if d.src == src && d.id == id then { d with phase := .done s.q.doneOrd st res s.now } else d)

/-- In `t` the packet that `src` presented in `s` is at stage 5, waiting as `w` says. -/
def Executes (s t : State) (src : Source) (w : Work) : Prop :=
  ∃ c, t.q.cmds = s.q.cmds ++ [c] ∧ c.src = src ∧ c.id = s.nextCmd src ∧ c.phase = .executing w

/-- Nothing of the queue block has changed but what the dispatch slot of a command of `src` moves on (none where the AUX domain
executes it) and its serial number, the caller's own queue record, the commands in flight, the count of completions and the progress
counters (R208, R222, R233). -/
def QueuesMoved (s t : State) (src : Source) : Prop :=
  ∃ u : State, (u = s.takeDispatch src ∨ (∃ k, src = .mgmt k) ∧ u = s) ∧
    (∀ k, k ≠ srcKey src → Tab.find? t.q.queues k = Tab.find? u.q.queues k) ∧
    t.queue src = { u.queue src with nextId := (s.queue src).nextId + 1, last := (t.queue src).last } ∧
    t.q = { u.q with
      cmds := t.q.cmds, doneOrd := t.q.doneOrd, queues := t.q.queues, progress := t.q.progress, serials := s.q.nextSerials src }

/-- As `QueuesMoved`, and no progress counter has changed. -/
def QueuesKept (s t : State) (src : Source) : Prop := QueuesMoved s t src ∧ t.q.progress = s.q.progress

/-- Every unit but the queue block is as it was. -/
def UnitsKept (s t : State) : Prop := t = { s with q := t.q }

/-- The units that State holds one field for. -/
inductive Field where
  | isl | kelri | q | hif | rounds | time | plot | trellis | spetar | graft | part | shed | attest | random | mgmt | power | err | reg | freeCtr | pending
deriving DecidableEq, Repr

/-- A unit is as it was. -/
def State.sameAt (s t : State) : Field → Prop
  | .isl => t.isl = s.isl
  | .kelri => t.kelri = s.kelri
  | .q => t.q = s.q
  | .hif => t.hif = s.hif
  | .rounds => t.rounds = s.rounds
  | .time => t.time = s.time
  | .plot => t.plot = s.plot
  | .trellis => t.trellis = s.trellis
  | .spetar => t.spetar = s.spetar
  | .graft => t.graft = s.graft
  | .part => t.part = s.part
  | .shed => t.shed = s.shed
  | .attest => t.attest = s.attest
  | .random => t.random = s.random
  | .mgmt => t.mgmt = s.mgmt
  | .power => t.power = s.power
  | .err => t.err = s.err
  | .reg => t.reg = s.reg
  | .freeCtr => t.freeCtr = s.freeCtr
  | .pending => t.pending = s.pending

/-- No unit has changed but those listed. -/
def Only (l : List Field) (s t : State) : Prop := ∀ f, f ∉ l → s.sameAt t f

/-- Nothing has changed but the partitions' chunk states and marks of bad data, the error logs and the host interface: what
translating and reading may do. -/
structure Within (s t : State) : Prop where
  isl : t.isl = s.isl
  kelri : t.kelri = s.kelri
  q : t.q = s.q
  rounds : t.rounds = s.rounds
  time : t.time = s.time
  plot : t.plot = s.plot
  trellis : t.trellis = s.trellis
  spetar : t.spetar = s.spetar
  graft : t.graft = s.graft
  shed : t.shed = s.shed
  attest : t.attest = s.attest
  random : t.random = s.random
  mgmt : t.mgmt = s.mgmt
  power : t.power = s.power
  reg : t.reg = s.reg
  freeCtr : t.freeCtr = s.freeCtr
  pending : t.pending = s.pending

/-- Nothing has changed but the queue block, the partitions and their memory, the error logs, the host interface and the counter
of free values: what a command that moves data may change. -/
structure DataOnly (s t : State) : Prop where
  isl : t.isl = s.isl
  kelri : t.kelri = s.kelri
  rounds : t.rounds = s.rounds
  time : t.time = s.time
  plot : t.plot = s.plot
  trellis : t.trellis = s.trellis
  spetar : t.spetar = s.spetar
  graft : t.graft = s.graft
  shed : t.shed = s.shed
  attest : t.attest = s.attest
  random : t.random = s.random
  mgmt : t.mgmt = s.mgmt
  power : t.power = s.power
  reg : t.reg = s.reg
  pending : t.pending = s.pending

/-- What a main-side warm reset that is asserted and held leaves (Table 2.4): every main island in RESET with a new epoch unless it
was there already, what waited in the crossings into the optical engines counted as dropped, the AUX islands as they were, of the queues what
is the AUX domain's, and nothing of the main side's rounds, partitions, views, Trellises, graft pair and contexts. -/
structure MainDown (s t : State) : Prop where
  held : t.power.mainHeld = true
  main : ∀ d, isMain d = true → t.island d = (s.dropCrossings.island d).hold
  counts : ∀ d, isMain d = true → (∀ e, d ≠ .oe e) → t.island d = (s.island d).hold
  aux : ∀ d, isMain d = false → t.island d = s.island d
  queues : t.q = s.q.auxPart
  rounds : t.rounds.table = []
  parts : t.part.parts = []
  views : t.kelri = {}
  trellis : t.trellis = {}
  graft : t.graft = {}
  contexts : t.attest = {}
  shed : t.shed = s.shed

/-- The main side has left its reset and boots: its islands' 1 ms runs (R91), and nothing else has changed but what the boot reads
and reports. -/
structure MainFreed (s t : State) : Prop where
  free : t.power.mainHeld = false
  booting : t.power.booting = true
  main : ∀ d, isMain d = true → (s.island d).state = .reset → t.island d = { s.island d with releasedAt := some s.now }
  other : ∀ d, ¬ (isMain d = true ∧ (s.island d).state = .reset) → t.island d = s.island d
  only : Only [.isl, .power, .shed, .err, .hif, .mgmt] s t

/-- Port `p` with the frames of `q`: what waits, what is owed to the far end, what is held, the next LSEQ in both its widths, the credit in
use, the line and the last ACK. -/
def Port.withFrames (p q : Port) : Port :=
  { p with owed := q.owed, queue := q.queue, lseq := q.lseq, nextExt := q.nextExt, replay := q.replay, spent := q.spent, line := q.line, lastAckAt := q.lastAckAt }

/-- Port `p` but for what a change of state sets beside the frames. -/
def Port.withState (p q : Port) (st : PortState) : Port :=
  { p.withFrames q with
    state := st, paused := q.paused, trainingSince := q.trainingSince, qualifiedAt := q.qualifiedAt, losSince := q.losSince
    activeSince := q.activeSince, settledAt := q.settledAt }

/-- Of the islands nothing changes but the counts of what was dropped at the crossings into engines in RESET_FAILED (R63, R91). -/
def DropsOnly (s t : State) : Prop :=
  ∀ d, t.island d = { s.island d with drop := (t.island d).drop } ∧ ((s.island d).state ≠ .resetFailed → t.island d = s.island d)

/-- Every island but `d` is as it was, but for those counts. -/
def OthersKept (s t : State) (d : Island) : Prop :=
  ∀ e, e ≠ d → t.island e = { s.island e with drop := (t.island e).drop } ∧ ((s.island e).state ≠ .resetFailed → t.island e = s.island e)

/-- Only the ports, what waits in FAB for an engine and what is sent change, and of a port that is not SETTLING only its frames: what sending does. -/
def FramesMoved (s t : State) : Prop :=
  t = { s with isl := t.isl, spetar := { s.spetar with ports := t.spetar.ports, egress := t.spetar.egress, out := t.spetar.out } } ∧
  DropsOnly s t ∧ ∀ n, (s.port n).state ≠ .settling → t.port n = (s.port n).withFrames (t.port n)

/-- TIME is as it was, or it followed a master and its last link is gone: it is in HOLDOVER (R431). -/
def Unlinked (s t : State) : Prop :=
  (t.time = s.time ∧ t.mgmt = s.mgmt) ∨
  ((s.time.state = .locked ∨ s.time.state = .acquiring) ∧ t.time = ({ s.time with slew := none } : TimeUnit).enter .holdover)

/-- Only the ports, what waits in FAB for an engine, what is sent, the host interface and what a lost last link changes in TIME move, and port `n` is
in state `st`; of the other ports only frames move. -/
def PortMoved (s t : State) (n : Nat) (st : PortState) : Prop :=
  t = { s with
    isl := t.isl, hif := t.hif, time := t.time, mgmt := t.mgmt
    spetar := { s.spetar with ports := t.spetar.ports, egress := t.spetar.egress, out := t.spetar.out } } ∧
  DropsOnly s t ∧ Unlinked s t ∧
  t.port n = (s.port n).withState (t.port n) st ∧
  ∀ m, m ≠ n → (s.port m).state ≠ .settling → t.port m = (s.port m).withFrames (t.port m)

/-- A frame of kind `o` that arrives as `a` is handed on: its port is ACTIVE, it is the next in LSEQ order, and a MISCABLED port hands on
discovery and link-state messages alone (R531, R538, R564). -/
def State.takes (s : State) (a : Arrival) (o : FabOut) : Bool :=
  (s.port a.port.val).state == .active && a.lseq == (s.port a.port.val).expected && (o.anyCable || !s.miscabled a.port.val)

/-- The frame has come in: the port expects the next LSEQ, and owes the far end the credit of what it held. -/
def State.tookFrame (s : State) (a : Arrival) (o : FabOut) : State := s.setPort a.port.val ((s.port a.port.val).took o)

/-- A ROUND packet `m` comes in through `o`, for this device, in time, and as one not seen before (R531, R563, R587 to R589). -/
structure State.Comes (s : State) (o : RoundIn) (m : RoundMsg) : Prop where
  takes : s.takes o.via (.message 0 o.h m) = true
  here : s.spetar.fid = some o.h.dst
  accepts : s.accepts = true
  inTime : s.expired o.h = false
  fresh : s.seen o.h = .new

/-- The message's sender and the partition it names are both in the cold frame, or neither is (R504). -/
def State.sameFrame (s : State) (o : RoundIn) (m : RoundMsg) : Bool := !(RoundMsg.part m).any (fun p => s.isCold (Fin.ofNat 64 p) != o.h.cold)

/-- A ROUND packet comes in and is acted on. -/
def State.Hears (s : State) (o : RoundIn) (m : RoundMsg) : Prop := s.Comes o m ∧ s.sameFrame o m = true

/-- The state that a ROUND packet's effect sees: its frame is in. -/
def State.atMessage (s : State) (o : RoundIn) (m : RoundMsg) : State := s.tookFrame o.via (.message 0 o.h m)

/-- A ROUND packet has had its effect and is answered with `st`. -/
def State.responded (u : State) (o : RoundIn) (st : Status) : State := (u.noteApplied o.h st).acknowledge o.h st

/-- The state after a ROUND packet whose effect is `f`. -/
def State.afterRound (s : State) (o : RoundIn) (m : RoundMsg) (f : State → State) : State := (f (s.atMessage o m)).responded o .ok

/-- The Trellis that a message names is not dissolved here, and if it is formed its list has the message's digest (R515, R518). -/
def State.agreesTree (s : State) (x : TreeId) : Bool :=
  !s.trellis.dissolved.contains (treeKey x) && !(s.formed? (treeKey x)).any (fun f => f.crc != x.crc)

/-- A message of a round from device `n` finds round `e`, which is `r`; the device stands for participant `o` (R630), and no mirror delays
the message (R625). -/
structure State.Finds (s : State) (part : Nat) (id : W32) (n e : Nat) (r : Round) (o : Nat) : Prop where
  entry : s.msgRound part id = some e
  round : s.round? e = some r
  origin : r.origin n = some o
  plain : s.mirroring e = false

/-- Frame `o` from the graft partner is handed on (R618, R619). -/
def State.PartnerSends (s : State) (a : Arrival) (o : FabOut) : Prop :=
  s.takes a o = true ∧ s.running .fab = true ∧ s.paired = true ∧ s.graft.port = a.port.val

/-- `c` is a row that brings the ROUND packet `m` in through `o`. -/
def RoundRow (o : RoundIn) (m : RoundMsg) (c : Instr) : Prop :=
  c = .harvestResult o m ∨ c = .revealBarrierStart o m ∨ c = .recordRouted o m ∨ c = .mark o m ∨ c = .markAck o m ∨ c = .roundStateChange o m ∨
  (∃ f, c = .trellisChunk o m f) ∨ c = .propose o m ∨ c = .leave o m ∨ c = .renewal o m ∨ c = .renewalAck o m ∨ c = .takeoverRequest o m ∨
  c = .grant o m ∨ c = .refuse o m ∨ c = .substitution o m ∨ c = .roundKeyTransfer o m ∨ c = .homeMap o m ∨ c = .trellisAcknowledgement o m

/-- Round `e` is `r` in `t`, and every other entry of the round table is as it was. -/
def RoundIs (s t : State) (e : Nat) (r : Round) : Prop := t.round? e = some r ∧ ∀ k, k ≠ e → t.round? k = s.round? k

/-- A KEY_WRITE, KEY_DERIVE or KEY_ERASE in progress (R706). -/
def Cmd.keyWork (c : Cmd) : Bool :=
  match c.phase with
  | .executing (.keyStore _ _ _ _ _ _ _) => true
  | .executing (.keyErase _) => true
  | _ => false

/-- Nothing waits on round `r`: of the commands in flight only records are still to be written, no release holds a slot, and every bundle of
its ring is decided. -/
def State.quiet (s : State) (r : Round) : Prop :=
  (∀ c ∈ s.q.cmds, c.phase.isDone = true) ∧ s.rounds.gate = [] ∧ (r.ring.map Ring.undecided).getD [] = []

/-- A command that has been dispatched, and has no record yet, names round `e` (R42). -/
def State.named (s : State) (e : Nat) : Bool := s.q.cmds.any (fun c => !c.words.isEmpty && s.roundOfCmd c == some e)

/-- Round `e` has moved to ABORTED with its cause, and closed at once where no command names it (R42, R43); the other entries are as they
were. -/
def RoundAborted (s t : State) (e : Nat) (cause : Status) : Prop :=
  (Tab.sorted s.rounds.table = true →
    (s.named e = true → ∃ r, RoundIs s t e r ∧ r.state = .aborted cause) ∧
    (s.named e = false → ∀ k, t.round? k = if k = e then none else s.round? k)) ∧
  Only [.rounds, .hif, .q, .plot, .trellis, .graft, .spetar, .isl, .part, .err, .freeCtr] s t

/-- What this node's contribution, sent up the tree of its stage, leaves in the harvest of a round: the root, and the one device of a round
outside the fabric, send none. -/
def State.afterSend (s : State) (r : Round) (h : Harvest) : Harvest :=
  if r.policy.fabric && (treeParent ({ r with harvest := h } : Round).live (s.selfIn r)).isSome then { h with sentAt := s.now, acked := false } else h

/-- Task `t` has come to its step `p`, which awaits its dispatch slot. -/
def State.withStep (s : State) (t : TaskId) (p : TaskStep) : State := s.setTask t { s.taskOf t with step := some p }

/-- A step of task `t` gets its slot at once: the task runs, the step before is complete, and of what is ready the sequencer's next slot
goes to it, as NORMAL work (R208 to R210, R219). -/
def State.stepGoes (s : State) (t : TaskId) (p : TaskStep) : Prop :=
  (s.taskOf t).state = .running ∧ (s.taskOf t).step = none ∧ (s.taskOf t).fetching = none ∧
  (s.withStep t p).slotChoice (t.slot.val % 4) = some (.task t, 2)

/-- The state a step that got its slot sees: the slot is gone. -/
def State.atStep (s : State) (t : TaskId) (p : TaskStep) : State :=
  let u := (s.withStep t p).giveSlot (t.slot.val % 4) (.task t) 2
  u.setTask t { u.taskOf t with step := none }

/-- Every task's record is as it was. -/
def TasksKept (s t : State) : Prop := ∀ u, t.taskOf u = s.taskOf u

/-- The row that a task's step is. -/
def stepRow (t : TaskId) : TaskStep → Instr
  | .wait fences inbox served => .taskWait t fences inbox served
  | .read va loc len => .taskRead t va loc len
  | .write va loc len => .taskWrite t va loc len
  | .putSlot q slot data => .putSlot t q slot data
  | .takeRecord q => .takeRecord t q
  | .takeMessage => .takeMessage t
  | .signal fence op v => .taskSignal t fence op v
  | .ownFence fence => .ownFence t fence
  | .dropFence fence => .dropFence t fence

/-- A command in flight holds the pages of a claimed range. -/
def State.holding (s : State) (src : Source) (id : Nat) (ps : Pages) : State :=
  s.modCmd src id (fun d => { d with pages := d.pages ++ ps })

/-- Device memory reads the same everywhere. -/
def MemoryKept (s t : State) : Prop := ∀ a, memByte t.part.mem a = memByte s.part.mem a

/-- Device memory reads the same outside the listed stretches of physical addresses. -/
def MemoryKeptOutside (s t : State) (l : List (Nat × Nat)) : Prop :=
  ∀ a, inSegs l a = false → memByte t.part.mem a = memByte s.part.mem a

end Sys2Proof.Machine
end

