-- ==== Sys2Proof/Certificates/Slice0/Obligations.lean ====
section
/-!
DEFINITION. The statements for the provers: first the rules of the whole block, then one or more statements for each family of
commands. A statement about an opcode command starts where a packet is ready for its own effect (`State.ready`); a statement about
an event starts where the spec says the event acts. `Only l s t` is a frame: of the units of the state only those listed may differ;
device memory is framed byte by byte (`MemoryKept`, `MemoryKeptOutside`).
-/

open Sys2Proof Sys2Proof.Machine

/-- A step takes the command at the front of the queue and runs it on the state with the queue's rest. -/
def Obligations.StepRunsFront : Prop :=
  ∀ (c : Instr) (rest : List Instr) (s : State), s.pending = c :: rest → step s = exec c { s with pending := rest }

/-- On an empty queue a step is one TIME island cycle: fabric time advances by the increment, its rate correction and what a
correction in progress adds, and never goes back (R397, R398, R406; that this happens in a step of the empty queue is the
model's choice, log 1). -/
def Obligations.StepOnEmptyQueue : Prop :=
  ∀ s : State, s.memOk → s.pending = [] →
    (s.running .time = false → step s = .next s) ∧
    (s.running .time = true → s.time.slew = none →
      step s = .next { s with time := { s.time with t40 := s.time.t40 + ((nominalInc : Int) + s.time.rate).toNat } }) ∧
    (∀ c, s.running .time = true → s.time.slew = some c → c.full = true → c.remaining.natAbs ≤ slewMost.toNat →
      step s = .next { s with time := { s.time with t40 := s.time.t40 + ((nominalInc : Int) + s.time.rate + c.remaining).toNat, slew := none } }) ∧
    (∃ t, step s = .next t ∧ Only [.time, .freeCtr] s t ∧ s.time.t40 ≤ t.time.t40)

/-- Every step answers a next state and takes exactly the front of the queue: no command ends in a fault or a refusal, none is
taken out of turn and none adds a command. It rests on the model's own reading or choice in log 1 (DESIGN CHOICE), 2 (DESIGN
CHOICE), 129 (DEDUCED). -/
def Obligations.QueueIsFifo : Prop :=
  ∀ s : State, ∃ t, step s = .next t ∧ t.pending = s.pending.tail

/-- Every step leaves device memory in its canonical form. It rests on the model's own reading or choice in log 3 (DESIGN CHOICE),
4 (DEDUCED). -/
def Obligations.MemoryCanonical : Prop :=
  ∀ s t : State, s.memOk → step s = .next t → t.memOk

/-- Every byte that a claimed range of a partition's caller reaches lies in a chunk of that partition's own quota, and in one that
is neither DEVICE nor RELEASING nor BAD (R645, R650 to R656); and claiming changes no partition but the caller's, and of that
one only FREE chunks to TENANT. It rests on the model's own reading or choice in log 25 (DEDUCED), 40 (DESIGN CHOICE). -/
def Obligations.PartitionWalls : Prop :=
  ∀ (s t : State) (p : Fin 64) (q : Fin 16) (v len : Nat) (write : Bool) (ps : Pages),
    s.claim (.part p q) v len write = (.ok ps, t) →
    (∀ a, inSegs (segments ps v len) a = true → ∃ r k, s.partition? p = some r ∧ k < r.quota ∧ r.chunkMap.getD k 0 = a / chunkBytes ∧
      r.chunkState k ≠ .device ∧ r.chunkState k ≠ .releasing ∧ r.chunkState k ≠ .bad) ∧
    (∀ b : Fin 64, b ≠ p → t.partition? b = s.partition? b) ∧
    (∀ r, s.partition? p = some r → ∃ w, t.partition? p = some w ∧ w = { r with states := w.states } ∧
      ∀ k, w.chunkState k = r.chunkState k ∨ (r.chunkState k = .free ∧ w.chunkState k = .tenant))

/-- What a range is written with is what it reads back, where the stretches it reaches do not meet; and every byte outside them
is as it was. -/
def Obligations.RangeReadBack : Prop :=
  ∀ (s : State) (ps : Pages) (v : Nat) (d : Bytes), s.memOk →
    (segments ps v d.length).Pairwise (fun x y => x.1 + x.2 ≤ y.1 ∨ y.1 + y.2 ≤ x.1) →
    (s.writeRange ps v d).peek ps v d.length = d ∧ MemoryKeptOutside s (s.writeRange ps v d) (segments ps v d.length) ∧
    (s.writeRange ps v d).memOk

/-- The items of a strip give one result whatever order they are applied in (R271, R272, R288, R321): each operand a residue
below the modulus, inside the strip. -/
def Obligations.ItemOrderFree : Prop :=
  ∀ (r : Round) (m : Modulus) (acc : List Nat) (xs ys : List StripItem), 0 < m.value →
    (∀ x ∈ xs, (itemVals r m x acc.length).1 + (itemVals r m x acc.length).2.length ≤ acc.length ∧ ∀ b ∈ (itemVals r m x acc.length).2, b < m.value) →
    xs.Perm ys → xs.foldl (applyItem r m) acc = ys.foldl (applyItem r m) acc

/-- A mask that is added and then subtracted leaves every residue of the strip as it was (R272, R307, R313). -/
def Obligations.MaskCancels : Prop :=
  ∀ (r : Round) (m : Modulus) (acc : List Nat) (x y : StripItem), 0 < m.value → (∀ b ∈ acc, b < m.value) →
    x.what = y.what → x.seg = y.seg → x.strip = y.strip → x.sub = false → y.sub = true →
    (∀ b ∈ (itemVals r m x acc.length).2, b < m.value) →
    applyItem r m (applyItem r m acc x) y = acc

/-- Signals of one operation to a fence leave it at one value whatever order they come in (R228), unless one of them is refused.
-/
def Obligations.SignalOrderFree : Prop :=
  ∀ (s : State) (k : Nat) (op : FenceOp) (xs ys : List W64), Tab.sorted s.q.fences = true → s.mayWriteFence k none = true → xs.Perm ys →
    (op = .add → (s.fence k).toNat + (xs.map (fun x => x.toNat)).sum < 2 ^ 64) →
    ((xs.foldl (fun u x => (u.signalFence k op x none).2) s).fence k) = ((ys.foldl (fun u x => (u.signalFence k op x none).2) s).fence k)

/-- A round command that Table 1.2 does not list for the round's state completes with NOT_PERMITTED and leaves the round, and
everything but the queues, as it was (R15); RELEASE, whose checks are made in its slot (R374), where a slot is free for it and no probe
for the segment is out. -/
def Obligations.RoundTable : Prop :=
  ∀ s a q p e r, s.memOk → s.shadowEntry a (p.word 0) = none → s.roundEntry a (p.word 0) = some e → s.round? e = some r →
    let src : Source := .part a q
    let refused (c : Instr) : Prop :=
      ∃ t, exec c s = .next t ∧ Completed s t src .notPermitted [] ∧ QueuesKept s t src ∧ UnitsKept s t ∧ t.round? e = some r
    (s.ready specRoundLayout src p = true → r.state ≠ .opened → refused (.roundLayout src p)) ∧
    (s.ready specIngestBind src p = true → r.state ≠ .opened → refused (.ingestBind src p)) ∧
    (s.ready specPlacementRevise src p = true → r.state ≠ .ingesting → refused (.placementRevise src p)) ∧
    (s.ready specSharesSubmit src p = true → r.state ≠ .harvested → r.state ≠ .revealing → refused (.sharesSubmit src p)) ∧
    (s.ready specRevealCombine src p = true → r.state ≠ .revealing → refused (.revealCombine src p)) ∧
    (s.ready specCodedDecode src p = true → r.state ≠ .revealing → refused (.codedDecode src p)) ∧
    (s.ready specUnmask src p = true → r.state ≠ .revealing → refused (.unmask src p)) ∧
    (s.ready specSeal src p = true → r.state ≠ .unmasked → refused (.seal src p)) ∧
    (∀ k, s.ready specRelease src p = true → r.state ≠ .sealed → r.state ≠ .released → s.freeGate = some k → s.rounds.gateQueue = [] →
      s.rounds.gateHeld = [] → s.segProbed k (gateOf src (s.nextCmd src) e p.word) = false → refused (.release src p))

/-- PT_PART_FAULT (R890): the first fault is held, a later one counts up to 63, a write of 1 to PT_PART_FAULT_CLEAR sets the
register to 0, and CP_PART_FAULT reads what PT_PART_FAULT reads. -/
def Obligations.PartFault : Prop :=
  ∀ (s : State) (a : Fin 64) (r : Partition), s.memOk → s.partition? a = some r →
    (∀ agent addr c, r.fault = none →
      (s.recordFault a agent addr c).partition? a = some { r with fault := some { addr := addr, agent := agent, cause := c }, faultOverflow := 0 }) ∧
    (∀ agent addr c f, r.fault = some f →
      (s.recordFault a agent addr c).partition? a = some { r with faultOverflow := min 63 (r.faultOverflow + 1) }) ∧
    (∀ v : W32, s.vfOpen a = true → v.getLsbD 0 = true → ∃ t, exec (.ptPartFaultClear a v) s = .next t ∧ t.regNow (.fn (.vf a)) 0x1050 = 0) ∧
    (s.flrActive a = false → s.kelri.pf.valid = true → s.regNow (.fn .pf) (0x40000 + 0x1000 * a.val + 0x30) = s.regNow (.fn (.vf a)) 0x1050)

/-- What reset leaves, where the spec gives it (R66, R67, R115, R298, R365, R854, Table 26.16): no command, lease, round or
partition, no view, no graft pair, every island in RESET with its epoch at 1, the registers of the Beds, of staging and of the
error logs; and device memory in its canonical form. It rests on the model's own reading or choice in log 4 (DEDUCED), 5
(DESIGN CHOICE), 7 (DESIGN CHOICE). -/
def Obligations.ResetState : Prop :=
  let s := State.reset
  s.memOk ∧ s.pending = [] ∧ s.part.mem = [] ∧ s.rounds.table = [] ∧ s.part.parts = [] ∧ s.q.cmds = [] ∧ s.q.leases = [] ∧ s.q.fences = [] ∧
    s.graft.state = .unpaired ∧ s.kelri.pf.valid = false ∧ (∀ d : Island, (s.island d).epoch = 1 ∧ (s.island d).state = .reset) ∧
    s.rounds.autoRevise = true ∧ s.rounds.reviseMs = 10 ∧ s.rounds.hotTarget = 2500000000 ∧ s.rounds.stagingGiB = 8 ∧ s.err.ceThreshold = 64 ∧
    (∀ p : Fin 64, s.created p = false) ∧ s.power.mainHeld = true

/-- NOP and DIAG_ECHO (Tables 5.5 and 5.17). FENCE_WAIT completes once its fence has reached the threshold, and waits for it
otherwise. -/
def Obligations.QueueBasics : Prop :=
  ((∀ s src p, s.memOk → s.ready specNop src p = true →
    ∃ t, exec (.nop src p) s = .next t ∧ Completed s t src .ok [] ∧ QueuesKept s t src ∧ UnitsKept s t) ∧
  (∀ s src p, s.memOk → s.ready specDiagEcho src p = true →
    ∃ t, exec (.diagEcho src p) s = .next t ∧ Completed s t src .ok [w32 (p.word 0), w32 (p.word 1), w32 (p.word 2), w32 (p.word 3)] ∧
      QueuesKept s t src ∧ UnitsKept s t)) ∧
  (∀ s src p, s.memOk → s.ready specFenceWait src p = true →
    let k := fenceKey (srcPart src) (bits (p.word 0) 11 0)
    ∃ t, exec (.fenceWait src p) s = .next t ∧ QueuesKept s t src ∧ UnitsKept s t ∧
      (pair p.word 2 ≤ (s.fence k).toNat → Completed s t src .ok []) ∧
      ((s.fence k).toNat < pair p.word 2 → Executes s t src (.fenceWait k (pair p.word 2))))

/-- FILL and SCRUB write their range and nothing else. COPY writes its destination, with the source's bytes where the ranges do
not overlap. It rests on the model's own reading or choice in log 31 (DEDUCED). -/
def Obligations.MemoryRows : Prop :=
  ((∀ s src p ps u, s.memOk → s.ready specFill src p = true →
    (s.atBody specFill src p).claim src (pair p.word 2) (pair p.word 0) true = (.ok ps, u) →
    let d := fillBytes (p.word 4) (pair p.word 0 / 4)
    ∃ t, exec (.fill src p) s = .next t ∧ Completed s t src .ok [] ∧ QueuesMoved s t src ∧ DataOnly s t ∧
      t.part.mem = (u.writeRange ps (pair p.word 2) d).part.mem ∧ MemoryKeptOutside s t (segments ps (pair p.word 2) d.length)) ∧
  (∀ s src p ps u, s.memOk → s.ready specScrub src p = true →
    (s.atBody specScrub src p).claim src (pair p.word 2) (pair p.word 0) true = (.ok ps, u) →
    ∃ t, exec (.scrub src p) s = .next t ∧ Completed s t src .ok [] ∧ QueuesMoved s t src ∧ DataOnly s t ∧
      MemoryKeptOutside s t (segments ps (pair p.word 2) (pair p.word 0)) ∧
      ∀ a, inSegs (segments ps (pair p.word 2) (pair p.word 0)) a = true → memByte t.part.mem a = 0)) ∧
  (∀ s src p dp sp d u1 u2 u3, s.memOk → s.ready specCopy src p = true →
    let n := pair p.word 0
    (s.atBody specCopy src p).claim src (pair p.word 2) n true = (.ok dp, u1) →
    (u1.holding src (s.nextCmd src) dp).claim src (pair p.word 4) n false = (.ok sp, u2) →
    (u2.holding src (s.nextCmd src) sp).readRange (srcPartByte src) sp (pair p.word 4) n = (.ok d, u3) →
    ∃ t free, let e := copyBytes free (segments sp (pair p.word 4) n) (segments dp (pair p.word 2) n) d 0
      exec (.copy src p) s = .next t ∧ Completed s t src .ok [] ∧ QueuesMoved s t src ∧ DataOnly s t ∧
      t.part.mem = (u3.writeRange dp (pair p.word 2) e).part.mem ∧ MemoryKeptOutside s t (segments dp (pair p.word 2) e.length))

/-- HOST_PULL stays executing with its first reads issued; HOST_PUSH sends its range to the host. It rests on the model's own
reading or choice in log 115 (DEDUCED). -/
def Obligations.HostMoves : Prop :=
  (∀ s src p ps u, s.memOk → s.ready specHostPull src p = true →
    (s.atBody specHostPull src p).claim src (pair p.word 2) (pair p.word 0) true = (.ok ps, u) →
    let r := pullIssue src (s.nextCmd src) (pair p.word 0) 768 (pair p.word 4) (pair p.word 0) 0 (u.holding src (s.nextCmd src) ps)
    ∃ t, exec (.hostPull src p) s = .next t ∧ Executes s t src (.hostPull r.1 r.2.1 ps (pair p.word 2) [] r.2.2.1) ∧
      QueuesKept s t src ∧ DataOnly s t ∧ t.hif = r.2.2.2.hif ∧ t.part = u.part ∧ MemoryKept s t) ∧
  (∀ s src p ps d u v, s.memOk → s.ready specHostPush src p = true →
    (s.atBody specHostPush src p).claim src (pair p.word 2) (pair p.word 0) false = (.ok ps, u) →
    (u.holding src (s.nextCmd src) ps).readRange (srcPartByte src) ps (pair p.word 2) (pair p.word 0) = (.ok d, v) →
    ∃ t, exec (.hostPush src p) s = .next t ∧ Completed s t src .ok [] ∧ QueuesMoved s t src ∧ DataOnly s t ∧
      t.hif = (v.hostWrite (srcFn src) (pair p.word 4) d).hif ∧ MemoryKept s t)

/-- FENCE_SIGNAL adds to its fence or raises it to the operand, feeds the queues whose tail it is, and wakes the tasks that wait on it.
SIGNAL_REMOTE acts through the window at once where the device names itself, and is in flight to another device. RING_JUMP points its
queue's fetch elsewhere; BARRIER completes when nothing it names is left before it. It rests on the model's own reading or choice in log
24 (DEDUCED), 36 (DEDUCED), 38 (DEDUCED), 157 (DEDUCED). -/
def Obligations.SignalRows : Prop :=
  (∀ s src p v, s.memOk → s.ready specFenceSignal src p = true →
    let k := fenceKey (srcPart src) (bits (p.word 0) 11 0)
    s.mayWriteFence k (srcAgent src) = true →
    fenceAfter (s.fence k) (opOfBit (bit (p.word 0) 16)) (BitVec.ofNat 64 (pair p.word 2)) = some v →
    let b := s.slotted specFenceSignal src p
    ∃ t, exec (.fenceSignal src p) s = .next t ∧ Completed s t src .ok [] ∧ Only [.q, .freeCtr] s t ∧
      t.q.fences = Tab.set s.q.fences 0 k v ∧ t.q.tasks = Tab.map (wakeOnFence k v) s.q.tasks ∧
      t.q.leases = s.q.leases ∧ t.q.progress = (s.setFence k v).q.progress ∧
      ((∀ y ∈ s.q.tasks, wakeOnFence k v y.1 y.2 = y.2) → t.q.progress = s.q.progress ∧ t.freeCtr = s.freeCtr) ∧
      (∀ n r, n ≠ srcKey src → Tab.find? b.queues n = some r → (r.tailFence = none ∨ r.enable = false) →
        Tab.find? t.q.queues n = some r) ∧
      (∀ n r f, n ≠ srcKey src → Tab.find? b.queues n = some r → r.tailFence = some f → r.enable = true →
        (if n < 1024 then 4096 * (n / 16) else 262144) + f = k → Tab.find? t.q.queues n = some (r.offer (fenceTail v r.base)))) ∧
  ((∀ s part queue p st u, s.memOk → s.ready specSignalRemote (.part part queue) p = true →
    s.spetar.fid = some (bits (p.word 0) 28 20) →
    (s.atBody specSignalRemote (.part part queue) p).windowSignal (bits (p.word 0) 28 20) part.val (s.isCold part) (bits (p.word 0) 19 12)
      (bits (p.word 0) 11 0) (opOfBit (bit (p.word 0) 29)) (BitVec.ofNat 64 (pair p.word 2)) = (st, u) →
    ∃ t, exec (.signalRemote (.part part queue) p) s = .next t ∧ Completed s t (.part part queue) st [] ∧ Only [.q, .freeCtr] s t ∧
      t.q.fences = u.q.fences) ∧
  (∀ s part queue p, s.memOk → s.ready specSignalRemote (.part part queue) p = true →
    let d := bits (p.word 0) 28 20
    let y := s.atBody specSignalRemote (.part part queue) p
    s.spetar.fid ≠ some d → s.canSend d = true →
    ∃ t, exec (.signalRemote (.part part queue) p) s = .next t ∧ Executes s t (.part part queue) (.remote 1 0 0 none) ∧
      QueuesKept s t (.part part queue) ∧
      Only [.q, .spetar, .isl] s t ∧ DropsOnly s t ∧
      t.spetar = (y.sendRequests d [signalRequest y (.part part queue) (s.nextCmd (.part part queue)) d (bits (p.word 0) 19 12) (bits (p.word 0) 11 0)
        (opOfBit (bit (p.word 0) 29)) (pair p.word 2) (.data (.part part queue) (s.nextCmd (.part part queue)))]).spetar)) ∧
  ((∀ s src p ps u, s.memOk → s.ready specRingJump src p = true →
    let b := s.slotted specRingJump src p
    ((srcPart src).isSome = true ∨ (s.atBody specRingJump src p).claim src (pair p.word 2) (64 * p.word 0) false = (.ok ps, u)) →
    ∃ t, exec (.ringJump src p) s = .next t ∧ Completed s t src .ok [] ∧ UnitsKept s t ∧
      (t.queue src).jump = some { addr := pair p.word 2, left := p.word 0 } ∧
      t.q = { b with cmds := t.q.cmds, doneOrd := t.q.doneOrd, queues := t.q.queues, serials := b.nextSerials src } ∧
      ∀ k, k ≠ srcKey src → Tab.find? t.q.queues k = Tab.find? b.queues k) ∧
  (∀ s n p st u, s.memOk → s.ready specRingJump (.cp n) p = true →
    (s.atBody specRingJump (.cp n) p).claim (.cp n) (pair p.word 2) (64 * p.word 0) false = (.error st, u) →
    ∃ t, exec (.ringJump (.cp n) p) s = .next t ∧ Completed s t (.cp n) st (rangeResults st 2) ∧ QueuesKept s t (.cp n) ∧ UnitsKept s t) ∧
  (∀ s src p, s.memOk → s.ready specBarrier src p = true →
    let qs := ownQueues src (p.word 0)
    ∃ t, exec (.barrier src p) s = .next t ∧ QueuesKept s t src ∧ UnitsKept s t ∧
      ((∀ c ∈ s.q.cmds, c.src ∈ qs → c.phase.isDone = true) → Completed s t src .ok []) ∧
      (∀ c ∈ s.q.cmds, c.src ∈ qs → c.phase.isDone = false → Executes s t src (.barrier qs))))

/-- The rows of Table 5.5 that act on resident tasks (R219 to R221, R472). It rests on the model's own reading or choice in log 35
(DEDUCED). -/
def Obligations.ResidentRows : Prop :=
  (∀ s part queue p ps img u v, s.memOk → s.ready specResidentStart (.part part queue) p = true →
    let t : TaskId := { part := part, slot := Fin.ofNat 8 (bits (p.word 0) 2 0) }
    taskRunning (s.taskOf t) = false → (s.taskUnitsFor part).length = 4 →
    (s.atBody specResidentStart (.part part queue) p).claim (.part part queue) (pair p.word 2) (p.word 1) false = (.ok ps, u) →
    (u.holding (.part part queue) (s.nextCmd (.part part queue)) ps).readRange (BitVec.ofNat 8 part.val) ps (pair p.word 2) (p.word 1) = (.ok img, v) →
    ∃ w, exec (.residentStart (.part part queue) p) s = .next w ∧ Completed s w (.part part queue) .ok (wordsOf ((sha384 img).take 16)) ∧
      Only [.q, .plot, .part, .err, .hif] s w ∧ MemoryKept s w ∧
      w.q.tasks = Tab.set s.q.tasks {} (taskKey t)
        { state := .running, digest := sha384 img, served := BitVec.ofNat 16 (p.word 4), epoch := (s.taskOf t).epoch } ∧
      w.plot.taskUnits = (s.taskUnitsFor part).foldl (fun tb u => Tab.insert tb u (taskKey t)) s.plot.taskUnits ∧
      w.q.fences = s.q.fences ∧ w.q.leases = s.q.leases ∧ w.q.progress = s.q.progress) ∧
  (∀ s part queue p, s.memOk → s.ready specResidentPost (.part part queue) p = true →
    let t : TaskId := { part := part, slot := Fin.ofNat 8 (bits (p.word 0) 2 0) }
    let msg : List W32 := (List.range (bits (p.word 0) 11 8)).map (fun n => w32 (p.word (n + 1)))
    taskRunning (s.taskOf t) = true →
    let asleep := (s.taskOf t).state = .waiting ∧ (s.taskOf t).wait.inbox = true
    ∃ w, exec (.residentPost (.part part queue) p) s = .next w ∧ Only [.q, .freeCtr] s w ∧
      (asleep → (s.taskOf t).inbox.length < 64 → w.q.progress = (s.progressBy (.task t) 1).q.progress) ∧
      (¬asleep → w.q.progress = s.q.progress ∧ w.freeCtr = s.freeCtr) ∧
      ((s.taskOf t).inbox.length < 64 → Completed s w (.part part queue) .ok [] ∧
        w.q.tasks = Tab.set s.q.tasks {} (taskKey t) (wakeOnInbox { s.taskOf t with inbox := (s.taskOf t).inbox ++ [msg] })) ∧
      (64 ≤ (s.taskOf t).inbox.length → Executes s w (.part part queue) (.post t msg) ∧ QueuesKept s w (.part part queue))) ∧
  (∀ s part queue p, s.memOk → s.ready specResidentStop (.part part queue) p = true →
    let t : TaskId := { part := part, slot := Fin.ofNat 8 (bits (p.word 0) 2 0) }
    (s.taskOf t).state ≠ .stopped →
    ∃ w, exec (.residentStop (.part part queue) p) s = .next w ∧ Completed s w (.part part queue) .ok [] ∧ Only [.q, .plot, .freeCtr] s w ∧
      w.q.leases = Tab.filter (fun k l => !fenceHeldBy t k l) s.q.leases ∧ w.q.fences = s.q.fences ∧
      w.plot = ((s.atBody specResidentStop (.part part queue) p).endTask t .stopped).plot ∧
      ((∀ y ∈ s.plot.jobs, y.2.part ≠ part) →
        w.plot = { s.plot with taskUnits := Tab.filter (fun _ v => v != taskKey t) s.plot.taskUnits } ∧
        w.q.progress = s.q.progress ∧ w.freeCtr = s.freeCtr))

/-- A step of a resident task that gets its dispatch slot (R208 to R210, R219), by row: what its primitive does, and what it leaves alone
in the queue block. A step whose slot goes to other work waits for it, and DISPATCH then does what the step would have done at once; a
task that does not run has no step. It rests on the model's own reading or choice in log 22 (DESIGN CHOICE), 39 (DEDUCED), 143 (DESIGN
CHOICE). -/
def Obligations.TaskPrimitives : Prop :=
  ((∀ s t fences inbox served, s.memOk → s.stepGoes t (.wait fences inbox served) → fences.length ≤ 8 →
    (∀ f ∈ fences, f.1 < 4096) → (∀ q ∈ served, servedBy (s.taskOf t) q = true) →
    ∃ v, exec (.taskWait t fences inbox served) s = .next v ∧ Only [.q, .freeCtr] s v ∧ v.q.cmds = s.q.cmds ∧ v.q.fences = s.q.fences ∧
      (waitHolds s t fences inbox = true → TasksKept s v) ∧
      (waitHolds s t fences inbox = false → v.q.progress = s.q.progress ∧ v.freeCtr = s.freeCtr ∧ v.q.tasks = Tab.set s.q.tasks {} (taskKey t)
        { s.taskOf t with state := .waiting, wait := { fences := fences, inbox := inbox, records := served } })) ∧
  (∀ s t va loc len ps d u w, s.memOk → s.stepGoes t (.read va loc len) → moveForm va loc len = true →
    (s.atStep t (.read va loc len)).translate t.part (taskAgent t) va len false = (.ok ps, u) →
    u.readRange (BitVec.ofNat 8 t.part.val) ps va len = (.ok d, w) →
    ∃ v, exec (.taskRead t va loc len) s = .next v ∧ DataOnly s v ∧ MemoryKept s v ∧ v.q.cmds = s.q.cmds ∧ v.q.fences = s.q.fences ∧
      v.q.tasks = Tab.set s.q.tasks {} (taskKey t) { s.taskOf t with mem := memWrite (s.taskOf t).mem loc d }) ∧
  (∀ s t va loc len ps u, s.memOk → s.stepGoes t (.write va loc len) → moveForm va loc len = true →
    (s.atStep t (.write va loc len)).translate t.part (taskAgent t) va len true = (.ok ps, u) →
    let d := memRead (s.taskOf t).mem loc len
    ∃ v, exec (.taskWrite t va loc len) s = .next v ∧ DataOnly s v ∧ v.q.cmds = s.q.cmds ∧ TasksKept s v ∧
      v.part.mem = (u.writeRange ps va d).part.mem ∧ MemoryKeptOutside s v (segments ps va d.length)) ∧
  (∀ s t q slot data ps u, s.memOk → s.stepGoes t (.putSlot q slot data) → servedBy (s.taskOf t) q.val = true →
    let k := s.queue (.part t.part q)
    let a := k.cmdBase.toNat + 64 * (slot % slotsOf k.cmdLog2)
    k.tailSource = true → k.cmdLoc = .device → (slot + 2 ^ 32 - k.head.toNat) % 2 ^ 32 < slotsOf k.cmdLog2 →
    (s.atStep t (.putSlot q slot data)).translate t.part (taskAgent t) a 64 true = (.ok ps, u) →
    ∃ v, exec (.putSlot t q slot data) s = .next v ∧ DataOnly s v ∧ v.q.cmds = s.q.cmds ∧ TasksKept s v ∧
      v.part.mem = (u.writeRange ps a (fit 64 data)).part.mem ∧ MemoryKeptOutside s v (segments ps a (fit 64 data).length)) ∧
  (∀ s t op x v k, s.memOk → s.stepGoes t (.signal k op x) → k < 4096 → (s.taskOf t).lost.contains k = false →
    s.mayWriteFence (fenceKey (some t.part) k) (some (.task t)) = true →
    fenceAfter (s.fence (fenceKey (some t.part) k)) op x = some v →
    ∃ w, exec (.taskSignal t k op x) s = .next w ∧ Only [.q, .freeCtr] s w ∧ w.q.cmds = s.q.cmds ∧ w.q.leases = s.q.leases ∧
      w.q.fences = Tab.set s.q.fences 0 (fenceKey (some t.part) k) v) ∧
  (∀ s t k, s.memOk → s.stepGoes t (.ownFence k) → k < 4096 → s.fenceOwner (fenceKey (some t.part) k) = none → s.fencesHeld t < 8 →
    ∃ w, exec (.ownFence t k) s = .next w ∧ Only [.q, .freeCtr] s w ∧ w.q.cmds = s.q.cmds ∧ w.q.fences = s.q.fences ∧
      w.q.leases = Tab.insert s.q.leases (leaseKey 4 (fenceKey (some t.part) k))
        { owner := some t.part, holder := .agent (.task t) (s.taskOf t).epoch } ∧
      w.fenceOwner (fenceKey (some t.part) k) = some (.task t)) ∧
  (∀ s t k, s.memOk → s.stepGoes t (.dropFence k) → k < 4096 → (s.taskOf t).lost.contains k = false →
    s.fenceOwner (fenceKey (some t.part) k) = some (.task t) →
    ∃ w, exec (.dropFence t k) s = .next w ∧ Only [.q, .freeCtr] s w ∧ w.q.cmds = s.q.cmds ∧ w.q.fences = s.q.fences ∧
      TasksKept s w ∧ w.q.leases = Tab.erase s.q.leases (leaseKey 4 (fenceKey (some t.part) k)))) ∧
  ((∀ s t q d u, s.memOk → s.stepGoes t (.takeRecord q) → servedBy (s.taskOf t) q.val = true →
    (s.queue (.part t.part q)).cqHead ≠ (s.queue (.part t.part q)).cqTail → (s.queue (.part t.part q)).cqLoc = .device →
    (s.atStep t (.takeRecord q)).recordAtHead t q = (.ok d, u) →
    ∃ v, exec (.takeRecord t q) s = .next v ∧ DataOnly s v ∧ MemoryKept s v ∧ v.q.cmds = s.q.cmds ∧ v.q.fences = s.q.fences ∧
      (v.queue (.part t.part q)).cqHead = (s.queue (.part t.part q)).cqHead + 1 ∧
      v.q.tasks = Tab.set s.q.tasks {} (taskKey t) { s.taskOf t with taken := d }) ∧
  (∀ s t q, s.memOk → s.stepGoes t (.takeRecord q) → servedBy (s.taskOf t) q.val = true →
    let k := s.queue (.part t.part q)
    k.cqHead ≠ k.cqTail → k.cqLoc = .host → s.readRoom (.vf t.part) ≠ 0 →
    let tag := s.nextRead (.vf t.part)
    ∃ v, exec (.takeRecord t q) s = .next v ∧ Only [.q, .hif] s v ∧ v.q.cmds = s.q.cmds ∧ v.q.fences = s.q.fences ∧
      (v.queue (.part t.part q)).cqHead = k.cqHead ∧ (v.taskOf t).fetching = some tag ∧
      Tab.find? v.hif.reads tag = some { fn := .vf t.part, addr := k.cqBase.toNat + 32 * (k.cqHead.toNat % 2 ^ (k.cqLog2 - 5)), len := 32, issued := s.now, purpose := .record t q, tag := s.sourceTag .fe }) ∧
  (∀ s t q, s.memOk → s.stepGoes t (.takeRecord q) → servedBy (s.taskOf t) q.val = true →
    (s.queue (.part t.part q)).cqHead = (s.queue (.part t.part q)).cqTail →
    ∃ v, exec (.takeRecord t q) s = .next v ∧ Only [.q, .freeCtr] s v ∧ v.q.cmds = s.q.cmds ∧ v.q.fences = s.q.fences ∧ TasksKept s v) ∧
  (∀ s t m rest, s.memOk → s.stepGoes t .takeMessage → (s.taskOf t).inbox = m :: rest → s.waitingPost t = none →
    ∃ v, exec (.takeMessage t) s = .next v ∧ Only [.q, .freeCtr] s v ∧ v.q.cmds = s.q.cmds ∧ v.q.fences = s.q.fences ∧
      v.q.tasks = Tab.set s.q.tasks {} (taskKey t) { s.taskOf t with inbox := rest, taken := bytesOf m }) ∧
  (∀ s t, s.memOk → s.stepGoes t .takeMessage → (s.taskOf t).inbox = [] →
    ∃ v, exec (.takeMessage t) s = .next v ∧ Only [.q, .plot, .part, .err, .hif, .freeCtr] s v ∧ MemoryKept s v ∧ v.q.cmds = s.q.cmds ∧
      v.q.leases = Tab.filter (fun k l => !fenceHeldBy t k l) s.q.leases)) ∧
  (∀ s t p, s.memOk → (s.taskOf t).state = .running → (s.taskOf t).step = none → (s.taskOf t).fetching = none →
    (∀ k, (s.withStep t p).slotChoice (t.slot.val % 4) ≠ some (.task t, k)) →
    exec (stepRow t p) s = .next (s.withStep t p)) ∧
  (∀ s t p, s.memOk → s.running .fe = true → s.stepGoes t p → (t.slot.val % 4 = 0 → s.readyAux = none) →
    exec (.dispatch (Fin.ofNat 4 t.slot.val)) (s.withStep t p) = exec (stepRow t p) s) ∧
  (∀ s t p, s.memOk → (s.taskOf t).state ≠ .running → exec (stepRow t p) s = .next s)

/-- The events of the command sequencers: a slot is fetched or asked for, a wait ends, a dispatch slot goes, a record is written. It
rests on the model's own reading or choice in log 22 (DESIGN CHOICE), 38 (DEDUCED), 43 (DEDUCED), 44 (DEDUCED), 142 (DESIGN CHOICE).
-/
def Obligations.SequencerEvents : Prop :=
  (∀ s q a rest b u sp body, s.memOk → s.fetchable (queueSrc q) = true → s.jumpPending (queueSrc q) = false → s.running .fe = true →
    (s.queue (queueSrc q)).cmdLoc = .device → (s.queue (queueSrc q)).jump = none → (s.queue (queueSrc q)).offered = a :: rest →
    (s.queue (queueSrc q)).last.any (fun l => l.chain) = false → s.cmd? (queueSrc q) (s.queue (queueSrc q)).nextId = none →
    s.readSlot (queueSrc q) a = (.ok b, u) → isBig b = false →
    rowOf (packetOf b).header.op.toNat = some (sp, body) → stage1Of sp (queueSrc q) (packetOf b) false = none →
    ∃ t, exec (.queueFetch q) s = .next t ∧ MemoryKept s t ∧ Only [.q, .part, .err, .hif] s t ∧
      t.q.cmds = s.q.cmds ++ [{ src := queueSrc q, id := (s.queue (queueSrc q)).nextId, pkt := packetOf b }] ∧
      (t.queue (queueSrc q)).head = (s.queue (queueSrc q)).head + 1) ∧
  (∀ s q a rest, s.memOk → s.fetchable (queueSrc q) = true → s.jumpPending (queueSrc q) = false → s.running .fe = true →
    (s.queue (queueSrc q)).cmdLoc = .host → (s.queue (queueSrc q)).jump = none → (s.queue (queueSrc q)).offered = a :: rest →
    (s.queue (queueSrc q)).fetching = none → s.readRoom (srcFn (queueSrc q)) ≠ 0 →
    let tag := s.nextRead (srcFn (queueSrc q))
    ∃ t, exec (.queueFetch q) s = .next t ∧ Only [.q, .hif] s t ∧ t.q.cmds = s.q.cmds ∧
      (t.queue (queueSrc q)).fetching = some tag ∧ (t.queue (queueSrc q)).head = (s.queue (queueSrc q)).head ∧
      Tab.find? t.hif.reads tag =
        some { fn := srcFn (queueSrc q), addr := a, len := 64, issued := s.now, purpose := .slot q [], tag := s.sourceTag .fe }) ∧
  (∀ s src id c, s.memOk → s.cmd? src id = some c → c.phase = .waiting → s.waitKind c = none →
    ∃ t, exec (.waitSatisfied src id) s = .next t ∧ Only [.q] s t ∧
      t.q = { s.q with cmds := s.q.cmds.map (fun d => if d.src == src && d.id == id then { d with phase := .ready } else d) }) ∧
  (∀ s src id c k v, s.memOk → s.cmd? src id = some c → c.phase = .executing (.fenceWait k v) → v ≤ (s.fence k).toNat →
    c.mirrored = none → c.pkt.header.signal = false → (∀ d ∈ s.q.cmds, d.src = src → d.chain ≠ .after id) → s.graft.waits = [] →
    ∃ t, exec (.waitSatisfied src id) s = .next t ∧ Only [.q] s t ∧
      t.q.cmds = s.q.cmds.map (fun d => if d.src == src && d.id == id then { d with phase := .done s.q.doneOrd .ok [] s.now } else d)) ∧
  (∀ s csq c k, s.memOk → s.running .fe = true → (csq.val = 0 → s.readyAux = none) → s.mainInReset = false → s.graft.waits = [] → s.slotChoice csq.val = some (.cmd c, k) →
    s.cmd? c.src c.id = some c → s.mapBad c.src = none → c.pkt.header.op = 0x0000 → c.pkt.header.plain = true → c.mirrored = none →
    (∀ d ∈ s.q.cmds, d.src = c.src → d.chain ≠ .after c.id) →
    ∃ t, exec (.dispatch csq) s = .next t ∧ Only [.q] s t ∧ t.q.fences = s.q.fences ∧ t.q.tasks = s.q.tasks ∧ t.q.leases = s.q.leases ∧
      (∃ d ∈ t.q.cmds, d.src = c.src ∧ d.id = c.id ∧ d.phase = .done s.q.doneOrd .ok [] s.now) ∧
      (∀ d ∈ s.q.cmds, d.src ≠ c.src ∨ d.id ≠ c.id → d ∈ t.q.cmds)) ∧
  (∀ s csq, s.memOk → s.running .fe = true → (csq.val = 0 → s.readyAux = none) → s.slotChoice csq.val = none →
    exec (.dispatch csq) s = .next (s.passSlot csq.val 0 0)) ∧
  (∀ s part queue id c ord st res time, s.memOk → s.cmd? (.part part queue) id = some c → c.phase = .done ord st res time →
    (s.nextDone (.part part queue)).any (fun d => d.id == id) = true → c.readable = true → c.pkt.header.op.toNat / 256 ≠ 2 →
    c.pkt.header.signal = false → c.pkt.header.interrupt = false → s.hif.recovering = false →
    let q := s.queue (.part part queue)
    q.cqLoc = .host → q.cqFull = false → q.stop = .none → q.draining = false →
    ∃ t, exec (.commandCompletion (.part part queue) id) s = .next t ∧ Only [.q, .hif, .freeCtr] s t ∧
      t.hif = { s.hif with out := s.hif.out ++
        [.write (.vf part) (q.cqBase.toNat + 32 * (q.cqTail.toNat % 2 ^ (q.cqLog2 - 5)))
          (recordBytes c.pkt.header.tag.toNat c.pkt.header.op.toNat st.code time res) false] } ∧
      t.q.cmds = s.q.cmds.filter (fun d => !(d.src == .part part queue && d.id == id)) ∧
      (t.queue (.part part queue)).cqTail = q.cqTail + 1)

/-- The registers of queues (R198 to R202, R206, R207, R213, R892 to R896). The registers of a partition's translation and chunks
(R650, R654, R659, R678, R890). It rests on the model's own reading or choice in log 20 (DEDUCED), 41 (DEDUCED), 90 (DEDUCED). -/
def Obligations.QueueAndPartitionRegisters : Prop :=
  ((∀ s p q tail, s.memOk → s.vfOpen p = true →
    exec (.ptDoorbellTail p q tail none) s = .next (s.modQueue (.part p q) (fun k => k.writeTail tail))) ∧
  (∀ s p q v, s.memOk → s.vfOpen p = true → s.nextDone (.part p q) = none →
    exec (.ptDoorbellCqHead p q v) s = .next (s.modQueue (.part p q) (fun k => { k with cqHead := v }))) ∧
  (∀ s q v, s.memOk → s.queueOpen q = true → (s.queue (queueSrc q)).settable = true → ctrlForm q true (v ||| 1).toNat = true →
    let r := { (s.queue (queueSrc q)).ctrl (v ||| 1).toNat with vector := ctrlVector q (v ||| 1).toNat }
    r.tailSource = false → r.ownEn = false →
    exec (.queueEnable q v) s = .next (s.setQueue (queueSrc q) { r with
      enable := true, stop := .none, head := 0, tail := 0, cqHead := 0, cqTail := 0, base := 0, jump := none, last := none, fetching := none,
      half := none })) ∧
  (∀ s q v, s.memOk → s.queueOpen q = true → (s.queue (queueSrc q)).enable = true → ctrlForm q false (v &&& ~~~1).toNat = true →
    s.nextDone (queueSrc q) = none → s.cmdsOf (queueSrc q) ≠ [] →
    exec (.queueDisable q v) s = .next (s.setQueue (queueSrc q) { s.queue (queueSrc q) with
      vector := ctrlVector q (v &&& ~~~1).toNat, enable := false, draining := true, stop := .none })) ∧
  (∀ s q v, s.memOk → s.queueOpen q = true → (s.queue (queueSrc q)).enable = true → (s.queue (queueSrc q)).stop = .doorbellOverrun →
    s.cmdsOf (queueSrc q) = [] → v.getLsbD 0 = true → ctrlForm q false (v ||| 16).toNat = true →
    exec (.restart q v) s = .next (s.setQueue (queueSrc q) { s.queue (queueSrc q) with
      vector := ctrlVector q (v ||| 16).toNat, stop := .none, tail := (s.queue (queueSrc q)).head, fetching := none })) ∧
  (∀ s p q v, s.memOk → s.barAnswers .pf = true → s.pfReaches .fe = true →
    (v.getLsbD 0 = false →
      exec (.queueClassWrite p q v) s = .next (s.modQueue (.part p q) (fun r => { r with classNext := some false }))) ∧
    (v.getLsbD 0 = true → (s.queue (.part p q)).classNext.getD (s.queue (.part p q)).realtime = false →
      let n := ((List.range 16).filter (fun k =>
        let r := s.queue (.part p (Fin.ofNat 16 k))
        r.classNext.getD r.realtime)).length
      (n < 4 → exec (.queueClassWrite p q v) s = .next (s.modQueue (.part p q) (fun r => { r with classNext := some true }))) ∧
      (4 ≤ n → exec (.queueClassWrite p q v) s = .next { s with q := { s.q with classRefused := satAdd32 s.q.classRefused 1 } }))) ∧
  (∀ s p f v, s.memOk → s.vfOpen p = true → f < 4096 →
    let k := fenceKey (some p) f
    (s.mayWriteFence k none = true →
      exec (.fenceWindowWrite p f true v) s = .next (s.setFence k (if (s.fence k).toNat < v.toNat then v else s.fence k))) ∧
    (s.mayWriteFence k none = false → exec (.fenceWindowWrite p f true v) s = .next { s with q := { s.q with
      fenceRefused := Tab.set s.q.fenceRefused 0 p.val (satAdd32 (Tab.get s.q.fenceRefused 0 p.val) 1) } }) ∧
    exec (.fenceWindowWrite p f false v) s = .next s)) ∧
  ((∀ s p v r, s.memOk → s.vfOpen p = true → s.partition? p = some r →
    exec (.ptPartPtRoot p v) s = .next (s.setPartition p { r with ptRoot := v &&& 0xFFFFFFFF0001, tlbBusy := some (r.tlbBusy.getD s.now) })) ∧
  (∀ s p v r, s.memOk → s.vfOpen p = true → s.partition? p = some r → v.getLsbD 0 = true →
    exec (.ptPartTlbInval p v) s = .next (s.setPartition p { r with tlbBusy := some (r.tlbBusy.getD s.now) })) ∧
  (∀ s p r, s.memOk → s.partition? p = some r →
    exec (.tlbInvalidationComplete p) s = .next (s.setPartition p { r with tlbBusy := none })) ∧
  (∀ s p v r, s.memOk → s.vfOpen p = true → s.partition? p = some r → v.getLsbD 0 = true →
    exec (.ptPartFaultClear p v) s = .next (s.setPartition p { r with fault := none, faultOverflow := 0 })) ∧
  (∀ s p v r, s.memOk → s.vfOpen p = true → s.partition? p = some r →
    let c := bits v.toNat 16 0
    exec (.ptPartChunkRelease p v) s =
      .next (s.setPartition p (if c < r.quota && r.chunkState c == .tenant then r.setChunk c .releasing else r))) ∧
  (∀ s p k r, s.memOk → s.partition? p = some r → k < r.quota → r.chunkState k = .releasing →
    let c := r.chunkMap.getD k 0
    s.chunkHeld c = false → s.scrubFails c = false →
    ∃ t, exec (.chunkReleaseScrub p k false) s = .next t ∧ Only [.part, .err, .hif] s t ∧
      (∀ n, n < c * chunkBytes ∨ c * chunkBytes + chunkBytes ≤ n → memByte t.part.mem n = memByte s.part.mem n) ∧
      (∀ n, c * chunkBytes ≤ n → n < c * chunkBytes + chunkBytes → memByte t.part.mem n = 0) ∧
      t.partition? p = some (r.setChunk k .free)))

/-- The public JTAG instructions act on the TAP alone: EXTEST, CLAMP and HIGHZ take the lands while PERST_N is asserted and act as
BYPASS otherwise (R918, R919, R928, Table 28.10). The common command codes the port answers as an I3C target, and the SMBus
alert response (R779 to R781). It rests on the model's own reading or choice in log 119 (PRESUMED), 120 (PRESUMED), 124
(DEDUCED). -/
def Obligations.JtagAndBus : Prop :=
  (∀ s : State, s.memOk →
    let tap (t : Tap) : State := { s with power := { s.power with tap := t } }
    let b : Tap := { s.power.tap with instr := .bypass, driven := false, floating := false, shifted := 0 }
    exec .extest s = .next (tap (if s.power.perst then { s.power.tap with instr := .extest, driven := true, floating := false, shifted := 0 } else b)) ∧
    exec .clamp s = .next (tap (if s.power.perst then { s.power.tap with instr := .clamp, driven := true, floating := false, shifted := 0 } else b)) ∧
    exec .highz s = .next (tap (if s.power.perst then { s.power.tap with instr := .highz, driven := false, floating := true, shifted := 0 } else b)) ∧
    exec .idcode s = .next (tap { s.power.tap with instr := .idcode, driven := false, floating := false, shifted := 0x1A5124E7 }) ∧
    exec .bypass s = .next (tap b) ∧
    (∀ lands shift, exec (.samplePreload lands shift) s = .next (tap
      { s.power.tap with instr := .samplePreload, driven := false, floating := false, boundary := shift, shifted := boundaryNat lands })) ∧
    exec .tapReset s = .next (tap { s.power.tap with instr := .idcode, driven := false, floating := false })) ∧
  (∀ s : State, s.memOk → s.mgmt.firmware = true →
    let mg (f : Mgmt → Mgmt) : State := { s with mgmt := f s.mgmt }
    let say (o : MgmtOut) : State := mg (fun m => { m with out := m.out ++ [o] })
    let pid := 0x2C6 * 2 ^ 33 + 0xA512 * 2 ^ 16 + s.mgmt.strap * 2 ^ 12
    (s.mgmt.i3c = false → ∀ a : Byte,
      exec (.entdaa a) s = .next (mg (fun m => { m with out := m.out ++ [.ccc (pid * 65536 + 7 * 256 + 0)], i3c := true, dynAddr := a.toNat % 128 }))) ∧
    (s.mgmt.i3c = false → ∀ a b : Byte, a.toNat = s.mgmt.staticAddr →
      exec (.setdasa a b) s = .next (mg (fun m => { m with i3c := true, dynAddr := b.toNat % 128 }))) ∧
    (s.mgmt.i3c = true → ∀ (a : Byte) (n : Nat),
      exec (.setnewda a) s = .next (mg (fun m => { m with dynAddr := a.toNat % 128 })) ∧
      exec .rstdaa s = .next (mg (fun m => { m with i3c := false, dynAddr := 0, ibiAt := none })) ∧
      exec .enec s = .next (mg (fun m => { m with ibiEnabled := true })) ∧
      exec .disec s = .next (mg (fun m => { m with ibiEnabled := false })) ∧
      exec .getpid s = .next (say (.ccc pid)) ∧ exec .getbcr s = .next (say (.ccc 7)) ∧ exec .getdcr s = .next (say (.ccc 0)) ∧
      exec .getmrl s = .next (say (.ccc s.mgmt.mrl)) ∧ exec .getmwl s = .next (say (.ccc s.mgmt.mwl)) ∧
      exec (.setmrl n) s = .next (mg (fun m => { m with mrl := n % 65536 })) ∧
      exec (.setmwl n) s = .next (mg (fun m => { m with mwl := n % 65536 })) ∧
      ∃ t v, exec .getstatus s = .next t ∧ v < 65536 ∧ Only [.mgmt, .freeCtr] s t ∧ t.mgmt = (say (.ccc v)).mgmt) ∧
    (s.mgmt.i3c = false → s.mgmt.alert &&& s.mgmt.alertEn ≠ 0 →
      exec .alertResponseAddress s = .next (say (.ara s.mgmt.staticAddr))) ∧
    exec .smbusClockTimeout s = .next s)

/-- The MCTP control and PLDM requests that the port answers from its own state (R783, R785 to R787). It rests on the model's own
reading or choice in log 101 (PRESUMED), 119 (PRESUMED). -/
def Obligations.PortRequests : Prop :=
  ∀ s : State, s.memOk → s.mgmt.firmware = true →
    let took (o : MgmtOut) (f : Mgmt → Mgmt) : State :=
      { s with mgmt := f { s.mgmt with out := s.mgmt.out ++ [o], responses := [(o, s.now, 0)] } }
    let say (o : MgmtOut) : State := took o id
    let mctp (cmd : Byte) (b : Bytes) : State := say (.control cmd 0 b)
    let pldm (type cmd : Byte) (b : Bytes) : State := say (.pldm type cmd 0 b)
    let free (i : Instr) (f : Bytes → MgmtOut) : Prop := ∃ t b, exec i s = .next t ∧ Only [.mgmt, .freeCtr] s t ∧ t.mgmt = (say (f b)).mgmt
    (∀ op eid : Byte, op.toNat < 2 → eid ≠ 0 → eid ≠ 0xFF →
      exec (.setEndpointId op eid) s = .next (took (.control 1 0 [0, eid, 0]) (fun m => { m with eid := eid }))) ∧
    exec .getEndpointId s = .next (mctp 2 [s.mgmt.eid, 0, 0]) ∧
    exec .getEndpointUuid s = .next (mctp 3 udid) ∧
    (∀ ty : Byte, ty ∈ [0xFF, 0x00, 0x01, 0x7E] → free (.getMctpVersionSupport ty) (fun b => .control 4 0 (1 :: b))) ∧
    exec .getMessageTypeSupport s = .next (mctp 5 [2, 0x01, 0x7E]) ∧
    free (.getVendorDefinedMessageSupport 0) (fun b => .control 6 0 ([0xFF, 0x00, 0x1F, 0x6E] ++ b)) ∧
    free .gettid (fun b => .pldm 0 2 0 b) ∧
    (∀ ty : Byte, ty ∈ [0, 2, 5] → free (.getpldmversion ty) (fun b => .pldm 0 3 0 ([0, 0, 0, 0, 0x05] ++ b)) ∧
      exec (.getpldmcommands ty) s = .next (pldm 0 5 (bitMap 32 (pldmCommands ty.toNat)))) ∧
    exec .getpldmtypes s = .next (pldm 0 4 [0x25, 0, 0, 0, 0, 0, 0, 0]) ∧
    (∃ t a b, exec .getpdrrepositoryinfo s = .next t ∧ Only [.mgmt, .freeCtr] s t ∧
      t.mgmt = (pldm 2 0x50 ([0] ++ a ++ [13, 0, 0, 0] ++ b)).mgmt) ∧
    (∀ n, 1 ≤ n → n ≤ 13 → ∃ t l a b, exec (.getpdr n) s = .next t ∧ Only [.mgmt, .freeCtr] s t ∧
      t.mgmt = (pldm 2 0x51 (leBytes 4 (if n = 13 then 0 else n + 1) ++ [0, 0, 0, 0, 0x05] ++ l ++
        leBytes 4 n ++ [0x01, if 10 ≤ n then 4 else 2] ++ a ++ leBytes 2 n ++ b)).mgmt) ∧
    (∀ n v, 1 ≤ n → n ≤ 9 → s.sensorUp n = true → Tab.find? s.mgmt.sensors n = some v →
      ∃ t a b c, exec (.getsensorreading n) s = .next t ∧ Only [.mgmt, .freeCtr] s t ∧
        t.mgmt = (pldm 2 0x11 ([0x05, 0] ++ a ++ b ++ c ++ readingBytes v)).mgmt) ∧
    (∀ n, n ∈ [1, 3, 4, 5, 6, 7] → s.kelri.pf.valid = false → exec (.getsensorreading n) s = .next (pldm 2 0x11 [0x05, 2])) ∧
    (∀ n, 10 ≤ n → n ≤ 13 → s.sensorUp n = true →
      ∃ t b, exec (.getstatesensorreadings n) s = .next t ∧ Only [.mgmt, .freeCtr] s t ∧
        t.mgmt = (pldm 2 0x21 ([0x01, 0] ++ leBytes 1 (Tab.get s.mgmt.sensors (sensorStart n : Int) n).toNat ++ b)).mgmt) ∧
    (∀ r, exec (.seteventreceiver r) s = .next (took (.pldm 2 4 0 []) (fun m => { m with eventReceiver := r })))

/-- The vendor messages COMMAND, POLL and ALERT, and the expiry of a kept result (R789, R790, R792, Tables 23.4a and 23.4b). It
rests on the model's own reading or choice in log 118 (DEDUCED). -/
def Obligations.VendorMessages : Prop :=
  ∀ (s : State) (tk : Byte) (b : Bytes), s.memOk → s.mgmt.firmware = true →
    let say (st sub : Byte) (body : Bytes) : State :=
      { s with mgmt := { s.mgmt with out := s.mgmt.out ++ [.vendor tk sub st body], responses := [(.vendor tk sub st body, s.now, 0)] } }
    (packetFits b = false → exec (.command tk b) s = .next (say 3 1 [])) ∧
    (packetFits b = true → (s.ticketAt tk).isSome = true → exec (.command tk b) s = .next (say 5 1 [])) ∧
    (packetFits b = true → s.ticketAt tk = none → s.ticketFree = none → exec (.command tk b) s = .next (say 2 1 [])) ∧
    (packetFits b = true → s.ticketAt tk = none → s.ticketFree.isSome = true →
      ∃ t l st body, exec (.command tk b) s = .next t ∧ t.mgmt.out = l ++ [.vendor tk 1 st body] ∧
        t.mgmt.responses = [(.vendor tk 1 st body, t.now, 0)] ∧ (st = 0 ∨ (st = 1 ∧ body = []))) ∧
    (∀ k x, s.ticketAt tk = some (k, x) → x.state = .executing → exec (.poll tk []) s = .next (say 1 2 [])) ∧
    (∀ k x r at_, s.ticketAt tk = some (k, x) → x.state = .done r at_ → exec (.poll tk []) s = .next (say 0 2 r)) ∧
    (s.ticketAt tk = none → exec (.poll tk []) s = .next (say 4 2 [])) ∧
    (b.length = 4 → exec (.alert tk b) s = .next { s with mgmt := { s.mgmt with
      out := s.mgmt.out ++ [.vendor tk 4 0 (leBytes 4 s.mgmt.alert.toNat)],
      responses := [(.vendor tk 4 0 (leBytes 4 s.mgmt.alert.toNat), s.now, 0)],
      alert := s.mgmt.alert &&& ~~~BitVec.ofNat 8 (leNat (b.take 1)) } }) ∧
    (∀ k x r at_, s.ticketAt tk = some (k, x) → x.state = .done r at_ →
      (s.now < at_ + 10 ^ 10 → exec (.resultExpiry tk) s = .next s) ∧
      (at_ + 10 ^ 10 ≤ s.now → exec (.resultExpiry tk) s = .next { s with mgmt := { s.mgmt with tickets := Tab.erase s.mgmt.tickets k } }))

/-- A sensor's sample, the events it sends and the alert causes it latches (R786, R787, R792). Packets, reassembly and the limits of
Table 23.6 (R782, R784, R800). It rests on the model's own reading or choice in log 101 (PRESUMED), 119 (PRESUMED), 121 (DEDUCED), 122
(DEDUCED), 136 (DEDUCED). -/
def Obligations.SensorsAndLimits : Prop :=
  ((∀ s n v a, s.memOk → s.sensorPowered n = true → 1 ≤ n → n ≤ 9 → Tab.find? s.mgmt.sensors n = some a →
    ∃ t, exec (.sensorSample n v) s = .next t ∧ Only [.mgmt, .hif] s t ∧ t.mgmt.sensors = Tab.insert s.mgmt.sensors n v ∧
      (crosses n a v = false → t.mgmt = { s.mgmt with sensors := t.mgmt.sensors }) ∧
      (crosses n a v = true →
        t.mgmt.events = s.mgmt.events ++ (if s.mgmt.eventReceiver.isSome then [{ sensor := n, value := v, resends := 0, sentAt := s.now }] else []) ∧
        t.mgmt.alert = if n = 1 ∨ (3 ≤ n ∧ n ≤ 6) then s.mgmt.alert ||| 1 else s.mgmt.alert)) ∧
  (∀ s n v, s.memOk → s.sensorPowered n = true → 10 ≤ n → n ≤ 13 →
    let old := Tab.get s.mgmt.sensors (sensorStart n : Int) n
    (old = (s.stateSensor n : Int) → exec (.sensorSample n v) s = .next s) ∧
    (old ≠ (s.stateSensor n : Int) → ∃ t, exec (.sensorSample n v) s = .next t ∧ Only [.mgmt, .hif] s t ∧
      t.mgmt.sensors = Tab.insert s.mgmt.sensors n (s.stateSensor n : Int) ∧
      t.mgmt.events = s.mgmt.events ++ (if s.mgmt.eventReceiver.isSome then [{ sensor := n, value := s.stateSensor n, resends := 0, sentAt := s.now }] else []) ∧
      t.mgmt.alert = s.mgmt.alert ||| (if n = 10 then 8 else if n = 11 then 2 else if n = 13 ∧ s.stateSensor 13 = 2 then 16 else 0))) ∧
  (∀ s n e, s.memOk → firstEvent n s.mgmt.events = some e →
    exec (.platformEventAcknowledgement n) s = .next { s with mgmt := { s.mgmt with events := s.mgmt.events.erase e } } ∧
    (s.now < e.sentAt + 10 ^ 8 → exec (.platformeventmessageResend n) s = .next s) ∧
    (e.sentAt + 10 ^ 8 ≤ s.now → e.resends < 2 → exec (.platformeventmessageResend n) s = .next { s with mgmt := { s.mgmt with
      out := s.mgmt.out ++ [.event e.sensor e.value],
      events := s.mgmt.events.erase e ++ [{ e with resends := e.resends + 1, sentAt := s.now }] } }) ∧
    (e.sentAt + 10 ^ 8 ≤ s.now → 2 ≤ e.resends →
      exec (.platformeventmessageResend n) s = .next { s with mgmt := { s.mgmt with events := s.mgmt.events.erase e } }))) ∧
  (∀ s : State, s.memOk →
    let mg (f : Mgmt → Mgmt) : State := { s with mgmt := f s.mgmt }
    let rest (o : Byte) (tag : Nat) := s.mgmt.reassembly.filter (fun r => !(r.srcEid == o && r.tag == tag))
    (∀ o tag pec (d : Bytes), s.mgmt.firmware = true → (s.mgmt.i3c = true ∨ pec = true) → d.length ≤ 64 →
      exec (.mctpPacket o tag true false pec d) s =
        .next (mg (fun m => { m with reassembly := rest o tag ++ [{ srcEid := o, tag := tag, data := d, lastAt := s.now }] }))) ∧
    (∀ o tag pec (d : Bytes) r, s.mgmt.firmware = true → (s.mgmt.i3c = true ∨ pec = true) → d.length ≤ 64 →
      s.mgmt.reassembly.find? (Reassembly.of o tag) = some r → r.data.length + d.length ≤ 1024 →
      exec (.mctpPacket o tag false false pec d) s =
        .next (mg (fun m => { m with reassembly := rest o tag ++ [{ srcEid := o, tag := tag, data := r.data ++ d, lastAt := s.now }] }))) ∧
    (∀ o tag (d : Bytes), s.mgmt.firmware = true → s.mgmt.i3c = true → d.length ≤ 64 → leNat (d.take 1) ∉ [0, 1, 0x7E] →
      exec (.mctpPacket o tag true true true d) s =
        .next (mg (fun m => { m with reassembly := rest o tag, discards := satAdd32 m.discards 1 }))) ∧
    (∀ o tag som eom d, s.mgmt.firmware = true → s.mgmt.i3c = false → exec (.mctpPacket o tag som eom false d) s = .next s) ∧
    (∀ o tag r, s.mgmt.reassembly.find? (Reassembly.of o tag) = some r → r.lastAt + 10 ^ 8 ≤ s.now →
      exec (.reassemblyTimeout o tag) s = .next (mg (fun m => { m with reassembly := rest o tag, discards := satAdd32 m.discards 1 }))) ∧
    (∀ at_, s.mgmt.ibiAt = some at_ → at_ + 10 ^ 8 ≤ s.now → exec .ibiTimeout s = .next (mg (fun m => { m with ibiAt := none }))) ∧
    (∀ o at_ n l, s.mgmt.responses = (o, at_, n) :: l → s.mgmt.i3c = true → at_ + 10 ^ 8 ≤ s.now →
      exec .responseUnreadTimeout s = .next (mg (fun m => { m with responses := l }))) ∧
    (∀ o at_ n l, s.mgmt.responses = (o, at_, n) :: l → s.mgmt.i3c = false → at_ + 5 * 10 ^ 6 ≤ s.now →
      (n < 3 → exec .responseRetry s = .next (mg (fun m => { m with out := m.out ++ [o], responses := (o, s.now, n + 1) :: l }))) ∧
      (3 ≤ n → exec .responseRetry s = .next (mg (fun m => { m with responses := l, discards := satAdd32 m.discards 1 })))))

/-- The PLDM Type 5 update: its states, the standby half it takes and what ends it (R794, R798, R800). It rests on the model's own
reading or choice in log 119 (PRESUMED), 123 (DEDUCED), 136 (DEDUCED). -/
def Obligations.FirmwareUpdate : Prop :=
  (∀ s d, s.memOk → s.mgmt.firmware = true → s.mgmt.update.state = .idle →
    ∃ t, exec (.pldmType5Update 0x10 d) s = .next t ∧ Only [.mgmt, .hif] s t ∧ t.mgmt.alert = s.mgmt.alert ||| 0x80 ∧
      t.mgmt.update = { s.mgmt.update with state := .learnComponents, lastRequest := s.now }) ∧
  (∀ s d k, s.memOk → s.power.dir.sequence.toNat + 1 < 2 ^ 32 → s.mgmt.firmware = true → s.mgmt.update.state = .readyXfer → leNat (slice d 2 2) = k → k < 2 →
    s.offersImage (leNat (d.take 2)) k = true → s.fwBusy k ≠ .stage →
    ∃ t, exec (.pldmType5Update 0x14 d) s = .next t ∧ Only [.mgmt, .power, .hif] s t ∧ t.fwBusy k = .update ∧
      (t.power.image k).standby = .invalid ∧ t.mgmt.alert = s.mgmt.alert ||| 0x80 ∧
      t.mgmt.update = ⟨.download, k, leNat (slice d 9 4), [], s.mgmt.update.staged.erase k, s.now⟩) ∧
  (∀ s (d : Bytes), s.memOk → s.mgmt.firmware = true → s.mgmt.update.state = .download →
    s.mgmt.update.data.length + d.length < s.mgmt.update.size →
    ∃ t, exec (.pldmType5Update 0x15 d) s = .next t ∧ Only [.mgmt] s t ∧
      t.mgmt.update = { s.mgmt.update with data := s.mgmt.update.data ++ d, lastRequest := s.now }) ∧
  (∀ s, s.memOk → s.power.dir.sequence.toNat + 1 < 2 ^ 32 → s.mgmt.firmware = true → s.mgmt.update.state = .readyXfer → s.mgmt.update.staged ≠ [] →
    ∃ t, exec .activatefirmware s = .next t ∧ t.mgmt.update = {} ∧
      (s.mgmt.update.staged = [1] → (s.power.image 1).standby = .staged → Only [.mgmt, .power, .hif] s t ∧
        t.power.image 1 = { active := !(s.power.image 1).active, standby := .fallback, attempts := 0 } ∧
        t.mgmt.activateAt = some (s.now + 10 ^ 6))) ∧
  (∀ s, s.memOk → s.power.dir.sequence.toNat + 2 < 2 ^ 32 → s.mgmt.update.state ≠ .idle →
    (s.now < s.mgmt.update.lastRequest + 6 * 10 ^ 10 → exec .updateAgentTimeout s = .next s) ∧
    (s.mgmt.update.lastRequest + 6 * 10 ^ 10 ≤ s.now → ∃ t, exec .updateAgentTimeout s = .next t ∧ Only [.mgmt, .power, .hif] s t ∧
      t.mgmt.update = {} ∧ ∀ k, k < 2 → s.fwBusy k = .update → (t.power.image k).standby = .invalid ∧ t.fwBusy k = .none))

/-- TIME_SET, TIME_ALARM and TIME_OUTPUTS (R406, R411, R414, R420, R425, Table 12.4), and what becomes of them where TIME is not in RUN: held
at its crossing, or ended with TARGET_RESET where its reset has failed (R76, R91). It rests on the model's own reading or choice in log
107 (DEDUCED), 141 (DESIGN CHOICE). -/
def Obligations.TimeCommands : Prop :=
  (∀ s src p, s.memOk → s.ready specTimeOutputs src p = true →
    s.running .time = true →
    ∃ t, exec (.timeOutputs src p) s = .next t ∧ Completed s t src .ok [] ∧ QueuesKept s t src ∧ Only [.q, .time] s t ∧
      t.time = { s.time with
        en10m := bit (p.word 0) 0, enPps := bit (p.word 0) 1, enTod := bit (p.word 0) 2
        realign := s.time.realign || (bit (p.word 0) 0 && !s.time.en10m) }) ∧
  (∀ s src p, s.memOk → s.ready specTimeAlarm src p = true → s.running .time = true →
    let k := alarmKey (srcPart src) (bits (p.word 0) 3 0)
    let a : Alarm := { fire := pair p.word 2, fence := fenceKey (srcPart src) (bits (p.word 1) 11 0), src := src }
    (pair p.word 2 = 2 ^ 64 - 1 → ∃ t, exec (.timeAlarm src p) s = .next t ∧ Completed s t src .ok [] ∧ QueuesKept s t src ∧
      Only [.q, .time] s t ∧ t.time = { s.time with alarms := Tab.erase s.time.alarms k }) ∧
    (pair p.word 2 ≠ 2 ^ 64 - 1 → s.now < pair p.word 2 → ∃ t, exec (.timeAlarm src p) s = .next t ∧ Completed s t src .ok [] ∧
      QueuesKept s t src ∧ Only [.q, .time] s t ∧ t.time = { s.time with alarms := Tab.insert s.time.alarms k a }) ∧
    (pair p.word 2 ≠ 2 ^ 64 - 1 → pair p.word 2 ≤ s.now → ∀ v, s.mayWriteFence a.fence (srcAgent src) = true →
      fenceAfter (s.fence a.fence) .add 1 = some v → ∃ t, exec (.timeAlarm src p) s = .next t ∧ Completed s t src .ok [] ∧
        Only [.q, .time, .hif, .freeCtr] s t ∧ t.q.fences = Tab.set s.q.fences 0 a.fence v ∧
        t.time = { s.time with alarms := Tab.erase (Tab.insert s.time.alarms k a) k })) ∧
  (∀ s src p, s.memOk → s.ready specTimeSet src p = true → s.running .time = true →
    let d : Int := ((pair p.word 2 * 2 ^ 40 + bits (p.word 0) 15 0 * 2 ^ 24 : Nat) : Int) - s.time.t40
    (s.time.state ≠ .master → ∃ t, exec (.timeSet src p) s = .next t ∧ Completed s t src .notPermitted [] ∧ QueuesKept s t src ∧ UnitsKept s t) ∧
    (s.time.state = .master → d ≤ 1000 * 2 ^ 40 → ∃ t, exec (.timeSet src p) s = .next t ∧ Completed s t src .ok [] ∧
      QueuesKept s t src ∧ Only [.q, .time] s t ∧
      t.time = { s.time with slew := if d = 0 then none else some { remaining := d, full := true } }) ∧
    (s.time.state = .master → 1000 * 2 ^ 40 < d → ({ s with time := s.time.step d } : State).dueAlarms = [] →
      ∃ t c, exec (.timeSet src p) s = .next t ∧ t.q.cmds = s.q.cmds ++ [c] ∧ c.src = src ∧ c.phase = .done s.q.doneOrd .ok [] t.now ∧ QueuesKept s t src ∧
        Only [.q, .time] s t ∧ t.time.t40 = pair p.word 2 * 2 ^ 40 + bits (p.word 0) 15 0 * 2 ^ 24 ∧ t.time.slew = none ∧ t.time.stepSeen = true)) ∧
  (∀ s src p sp c, s.memOk → (sp, c) ∈ [(specTimeSet, Instr.timeSet src p), (specTimeAlarm, Instr.timeAlarm src p), (specTimeOutputs, Instr.timeOutputs src p)] →
    s.ready sp src p = true →
    ((s.island .time).state ≠ .run → (s.island .time).state ≠ .resetFailed →
      ∃ t, exec c s = .next t ∧ Executes s t src (.held .time) ∧ QueuesKept s t src ∧ UnitsKept s t) ∧
    ((s.island .time).state = .resetFailed →
      ∃ t, exec c s = .next t ∧ Completed s t src .targetReset [] ∧ QueuesKept s t src ∧ UnitsKept s t))

/-- Alarms, time outputs and the synthesiser (R412 to R422, R431). Frames of the Time Authority and its election (R401 to R410, R428
to R431). It rests on the model's own reading or choice in log 105 (DEDUCED), 106 (DEDUCED), 107 (DEDUCED), 136 (DEDUCED). -/
def Obligations.TimeSources : Prop :=
  (∀ s : State, s.memOk →
    (∀ k a v, s.running .time = true → Tab.find? s.time.alarms k = some a → a.fire ≤ s.now → s.mayWriteFence a.fence (srcAgent a.src) = true →
      fenceAfter (s.fence a.fence) .add 1 = some v → ∃ t, exec (.alarm k) s = .next t ∧ Only [.q, .time, .hif, .freeCtr] s t ∧
        t.time = { s.time with alarms := Tab.erase s.time.alarms k } ∧ t.q.fences = Tab.set s.q.fences 0 a.fence v ∧ (k < 1024 → t.hif = s.hif)) ∧
    (∀ k a, Tab.find? s.time.alarms k = some a → s.now < a.fire → exec (.alarm k) s = .next s) ∧
    (∀ sec, sec = s.time.tod / 10 ^ 9 → s.running .time = true → s.time.todOffsetNext = none → s.time.synthLocked = true → s.time.enPps = true → s.time.tod % 10 ^ 9 ≤ 2 →
      s.time.lastPps = some (sec - 1) → s.time.lastPpsAt + 100000 ≤ s.now → exec .ppsOut s = .next { s with time := { s.time with
        lastPps := some sec, lastPpsAt := s.now, out := s.time.out ++ [.pps (sec * 10 ^ 9)] } }) ∧
    (∀ sec, sec = s.time.tod / 10 ^ 9 → s.running .time = true → s.time.todOffsetNext = none → s.time.synthLocked = false → s.time.lastPps ≠ some sec →
      exec .ppsOut s = .next { s with time := { s.time with lastPps := some sec, lastPpsAt := s.now, ppsMissed := true } }) ∧
    (∀ sec, sec = s.time.tod / 10 ^ 9 → s.running .time = true → s.time.synthLocked = true → s.time.enTod = true → s.time.lastTod ≠ some sec → 500000000 ≤ s.time.tod % 10 ^ 9 →
      s.time.tod % 10 ^ 9 ≤ 500000002 →
      ∃ t b, exec .todFrame s = .next t ∧ Only [.time] s t ∧ b.length = 24 ∧ b.take 6 = [0x5A, 0xA5, 1, 24, b.getD 4 0, s.time.todSeq] ∧
        t.time.out = s.time.out ++ [.tod b] ∧ t.time.todSeq = s.time.todSeq + 1 ∧ t.time.lastTod = some sec ∧ t.time.ppsMissed = false ∧ t.time.stepSeen = false) ∧
    (∀ k, k = s.time.tod / 100 → s.running .time = true → s.time.synthLocked = true → s.time.en10m = true → s.time.last10m ≠ some k → s.time.tod % 100 ≤ 2 →
      (∀ a, s.time.last10mAt = some a → a + 100 * 2 ^ 40 ≤ s.time.edge40) →
      exec .time10mOut s = .next { s with time := { s.time with
        out := s.time.out ++ [.tenMeg (k * 100) s.time.realign], last10m := some k, last10mAt := some s.time.edge40, realign := false } }) ∧
    (∀ a, s.time.last10mAt = some a → s.time.edge40 < a + 100 * 2 ^ 40 → exec .time10mOut s = .next s) ∧
    (∀ o, s.running .time = true → s.time.synthLocked = false → ∃ t, exec (.timeSynthLock o) s = .next t ∧ Only [.time, .hif] s t ∧
      t.time = { s.time with synthLocked := true, osc50 := o, realign := true } ∧ t.hif.intStatus = s.hif.intStatus ||| 0x100000) ∧
    (s.time.synthLocked = true → ∃ t, exec .timeSynthUnlock s = .next t ∧ Only [.time, .hif] s t ∧
      t.time = { s.time with synthLocked := false, realign := true } ∧ t.hif.intStatus = s.hif.intStatus ||| 0x100000)) ∧
  (∀ s : State, s.memOk → s.running .time = true →
    let tm (f : TimeUnit → TimeUnit) : State := { s with time := f s.time }
    (∀ port : Fin 16, (s.time.state = .master ∨ s.time.state = .locked ∨ s.time.parent = some port.val) → port.val ∈ s.livePorts →
      Tab.get s.time.nextExchange 0 port.val ≤ s.now → exec (.syncExchange port) s = .next
        ((tm (fun t => { t with nextExchange := Tab.insert t.nextExchange port.val (t.now + 125000) })).emit (.time port.val (.sync port.val s.time.nowPs)))) ∧
    let come (a : Arrival) (m : TimeMsg) (f : TimeUnit → TimeUnit) : State := { s.tookFrame a (.time a.port.val m) with time := f s.time }
    (∀ (a : Arrival) t1 t2 t3 t4, (s.time.state = .locked ∨ s.time.state = .acquiring) → s.time.parent = some a.port.val →
      let port := a.port
      let m : TimeMsg := .sync port.val t3
      s.takes a (.time port.val m) = true →
      let o2 := offset2 t1 t2 t3 t4 (Tab.get s.time.asym 0 port.val)
      (a.resent = true → exec (.timeFrame a t1 t2 t3 t4) s = .next (come a m id)) ∧
      (a.resent = false → -2600 ≤ o2 → o2 ≤ 2600 → ∃ t r, exec (.timeFrame a t1 t2 t3 t4) s = .next t ∧ Only [.time, .freeCtr, .mgmt, .hif, .spetar] s t ∧
        t.spetar = (come a m id).spetar ∧ t.time.state = .locked ∧
        t.time = { s.time with state := .locked, qualified := t.time.qualified, lastExchange := s.now, outlierRun := 0, rate := r, slew := none, delays := Tab.insert s.time.delays port.val ((((t2 : Int) - t1) + ((t4 : Int) - t3)) / 2) } ∧
        r.natAbs ≤ nominalInc * 200 / 1000000) ∧
      (a.resent = false → s.time.state = .locked → (o2 < -200000 ∨ 200000 < o2) → s.time.outlierRun + 1 < 3 → exec (.timeFrame a t1 t2 t3 t4) s =
        .next (come a m (fun t => { t with lastExchange := t.now, outliers := satAdd32 t.outliers 1, outlierRun := t.outlierRun + 1 }))) ∧
      (a.resent = false → (o2 < -2600 ∨ 2600 < o2) → (-200000 ≤ o2 ∧ o2 ≤ 200000) → ∃ t, exec (.timeFrame a t1 t2 t3 t4) s = .next t ∧
        Only [.time, .freeCtr, .mgmt, .hif, .spetar] s t ∧ t.spetar = (come a m id).spetar ∧ t.time.state = .acquiring ∧ t.time.slew = some { remaining := -o2 * 2 ^ 40 / 2000, full := false })) ∧
    (∀ p, s.time.parent = some p → s.time.state ≠ .holdover → s.livePorts = [] → (s.linkUp p = false ∨ s.time.lastExchange + 10 ^ 6 ≤ s.now) →
      ∃ t, exec .parentLoss s = .next t ∧ Only [.time, .hif, .mgmt] s t ∧ t.time.state = .holdover ∧ t.time.parent = none ∧ t.time.masterValid = false) ∧
    (∀ p, s.time.parent = some p → s.livePorts ≠ [] → (s.linkUp p = false ∨ s.time.lastExchange + 10 ^ 6 ≤ s.now) →
      exec .parentLoss s = .next (tm (fun t => { t with parent := none })).chooseParent) ∧
    (s.time.state = .master → s.time.nextAnnounce ≤ s.now → exec .announceTimer s = .next ((tm (fun t => { t with nextAnnounce := t.now + 10 ^ 6 })).sendTime
      s.livePorts (fun p => .announce p s.time.masterId s.time.priority s.time.generation 0))) ∧
    (∀ (a : Arrival) m pr (g : W16) h l, s.takes a (.time a.port.val (.announce a.port.val m pr g h)) = true → s.spetar.fid ≠ some m →
      s.time.state ≠ .master → s.time.generation.toNat < g.toNat →
      ∃ t, exec (.announce a m pr g h l) s = .next t ∧ Only [.time, .hif, .mgmt, .spetar, .isl] s t ∧ DropsOnly s t ∧ t.time.masterId = m ∧ t.time.generation = g ∧
        g.toNat ≤ t.time.highestHeard.toNat) ∧
    (∀ (a : Arrival) m pr (g : W16) h l, s.takes a (.time a.port.val (.announce a.port.val m pr g h)) = true → s.spetar.fid ≠ some m →
      s.time.state ≠ .master → g.toNat < s.time.generation.toNat →
      exec (.announce a m pr g h l) s =
        .next (come a (.announce a.port.val m pr g h) (fun t => { t with highestHeard := if t.highestHeard.toNat < g.toNat then g else t.highestHeard }))) ∧
    (∀ f, s.spetar.fid = some f → s.time.state ≠ .master → s.time.candidacyEnd = none → s.livePorts ≠ [] →
      (s.time.masterValid = false ∨ s.time.lastAnnounce + 3 * 10 ^ 6 ≤ s.now) →
      ∃ t, exec .announceTimeout s = .next t ∧ Only [.time, .hif, .mgmt, .spetar, .isl] s t ∧ DropsOnly s t ∧ t.time.state = .holdover ∧
        t.time.candidacyEnd = some (s.now + 5 * 10 ^ 6) ∧ t.time.heard = s.time.heard ++ [{ priority := s.time.priority, fid := f, lead := 0 }]) ∧
    (∀ (a : Arrival) pr f ti, s.takes a (.time a.port.val (.candidacy a.port.val pr f ti)) = true → s.time.state ≠ .master → s.spetar.fid ≠ some f →
      (∀ c ∈ s.time.heard, c.fid ≠ f) →
      let send (x : State) : State := x.sendTime (s.livePorts.filter (fun p => p != a.port.val)) (fun p => .candidacy p pr f ti)
      let m : TimeMsg := .candidacy a.port.val pr f ti
      (s.time.masterValid = false ∨ s.time.lastAnnounce ≠ s.now →
        exec (.candidacy a pr f ti) s = .next (send (come a m (fun t => { t with heard := t.heard ++ [{ priority := pr, fid := f, lead := (ti : Int) - t.nowPs }] })))) ∧
      (s.time.masterValid = true → s.time.lastAnnounce = s.now → exec (.candidacy a pr f ti) s = .next (send (come a m id)))) ∧
    (∀ e, s.time.candidacyEnd = some e → e ≤ s.now → s.livePorts = [] →
      exec .candidacyClose s = .next (tm (fun t => { t with candidacyEnd := none, heard := [] }))) ∧
    (∀ e c, s.time.state = .holdover → s.time.candidacyEnd = some e → e ≤ s.now → s.livePorts ≠ [] → bestCandidate s.time.heard = some c →
      ∃ t, exec .candidacyClose s = .next t ∧ t.time.candidacyEnd = none ∧ t.time.masterValid = true ∧ t.time.masterId = c.fid ∧
        (s.spetar.fid = some c.fid → t.time.state = .master ∧ t.time.generation = s.time.nextGeneration)))

/-- What asserts a reset of the main side or of the whole part, and what it leaves (R66, R78, R793, R808, R812, R813, R834, Tables 2.4
and 24.4). It rests on the model's own reading or choice in log 99 (DEDUCED), 102 (DEDUCED), 147 (DEDUCED). -/
def Obligations.Resets : Prop :=
  (∀ s, s.power.mainHeld = false →
    (∃ t, exec .mainSideWarmReset s = .next t ∧ MainDown s t ∧ t.power.perst = true) ∧
    (∃ t, exec .pwrgdMainFall s = .next t ∧ MainDown s t ∧ t.power.pwrgdMain = false ∧ t.power.lasersOff = true) ∧
    (∃ t, exec .thermTrip s = .next t ∧ MainDown s t ∧ t.power.thermTrip = true) ∧
    (s.power.perst = false → ∃ t, exec .dlDown s = .next t ∧ MainDown s t ∧ t.power.dlDown = true ∧ t.hif.linkUp = false) ∧
    (∀ tk, s.mgmt.firmware = true → s.powerState ≠ 2 → ∃ t l, exec (.mainReset tk []) s = .next t ∧ MainDown s t ∧
      t.mgmt.mainResetUntil = some (s.now + 10 ^ 6) ∧ t.mgmt.out = s.mgmt.out ++ [.vendor tk 3 0 []] ++ l)) ∧
  (∀ s, s.memOk → s.power.mainHeld = true →
    ∃ t, exec .mainSideWarmReset s = .next t ∧ Only [.isl, .power, .spetar] s t ∧ t.power = { s.power with perst := true } ∧
      (∀ d, isMain d = true → t.island d = (s.dropCrossings.island d).hold) ∧ ∀ d, isMain d = false → t.island d = s.island d) ∧
  (∀ s tk, s.memOk → s.mgmt.firmware = true → s.powerState = 2 → exec (.mainReset tk []) s = .next { s with mgmt := { s.mgmt with
    out := s.mgmt.out ++ [.vendor tk 3 6 []], responses := [(.vendor tk 3 6 [], s.now, 0)] } }) ∧
  (∀ s, s.power.pwrgdAux = true → ∃ t, exec .auxReset s = .next t ∧ t.power.mainHeld = true ∧ t.power.auxRst = true ∧ t.power.auxBooted = false ∧
    t.mgmt = { out := t.mgmt.out, strap := s.mgmt.strap, staticAddr := s.mgmt.staticAddr } ∧ t.time = { out := s.time.out, adrift := s.time.adrift } ∧ t.reg = {} ∧
    ∀ d, t.island d = { (s.island d).hold with stale := 0, drop := 0 }) ∧
  (∀ s r, ∃ t, exec (.coldReset r) s = .next t ∧ t.power.mainHeld = true ∧ t.power.auxRst = true ∧ t.power.pwrgdAux = r ∧ t.err = {} ∧
    t.part = { weak := s.part.weak } ∧ t.shed.pufRoot = none ∧ ∀ d, t.island d = { (s.island d).hold with stale := 0, drop := 0 })

/-- What releases the main side and the AUX islands, and the course of a boot (R94, R115, R778, R808, R809, R810, R815, R821).
Operating points and the limits on them (R827 to R834, R838, R845, Tables 24.9 and 24.10). It rests on the model's own reading or
choice in log 37 (DEDUCED), 99 (DEDUCED), 102 (DEDUCED), 103 (DEDUCED), 104 (DEDUCED). -/
def Obligations.BootsAndLimits : Prop :=
  ((∀ s, s.memOk → s.power.mainHeld = true → s.power.pwrgdAux = true → s.power.auxRst = false → s.power.thermTrip = false →
    (s.power.pwrgdMain = true → s.power.dlDown = false → s.mgmt.mainResetUntil = none →
      ∃ t, exec .mainSideBoot s = .next t ∧ MainFreed s t ∧ t.power.perst = false) ∧
    (s.power.perst = false → s.power.dlDown = false → s.mgmt.mainResetUntil = none →
      ∃ t, exec .pwrgdMainRise s = .next t ∧ MainFreed s t ∧ t.power.pwrgdMain = true ∧ t.power.lasersOff = false) ∧
    (∀ r w f, s.power.pwrgdMain = true → s.power.perst = false → s.mgmt.mainResetUntil = none →
      ∃ t, exec (.dlUp r w f) s = .next t ∧ MainFreed s t ∧ t.power.dlDown = false ∧
        t.hif.linkUp = true ∧ t.hif.linkRate = r ∧ t.hif.linkWidth = w ∧ t.hif.linkFlit = f) ∧
    (∀ u, s.power.pwrgdMain = true → s.power.perst = false → s.power.dlDown = false → s.mgmt.mainResetUntil = some u → u ≤ s.now →
      ∃ t, exec .mainResetRelease s = .next t ∧ MainFreed s t ∧ t.mgmt.mainResetUntil = none)) ∧
  (∀ s r w f, s.memOk → s.power.mainHeld = false → exec (.dlUp r w f) s = .next { s with
    power := { s.power with dlDown := false }, hif := { s.hif with linkUp := true, linkRate := r, linkWidth := w, linkFlit := f } }) ∧
  (∀ (s : State) (a b : Fin 3), s.memOk → s.power.pwrgdAux = true → s.power.auxRst = true →
    ∃ t, exec (.auxBoot a b) s = .next t ∧ Only [.isl, .power, .shed, .err, .hif, .mgmt, .time] s t ∧ t.power.auxRst = false ∧
      t.mgmt.staticAddr = 0x40 + 3 * a.val + b.val ∧ t.mgmt.alert &&& 0x40 = 0x40 ∧
      t.time = { out := s.time.out, adrift := s.time.adrift } ∧
      ∀ d, isMain d = false → (t.island d).state = (if s.isl.stuck.contains (islandId d) then .reset else .run) ∧ (t.island d).epoch = (s.island d).epoch) ∧
  (∀ s, s.memOk → s.running .mgmt = true → s.mgmt.firmware = false →
    ∃ t, exec .auxBootComplete s = .next t ∧ Only [.power, .mgmt, .err, .hif] s t ∧ t.mgmt.firmware = true ∧ t.power.auxBooted = true) ∧
  (∀ s, s.memOk → s.power.booting = true → s.power.auxBooted = true → s.power.imageLoaded ≠ [] → s.running .fe = true → s.running .hif = true →
    s.kelri.pf.valid = false →
    ∃ t, exec .kelriValid s = .next t ∧ Only [.kelri, .power, .mgmt, .hif, .rounds] s t ∧
      t.kelri = { s.kelri with pf := { valid := true, fw := s.power.seqFw.version, debug := s.shed.debug } } ∧ (s.part.badChunks = [] → t.rounds = s.rounds) ∧
      t.rounds.table = s.rounds.table ∧ t.power.booting = false ∧ t.power.fatalLog = none)) ∧
  (∀ s : State, s.memOk → s.power.mainHeld = false →
    let pw (f : Power → Power) : State := { s with power := f s.power }
    (∀ mv, let w := min s.power.opWanted (opOfMv mv)
      ∃ t, exec (.opChange mv) s = .next t ∧ Only [.power, .plot] s t ∧ t.power.arrMeas = mv ∧ t.power.arrVreq = opMinMv s.power.opWanted ∧
        t.plot = { s.plot with plots := t.plot.plots } ∧ (t.power.op = s.power.op → t.plot = s.plot) ∧
        (∀ k x, t.power.op ≠ s.power.op → Tab.find? s.plot.plots k = some x → Tab.find? t.plot.plots k = some (x.keepOp s.power.op)) ∧
        (w < s.power.op → t.power.op = w ∧ t.power.halved = false) ∧ (w = s.power.op → t.power.op = s.power.op ∧ t.power.halved = s.power.halved) ∧
        (s.power.op < w → t.power.op = if Tab.get s.power.arrOk s.now w + 10000 ≤ s.now then w else s.power.op)) ∧
    (∀ mv, mv < opMinMv s.power.op → s.power.halved = false →
      exec (.droop mv) s = .next (pw (fun p => { p with halved := true, droop := satAdd32 p.droop 1 }))) ∧
    (∀ mv, 550 ≤ mv → exec (.arrUndervoltage mv) s = .next (pw (fun p => { p with stopped := false }))) ∧
    (∀ mv, mv < 550 → s.power.stopped = false →
      exec (.arrUndervoltage mv) s = .next (pw (fun p => { p with stopped := true, droop := satAdd32 p.droop 1 }))) ∧
    (∀ x, ∃ t, exec (.thermalSample x) s = .next t ∧
      (x.getD 100 < 115 → Only [.power, .hif, .plot] s t ∧ t.power.tj = x.getD 100 ∧ t.power.mainHeld = false) ∧
      (100 ≤ x.getD 100 → x.getD 100 < 115 → t.power.thermalLimit = 0 ∧ t.power.claimPause = true) ∧
      (x.getD 100 < 98 → t.power.claimPause = false) ∧
      (95 ≤ x.getD 100 → x.getD 100 < 100 → t.power.thermalLimit =
        if s.power.lastThermalLower + 10 ^ 6 ≤ s.now then s.power.thermalLimit - 1 else s.power.thermalLimit) ∧
      (thermalCrossed s.power.tj (x.getD 100) = true → x.getD 100 < 115 → t.hif.intStatus = s.hif.intStatus ||| 0x80000) ∧
      (115 ≤ x.getD 100 → t.power.thermTrip = true ∧ t.power.mainHeld = true)) ∧
    (∀ w, ∃ t, exec (.powerLimit w) s = .next t ∧ Only [.power, .plot] s t ∧ t.power.pkgPower = w ∧
      (s.power.cap < w → t.power.powerLimit = if s.power.lastPowerLower + 10 ^ 6 ≤ s.now then s.power.powerLimit - 1 else s.power.powerLimit) ∧
      (w ≤ s.power.cap → s.power.cap ≤ w + 10 → t.power.powerLimit = s.power.powerLimit ∧ t.power.underSince = none) ∧
      (∀ u, w + 10 < s.power.cap → s.power.underSince = some u →
        t.power.powerLimit = if u + 10 ^ 7 ≤ s.now then min 4 (s.power.powerLimit + 1) else s.power.powerLimit)))

/-- The host link's own events: D3hot, retraining, a mask that clears, an AER error (R128 to R130, R142, R149). It rests on the
model's own reading or choice in log 10 (PRESUMED), 111 (PRESUMED). -/
def Obligations.HostLink : Prop :=
  ∀ s : State, s.memOk →
    let hi (f : Hif → Hif) : State := { s with hif := f s.hif }
    let configured : Prop := s.power.mainHeld = false ∧ s.hif.configReady = true
    (∀ b, (configured → exec (.d3hot b) s = .next (hi (fun h => { h with d3hot := b }))) ∧ (¬configured → exec (.d3hot b) s = .next s)) ∧
    (∀ r w f, s.hif.linkUp = true →
      exec (.linkRetrain r w f false) s = .next (hi (fun h => { h with recovering := true })) ∧
      (s.rounds.gate = [] → exec (.linkRetrain r w f true) s = .next (hi (fun h => { h with
        recovering := false, linkRate := r, linkWidth := w, linkFlit := f, out := h.out ++ h.waiting, waiting := [] })))) ∧
    (∀ f v, v < vectorsOf f →
      (s.barAnswers f = true → s.inFlr f = false → s.pfReaches .hif = true → Tab.get s.hif.msixFnMask false (fnNum f) = false →
        s.hif.recovering = false →
        let e := Tab.get s.hif.msix {} (msixKey f v)
        let on := Tab.get s.hif.msixEnable false (fnNum f)
        ∃ t, exec (.msixUnmask f (some v)) s = .next t ∧ Only [.hif] s t ∧
          Tab.get t.hif.msix {} (msixKey f v) = { e with masked := false, pending := e.pending && !on } ∧
          t.hif.out = s.hif.out ++ (if e.pending && on then [.msix f v] else [])) ∧
      (s.barAnswers f = true → s.inFlr f = true → exec (.msixUnmask f (some v)) s = .next s) ∧
      (s.barAnswers f = true → s.inFlr f = false → s.pfReaches .hif = false → exec (.msixUnmask f (some v)) s = .next (s.dropWrite .hif)) ∧
      (s.power.mainHeld = true → exec (.msixUnmask f (some v)) s = .next s)) ∧
    (∀ f, (configured → ∃ t, exec (.msixUnmask f none) s = .next t ∧ Only [.hif] s t ∧
        t.hif.msixFnMask = Tab.set s.hif.msixFnMask false (fnNum f) false) ∧
      (¬configured → exec (.msixUnmask f none) s = .next s)) ∧
    (∀ f e, s.power.mainHeld = false →
      let g : Fn := if AerError.ofLink e then .pf else f
      let log (h : Hif) : Hif := { h with aer := Tab.set h.aer {} (fnNum g) ((Tab.get h.aer {} (fnNum g)).add e (s.aerClass e)) }
      (s.aerMessage e = none → exec (.aerError f e) s = .next (hi log)) ∧
      (∀ m, s.aerMessage e = some m → s.hif.recovering = false →
        exec (.aerError f e) s = .next (hi (fun h => { log h with out := h.out ++ [.errMsg g m] }))))

/-- Single islands: their way to RUN or RESET_FAILED, gating, parity, stale replies and the Kelri views' storage (R70 to R78, R91 to
R93, R113, R801, R824). SHEARS and ISLAND_RESET (R58, R225 to R227, Tables 5.15 and 6.4). ISLAND_RESET of what is no target, and SHEARS
of what nobody holds, or whose holder's epoch is not the one expected, reset and revoke nothing (R58, R227). It rests on the model's own
reading or choice in log 94 (DEDUCED), 95 (DEDUCED), 141 (DESIGN CHOICE), 147 (DEDUCED), 161 (DEDUCED). -/
def Obligations.IslandResets : Prop :=
  ((∀ s d k, (s.island d).rising = true → ∃ t, exec (.islandRun d k) s = .next t ∧
    t.island d = { s.island d with state := .run, releasedAt := none } ∧ OthersKept s t d ∧
    (d = .hif → t.hif.configReady = true) ∧
    (d = .fe → s.memOk → Only [.isl, .q, .hif] s t ∧ t.q = { s.q with cmds := s.q.cmds.map (fun c => if heldFor d c then { c with phase := .ready } else c) })) ∧
  (∀ s d a, (s.island d).rising = true → (s.island d).releasedAt = some a → a + 10 ^ 6 ≤ s.now →
    ∃ t, exec (.resetFailed d) s = .next t ∧
      t.island d = { s.island d with state := .resetFailed, releasedAt := none, drop := (t.island d).drop } ∧
      ((∀ e, d ≠ .oe e) → (t.island d).drop = (s.island d).drop) ∧ OthersKept s t d) ∧
  (∀ s k, s.memOk → s.running (.plot k) = true → s.running .fe = true → s.power.gateIdle ≠ 0 → (s.plotOf k.val).claimed = none →
    (s.plotOf k.val).alloc = none → (s.plotOf k.val).idleSince + 1000 * s.power.gateIdle ≤ s.now →
    ∃ t, exec (.plotGate k) s = .next t ∧ Only [.isl, .plot, .hif] s t ∧
      t.island (.plot k) = { s.island (.plot k) with state := .gated, epoch := nextEpoch (s.island (.plot k)).epoch } ∧
      ∀ e, e ≠ .plot k → t.island e = s.island e) ∧
  (∀ s k, s.memOk → (s.island (.plot k)).state = .gated → s.running .fe = true → (s.wakeDue k.val = true ∨ s.wakeAsked k = true) →
    ∃ t, exec (.plotWake k) s = .next t ∧ Only [.isl, .hif] s t ∧
      t.isl = (s.setIsland (.plot k) { s.island (.plot k) with state := .waking, releasedAt := some s.now }).isl) ∧
  (∀ s d, isTarget d = true → s.running d = true → ∃ t, exec (.epochParity d) s = .next t ∧
    t.island d = { s.island d with state := .reset, epoch := nextEpoch (s.island d).epoch, releasedAt := some s.now, drop := (t.island d).drop } ∧
    ((∀ e, d ≠ .oe e) → (t.island d).drop = (s.island d).drop) ∧ OthersKept s t d) ∧
  (∀ s d, isTarget d = false → ∃ t, exec (.epochParity d) s = .next t ∧ t.power.fatalLog = some 14) ∧
  (∀ s d f, s.memOk →
    let u := s.logErr 14 d 0xFF .contained .crossingParity
    exec (.crossingParity d .posted) s = .next u ∧ exec (.crossingParity d (.register f)) s = .next (u.toHost (.readReply f 0 true)) ∧
    (∀ (port : Fin 16) n o, (s.port port.val).queue[n]? = some o → s.carries (fun _ => true) o = false →
      (poisonedReply o = none → exec (.crossingParity d (.frame port n)) s =
        .next (u.setPort port.val { s.port port.val with queue := (s.port port.val).queue.eraseIdx n })) ∧
      (∀ o', poisonedReply o = some o' → exec (.crossingParity d (.frame port n)) s =
        .next (u.setPort port.val { s.port port.val with queue := (s.port port.val).queue.set n o' })))) ∧
  (∀ s d src id c k th, s.cmd? src id = some c → c.phase = .executing (.fenceWait k th) → c.mirrored = none → c.pkt.header.signal = false →
    s.graft.waits = [] → ∃ t, exec (.crossingParity d (.command src id)) s = .next t ∧
      t.cmd? src id = some { c with phase := .done s.q.doneOrd .poisoned [] s.now }) ∧
  (∀ s d e a, s.memOk → e ≠ (s.island d).epoch →
    exec (.staleReply d e a) s = .next (s.setIsland d { s.island d with stale := satAdd64 (s.island d).stale 1 })) ∧
  (∀ s d q e, s.memOk → e ≠ (s.queue (queueSrc q)).epoch → exec (.staleReply d (s.island d).epoch (some (q, e))) s =
    .next { s with q := { s.q with stale := Tab.set s.q.stale 0 q.key (satAdd64 (Tab.get s.q.stale 0 q.key) 1) } }) ∧
  (∀ s f, s.memOk → (s.viewOf f).valid = true →
    ((s.viewOf f).rebuildAt = none → ∃ t, exec (.kelriRebuild f) s = .next t ∧ Only [.kelri, .err, .hif] s t ∧
      t.viewOf f = { s.viewOf f with generation := (s.viewOf f).generation + 1, rebuildAt := some s.now }) ∧
    (∀ a, (s.viewOf f).rebuildAt = some a →
      exec (.kelriRebuild f) s = .next { s.setViewOf f { s.viewOf f with generation := (s.viewOf f).generation + 1, rebuildAt := none } with
        reg := { s.reg with bad := s.reg.bad.filter (fun b => b.fn != fnNum f || b.bar != 0 || !inView f b.word) } })) ∧
  (∀ s a, s.memOk → s.mgmt.activateAt = some a → a ≤ s.now → s.running .mgmt = true → (∀ c ∈ s.q.cmds, heldFor .mgmt c = false ∧ handedTo .mgmt c = false ∧ c.phase.inFlash = false) →
    ∃ t, exec .mgmtFirmwareActivation s = .next t ∧ Only [.isl, .power, .mgmt, .hif] s t ∧ t.mgmt = s.mgmt.reset ∧
      t.island .mgmt = { s.island .mgmt with state := .reset, epoch := nextEpoch (s.island .mgmt).epoch, releasedAt := some s.now })) ∧
  ((∀ s src p, s.memOk → s.ready specShears src p = true →
    (s.power.mainHeld = true → ∃ t, exec (.shears src p) s = .next t ∧ Completed s t src .targetReset [] ∧ QueuesKept s t src ∧ UnitsKept s t) ∧
    (s.power.mainHeld = false → s.leaseNamed (p.word 0) (p.word 1) = none →
      ∃ t, exec (.shears src p) s = .next t ∧ Completed s t src .ok [0, 0, 0] ∧ QueuesKept s t src ∧ UnitsKept s t) ∧
    (∀ h, s.power.mainHeld = false → s.leaseNamed (p.word 0) (p.word 1) = some h → p.word 2 ≠ 0 → p.word 2 ≠ (s.holderShown h).2.toNat →
      (∀ q e, h = .agent (.queue q) e → queueSrc q ≠ src) →
      ∃ t, exec (.shears src p) s = .next t ∧ Completed s t src .ok [0, w32 (s.holderShown h).1, w32 (s.holderShown h).2.toNat] ∧
        QueuesKept s t src ∧ UnitsKept s t) ∧
    (∀ q e k, s.power.mainHeld = false → p.word 0 = 4 → p.word 1 = k → s.leaseNamed 4 k = some (.agent (.queue q) e) → queueSrc q ≠ src →
      (p.word 2 = 0 ∨ p.word 2 = (s.queue (queueSrc q)).epoch.toNat) → s.leasesOf (.queue q) = [leaseKey 4 k] →
      (∀ c ∈ s.q.cmds, c.src = queueSrc q → c.phase.isExecuting = false ∧ c.held = none) →
      let e' := nextEpoch (s.queue (queueSrc q)).epoch
      ∃ t, exec (.shears src p) s = .next t ∧ Completed s t src .ok [1, 0xA8, w32 e'.toNat] ∧ UnitsKept s t ∧
        t.q.leases = Tab.erase s.q.leases (leaseKey 4 k) ∧ t.q.fences = s.q.fences ∧ (t.queue (queueSrc q)).epoch = e')) ∧
  (∀ s src p d, s.memOk → s.ready specIslandReset src p = true → islandOfId (p.word 0) = some d →
    (isMain d = true → s.power.mainHeld = true →
      ∃ t, exec (.islandReset src p) s = .next t ∧ Completed s t src .targetReset [] ∧ QueuesKept s t src ∧ UnitsKept s t) ∧
    ((isMain d = true → s.power.mainHeld = false) → isTarget d = false ∨ (d = .mgmt ∧ isMgmtSrc src = true) →
      ∃ t, exec (.islandReset src p) s = .next t ∧ Completed s t src .notPermitted [] ∧ QueuesKept s t src ∧ UnitsKept s t) ∧
    (isTarget d = true → (d = .mgmt → isMgmtSrc src = false) → (isMain d = true → s.power.mainHeld = false) → s.running d = true →
      ∃ t, exec (.islandReset src p) s = .next t ∧
        t.island d = { s.island d with state := .reset, epoch := nextEpoch (s.island d).epoch, releasedAt := some s.now, drop := (t.island d).drop } ∧
        ((∀ e, d ≠ .oe e) → (t.island d).drop = (s.island d).drop) ∧ OthersKept s t d ∧
        (d = .agr → (∀ c ∈ s.q.cmds, heldFor d c = false ∧ handedTo d c = false ∧ ∀ e n, c.phase ≠ .executing (.combine e n)) →
          Completed s t src .ok [w32 (nextEpoch (s.island d).epoch).toNat] ∧ QueuesKept s t src ∧ Only [.q, .isl, .hif] s t)))) ∧
  (∀ s src p, s.memOk →
    (s.headed specIslandReset src p = true → islandOfId (p.word 0) = none →
      ∃ t, exec (.islandReset src p) s = .next t ∧ Completed s t src .badParam [0] ∧ QueuesKept s t src ∧ UnitsKept s t) ∧
    (s.ready specIslandReset src p = true →
      (∀ d, islandOfId (p.word 0) = some d → isTarget d = false → (isMain d = true → s.power.mainHeld = false) →
        ∃ t, exec (.islandReset src p) s = .next t ∧ Completed s t src .notPermitted [] ∧ QueuesKept s t src ∧ UnitsKept s t)) ∧
    (s.ready specShears src p = true → s.power.mainHeld = false →
      (s.leaseNamed (p.word 0) (p.word 1) = none →
        ∃ t, exec (.shears src p) s = .next t ∧ Completed s t src .ok [0, 0, 0] ∧ QueuesKept s t src ∧ UnitsKept s t) ∧
      (∀ h, s.leaseNamed (p.word 0) (p.word 1) = some h → p.word 2 ≠ 0 → p.word 2 ≠ (s.holderShown h).2.toNat →
        ∃ t, exec (.shears src p) s = .next t ∧ QueuesKept s t src ∧ UnitsKept s t ∧
          Completed s t src .ok [0, w32 (s.holderShown h).1, w32 (s.holderShown h).2.toNat])))

/-- The rows of the random unit (R760 to R765). It rests on the model's own reading or choice in log 13 (DESIGN CHOICE), 14
(DESIGN CHOICE), 55 (DEDUCED). -/
def Obligations.RandomRows : Prop :=
  (∀ s src p ps u, s.memOk → s.ready specRandomFill src p = true → s.running .rng = true → s.random.serving = true →
    (s.atBody specRandomFill src p).claim src (pair p.word 2) (p.word 4) true = (.ok ps, u) →
    let r := (u.holding src (s.nextCmd src) ps).draw (callerInst src) (p.word 4)
    ∃ t, exec (.randomFill src p) s = .next t ∧ Completed s t src .ok [] ∧ QueuesMoved s t src ∧
      Only [.q, .random, .part, .err, .hif, .freeCtr] s t ∧ t.random = r.2.random ∧
      t.part.mem = (r.2.writeRange ps (pair p.word 2) r.1).part.mem ∧ MemoryKeptOutside s t (segments ps (pair p.word 2) r.1.length)) ∧
  (∀ s a b p, s.memOk → s.ready specRandomReseed (.part a b) p = true → s.running .rng = true → s.random.serving = true →
    ∃ t, exec (.randomReseed (.part a b) p) s = .next t ∧ Completed s t (.part a b) .ok [] ∧ QueuesKept s t (.part a b) ∧
      Only [.q, .random, .freeCtr] s t ∧ t.random = ((s.dropQueue a).reseed (instPart a)).random) ∧
  (∀ s src p, s.memOk → s.ready specRandomReseed src p = true → srcPart src = none → s.running .rng = true → s.random.serving = true →
    ∃ t, exec (.randomReseed src p) s = .next t ∧ Completed s t src .ok [] ∧ QueuesKept s t src ∧
      Only [.q, .random, .freeCtr] s t ∧ t.random = (s.reseed instControl).random) ∧
  (∀ s src p, s.memOk → s.ready specRandomPersonalize src p = true → s.running .rng = true → s.random.serving = true →
    let q : Fin 64 := Fin.ofNat 64 (p.word 0)
    let str := ((List.range 12).flatMap (fun k => leBytes 4 (p.word (2 + k)))).take (p.word 1)
    s.created q = true →
    ∃ t, exec (.randomPersonalize src p) s = .next t ∧ Completed s t src .ok [] ∧ QueuesKept s t src ∧ Only [.q, .random, .freeCtr] s t ∧
      t.random.personal = Tab.insert s.random.personal q.val str ∧ t.random.queues = Tab.erase s.random.queues q.val ∧
      t.random.drbgs = Tab.insert s.random.drbgs (instPart q) (drbgNew s.takeBlock.1 str)) ∧
  (∀ s src p ps u, s.memOk → s.ready specNoiseFill src p = true → s.running .rng = true → s.random.serving = true →
    (s.atBody specNoiseFill src p).claim src (pair p.word 2) (8 * p.word 4) true = (.ok ps, u) →
    (p.word 0 = 0 → ∃ t, exec (.noiseFill src p) s = .next t ∧ Completed s t src .ok [] ∧ QueuesMoved s t src ∧ DataOnly s t ∧
      MemoryKeptOutside s t (segments ps (pair p.word 2) (8 * p.word 4)) ∧
      ∀ a, inSegs (segments ps (pair p.word 2) (8 * p.word 4)) a = true → memByte t.part.mem a = 0) ∧
    (p.word 0 ≠ 0 → ∃ t, exec (.noiseFill src p) s = .next t ∧ Executes s t src (.noise ps (pair p.word 2) (p.word 4) 0) ∧
      QueuesKept s t src ∧ DataOnly s t ∧ MemoryKept s t))

/-- The cells, the random port and its queues (R748 to R752, R758, R759, R770 to R772). It rests on the model's own reading or
choice in log 13 (DESIGN CHOICE), 14 (DESIGN CHOICE), 55 (DEDUCED), 56 (DEDUCED). -/
def Obligations.RandomEvents : Prop :=
  ∀ s : State, s.memOk →
    let rn (f : RandomUnit → RandomUnit) : State := { s with random := f s.random }
    (∀ p w, s.barAnswers (.vf p) = true → s.badWord (.vf p) 0 0x40000 = false → s.created p = true → s.flrActive p = false → s.running .rng = true →
      let n := if w then 8 else 4
      let q := Tab.get s.random.queues [] p.val
      (n ≤ q.length → exec (.randomPortRead p 0 w) s = .next ((rn (fun r => { r with queues := Tab.insert r.queues p.val (q.drop n) })).toHost
        (.readReply (.vf p) (leNat (q.take n)) false))) ∧
      (q.length < n → ∃ t, exec (.randomPortRead p 0 w) s = .next t ∧ Only [.random, .hif] s t ∧
        t.random = { s.random with underrun := insertNat p.val s.random.underrun })) ∧
    (∀ c, s.running .rng = true → (s.cell c.val).state = .startup →
      let u := s.setCell c.val { s.cell c.val with state := .healthy }
      ((s.random.testsPassed && decide (2 ≤ u.healthyCells.length)) = s.random.serving → exec (.startupTestPass c) s = .next u) ∧
      (s.random.testsPassed = true → s.random.serving = false → 2 ≤ u.healthyCells.length →
        ∃ t, exec (.startupTestPass c) s = .next t ∧ Only [.random, .freeCtr] s t ∧
          t.random = { u.random with serving := true, cause := 0, pool := t.random.pool, drbgs := t.random.drbgs })) ∧
    (∀ c apt, s.running .rng = true → (s.cell c.val).state = .startup ∨ (s.cell c.val).state = .healthy →
      let x := s.cell c.val
      let l := s.now :: x.failures.filter (fun t => decide (s.now ≤ t + 1000000000))
      let u := s.setCell c.val
        { failures := l.take 3
          state := if 3 ≤ l.length then .disabled else .retry
          retryAt := s.now + 1000000
          rctFail := if apt then x.rctFail else satAdd32 x.rctFail 1
          aptFail := if apt then satAdd32 x.aptFail 1 else x.aptFail }
      ((s.random.testsPassed && decide (2 ≤ u.healthyCells.length)) = s.random.serving → exec (.cellTestFail c apt) s = .next u) ∧
      (s.random.testsPassed = true → s.random.serving = true → u.healthyCells.length < 2 → s.fills = [] →
        ∃ t, exec (.cellTestFail c apt) s = .next t ∧ Only [.random, .hif] s t ∧
          t.random = { u.random with serving := false, cause := 1, pool := [], queues := [], served := [] } ∧
          t.hif.intStatus = s.hif.intStatus ||| 0x2000000)) ∧
    (∀ c, s.running .rng = true → (s.cell c.val).state = .retry → (s.cell c.val).retryAt ≤ s.now →
      exec (.cellRetry c) s = .next (s.setCell c.val { s.cell c.val with state := .startup })) ∧
    (∀ c, s.running .rng = true → s.random.serving = true → (s.cell c.val).state = .healthy →
      let l := s.random.pool ++ [(s.freeBytes 48).1]
      ∃ t, exec (.blockConditioned c) s = .next t ∧ Only [.random, .freeCtr] s t ∧ t.random = { s.random with pool := l.drop (l.length - 64) }) ∧
    (∀ p d, s.random.serving = true → s.created p = true → Tab.find? s.random.drbgs (instPart p) = some d →
      let q := Tab.get s.random.queues [] p.val
      let r := s.draw (instPart p) 4096
      q.length ≤ 4096 →
      ∃ t, exec (.queueRefill p) s = .next t ∧ Only [.random, .freeCtr] s t ∧
        t.random = { r.2.random with queues := Tab.insert s.random.queues p.val (q ++ r.1) })

/-- Reads of registers: the requester's latches (R8 to R10, R880, R889), misaligned accesses (R81), storage with an uncorrectable
error (R147) and the memory window (R125). It rests on the model's own reading or choice in log 28 (DESIGN CHOICE). -/
def Obligations.RegisterReads : Prop :=
  ∀ s : State, s.memOk →
    let open_ (r : Requester) : Prop := r = .mgmtPort ∨ s.barAnswers (fnOf r) = true
    (∀ r o, open_ r → o % 8 = 0 → o < barSize (fnOf r) 0 → (∀ p, r = .fn (.vf p) → o ≠ 0x40000) → isTimeNow r o = false →
      (r = .mgmtPort ∨ s.badWord (fnOf r) 0 o = false) →
      (exec (.rlRead r 0 o 8) s = .next ((s.setLatches r (s.latches r)).answerRead r (s.regNow r o))) ∧
      ((s.regWord r o).rl = true →
        exec (.rlRead r 0 o 4) s = .next ((s.setLatches r { s.latches r with high := w32 (s.regNow r o / 2 ^ 32) }).answerRead r (s.regNow r o % 2 ^ 32)) ∧
        exec (.rlRead r 0 (o + 4) 4) s = .next (s.answerRead r (s.latches r).high.toNat)) ∧
      ((s.regWord r o).rl = false →
        exec (.rlRead r 0 o 4) s = .next (s.answerRead r (s.regNow r o % 2 ^ 32)) ∧
        exec (.rlRead r 0 (o + 4) 4) s = .next (s.answerRead r (s.regNow r o / 2 ^ 32)))) ∧
    (∀ r o n, open_ r → o < barSize (fnOf r) 0 → alignedAccess o n = false →
      exec (.rlRead r 0 o n) s = .next ((s.accessError r o).answerRead r 0) ∧
      ∀ v, exec (.registerWrite r 0 o n v) s = .next (s.accessError r o)) ∧
    (∀ g o n, s.barAnswers g = true → o < barSize g 0 → alignedAccess o n = true → s.badWord g 0 o = true → s.inFlr g = false →
      let u := (s.logErr 1 (s.regWord (.fn g) (o / 8 * 8)).home (pbByte (.fn g)) .contained .sramUce o).toHost (.readReply g 0 true)
      (inView g o = false → exec (.rlRead (.fn g) 0 o n) s = .next u) ∧
      (inView g o = true → (s.viewOf g).valid = true → exec (.rlRead (.fn g) 0 o n) s = .next (u.beginRebuild g))) ∧
    (∀ r, open_ r → s.regAnswers r .time = true → (∀ p, r = .fn (.vf p) → s.created p = true ∧ s.flrActive p = false) →
      (r = .mgmtPort ∨ s.badWord (fnOf r) 0 (match r with | .fn (.vf _) => 0x1030 | _ => 0xA00000) = false) →
      let l : Latches := { s.latches r with fraction := BitVec.ofNat 16 s.nowFraction }
      exec (.timeNowRead r true) s = .next ((s.setLatches r l).answerRead r (s.now % 2 ^ 64)) ∧
      exec (.timeNowRead r false) s = .next ((s.setLatches r { l with high := w32 (s.now / 2 ^ 32) }).answerRead r (s.now % 2 ^ 32))) ∧
    (∀ o n u, s.barAnswers .pf = true → s.pfReaches .fe = true → o + n ≤ 2 ^ s.hif.bar2Log2 → 0 < n →
      let a := s.hif.windowBase + o
      (a + n - 1) / chunkBytes = a / chunkBytes → s.closedChunk (a / chunkBytes) = false →
      s.consumeLines 0xFE (linesOf a n) = (none, u) →
      exec (.bar2Access o n none) s = .next (u.toHost (.readReply .pf (leNat (memRead s.part.mem a n)) false))) ∧
    (∀ o n d, s.barAnswers .pf = true → s.pfReaches .fe = true → o + d.length ≤ 2 ^ s.hif.bar2Log2 →
      let a := s.hif.windowBase + o
      ∃ t, exec (.bar2Access o n (some d)) s = .next t ∧ Only [.part, .err, .hif] s t ∧
        (∀ k b, d[k]? = some b → s.closedChunk ((a + k) / chunkBytes) = false → memByte t.part.mem (a + k) = b) ∧
        ∀ x, x < a ∨ a + d.length ≤ x ∨ s.closedChunk (x / chunkBytes) = true → memByte t.part.mem x = memByte s.part.mem x)

/-- Writes of single registers (R83, R90, R129, R471, R711, R855, R897, Tables 26.4 and 27.6). It rests on the model's own reading or
choice in log 28 (DESIGN CHOICE), 109 (DEDUCED), 110 (DEDUCED), 112 (DEDUCED). -/
def Obligations.RegisterWrites : Prop :=
  ∀ s : State, s.memOk →
    (∀ p v, s.barAnswers (.vf p) = true → s.created p = true → s.flrActive p = false →
      (s.running .hif = true → s.badWord (.vf p) 0 0x50000 = false → exec (.registerWrite (.fn (.vf p)) 0 0x50000 4 v) s = .next { s with hif := { s.hif with
        vfIntStatus := Tab.set s.hif.vfIntStatus 0 p.val (Tab.get s.hif.vfIntStatus 0 p.val &&& ~~~(w32 v.toNat)) } }) ∧
      (s.running .rng = true → s.badWord (.vf p) 0 0x40008 = false → v.getLsbD 31 = true → exec (.registerWrite (.fn (.vf p)) 0 0x40008 4 v) s = .next { s with
        random := { s.random with underrun := s.random.underrun.filter (· != p.val) } })) ∧
    (∀ r v, (r = .mgmtPort ∨ r = .fn .pf ∧ s.barAnswers .pf = true ∧ s.badWord .pf 0 0x10028 = false) → s.regAnswers r .shed = true → v.toNat % 256 = 0xFF →
      exec (.registerWrite r 0 0x10028 4 v) s = .next { s with shed := { s.shed with tamperLog := [] } }) ∧
    (∀ v, s.barAnswers .pf = true → s.running .fe = false → exec (.registerWrite (.fn .pf) 0 0x426200 4 v) s = .next (s.dropWrite .fe)) ∧
    (∀ f k v, w32 v.toNat ≠ 0 → s.barAnswers f = true → k < vectorsOf f → s.inFlr f = false → s.pfReaches .hif = true → s.badWord f (if f = .pf then 4 else 2) (16 * k + 8) = false →
      (Tab.get s.hif.msix {} (msixKey f k)).masked = true →
      exec (.registerWrite (.fn f) (if f = .pf then 4 else 2) (16 * k + 8) 4 v) s = .next { s with hif := { s.hif with
        msix := Tab.set s.hif.msix {} (msixKey f k) { Tab.get s.hif.msix {} (msixKey f k) with data := w32 v.toNat } } }) ∧
    (∀ r (log : Fin 16) v, (r = .mgmtPort ∨ r = .fn .pf ∧ s.barAnswers .pf = true ∧ s.badWord .pf 0 (0xC00000 + 0x4000 * log.val) = false) →
      s.regAnswers r .shed = true → v.getLsbD 31 = true → exec (.errlogClear r log v) s = .next { s with err := { s.err with
      logs := Tab.set s.err.logs {} log.val { nextSeq := (Tab.get s.err.logs {} log.val).nextSeq } } }) ∧
    (∀ r v, (r = .mgmtPort ∨ r = .fn .pf ∧ s.barAnswers .pf = true ∧ s.badWord .pf 0 0x10028 = false) → s.regAnswers r .shed = true →
      v.toNat % 256 = 0xFF → exec (.tamperLogClear r v) s = .next { s with shed := { s.shed with tamperLog := [] } }) ∧
    (∀ v, s.barAnswers .pf = true → s.pfReaches .fe = true → ∃ t, exec (.registerWrite (.fn .pf) 0 0x426200 4 v) s = .next t ∧ Only [.reg] s t ∧
      t.reg = { s.reg with wlSel := bits v.toNat 15 0, bad := t.reg.bad } ∧ t.badWord .pf 0 0x426200 = false) ∧
    (∀ p v, s.barAnswers .pf = true → s.pfReaches .fe = true → (∀ k : Fin 8, taskRunning (s.taskOf { part := p, slot := k }) = false) →
      (s.unitsOf p).any s.unitInUse = false → (s.unitsOf p).length ≠ bits v.toNat 6 0 →
      bits v.toNat 6 0 ≤ s.freeUnits.length + (s.unitsOf p).length →
      exec (.wlRegionWrite p v) s = .next ((s.assignUnits p (bits v.toNat 6 0)).refill p))

/-- Configuration requests, FLR, VF Enable and what answers the part's reads (R122, R131 to R134, R143, R145, R151, R250). It
rests on the model's own reading or choice in log 90 (DEDUCED), 111 (PRESUMED), 115 (DEDUCED). -/
def Obligations.HostFunctions : Prop :=
  ∀ s : State, s.memOk →
    (∀ f g, s.power.mainHeld = false → s.hif.configReady = true → (∀ p, f = .vf p → s.vfPresent p = true) →
      exec (.configurationRequest f g none) s = .next (s.toHost (.readReply f (s.cfgValue f g) false))) ∧
    (∀ f g v, s.power.mainHeld = false → s.hif.configReady = false → exec (.configurationRequest f g v) s = .next (s.toHost (.retryStatus f))) ∧
    (∀ v, s.power.mainHeld = false → s.hif.configReady = true → exec (.configurationRequest .pf .deviceControl (some v)) s =
      .next ({ s with hif := s.hif.setControl v.toNat }.toHost (.cfgDone .pf))) ∧
    (∀ p, s.running .hif = true → s.vfPresent p = true → s.flrActive p = false →
      ∃ t, exec (.flr p) s = .next t ∧ t.flrActive p = true ∧ (∀ k, k / 256 = p.val + 1 → Tab.find? t.hif.msix k = none) ∧
        (∀ k, k / 4096 = p.val → Tab.find? t.q.fences k = none) ∧ (∀ n, (t.queue (.part p n)).enable = false ∧ (t.queue (.part p n)).head = 0) ∧
        (∀ r, t.partition? p = some r → r.ptRoot = 0 ∧ r.fault = none) ∧
        ∀ y ∈ t.spetar.windows, y.1 / 256 = p.val → y.2.closing.isSome = true) ∧
    (∀ p r, s.flrActive p = true → s.partition? p = some r → (∀ c ∈ r.chunkMap, s.scrubFails c = false) →
      ∃ t v, exec (.flrComplete p []) s = .next t ∧ Only [.hif, .kelri, .part, .err, .random, .freeCtr] s t ∧
        t.hif.flr = Tab.erase s.hif.flr p.val ∧ t.kelri.vf = Tab.set s.kelri.vf {} p.val v ∧ v.valid = true ∧ v.generation = 0 ∧
        ∀ a, a / chunkBytes ∈ r.chunkMap → memByte t.part.mem a = 0) ∧
    (∀ e n, s.running .hif = true → n ≤ 64 → s.hif.vfEnable = false ∨ (e = true ∧ s.hif.numVfs ≤ n) →
      exec (.vfEnable e n) s = .next { s with hif := { s.hif with vfEnable := e, numVfs := n } }) ∧
    (∀ f tag st d, s.power.mainHeld = false →
      (Tab.find? s.hif.reads (readKey f tag) = none → exec (.hostCompletion f tag st d) s = .next (s.logAer f .unexpectedCompletion)) ∧
      (∀ r, Tab.find? s.hif.reads (readKey f tag) = some r → r.beforeFlr = true → s.q.cmds = [] → s.rounds.table = [] →
        exec (.hostCompletion f tag st d) s = .next (s.endRead (readKey f tag)))) ∧
    (∀ f tag r src id off c, s.power.mainHeld = false → Tab.find? s.hif.reads (readKey f tag) = some r → r.beforeFlr = false →
      r.expired = false → r.abandoned = false →
      s.staleTag r.tag = false → r.purpose = .pull src id off → s.cmd? src id = some c → s.q.cmds = [c] → c.mirrored = none → c.pkt.header.signal = false →
      s.graft.waits = [] → s.rounds.table = [] →
      (∀ ps dst out d l got h, c.phase = .executing (.hostPull h l ps dst got out) → d.length = r.len →
        ∃ t, exec (.hostCompletion f tag .success d) s = .next t ∧ DataOnly s t ∧ t.part.mem = (s.writeRange ps (dst + off) d).part.mem ∧
          MemoryKeptOutside s t (segments ps (dst + off) d.length) ∧
          (l = 0 → out ≤ 1 → ∃ x, t.q.cmds = [x] ∧ x.src = src ∧ x.id = id ∧ x.phase = .done s.q.doneOrd .ok [] s.now)) ∧
      (∀ h l ps dst got out, c.phase = .executing (.hostPull h l ps dst got out) → r.issued + 50000000 ≤ s.now →
        ∃ t x, exec (.hostReadTimeout f tag) s = .next t ∧ DataOnly s t ∧ MemoryKept s t ∧ t.q.cmds = [x] ∧ x.src = src ∧ x.id = id ∧
          x.phase = .done s.q.doneOrd .hostReadTimeout [] s.now))

/-- A port's registers and its way between states (R536, R539, R549, R551 to R557, R592, R593, Table 16.3). It rests on the model's own
reading or choice in log 11 (DESIGN CHOICE), 66 (DEDUCED), 154 (DEDUCED), 155 (DEDUCED). -/
def Obligations.PortControl : Prop :=
  ∀ (s : State) (n : Fin 16), s.memOk →
    let p := s.port n.val
    let moved (t : State) : Prop := Only [.spetar, .isl, .hif, .time, .mgmt, .freeCtr] s t ∧ DropsOnly s t ∧ Unlinked s t
    (∀ v, s.barAnswers .pf = true → s.kelri.pf.valid = true → s.oeRuns (n.val / 4) = true →
      (v.getLsbD 1 = false → v.getLsbD 2 = false → p.enable = true → v.getLsbD 0 = false →
        (p.state ≠ .portFenced → ∃ t, exec (.portEnable n v) s = .next t ∧ moved t ∧ (t.port n.val).state = .disabled ∧ (t.port n.val).enable = false) ∧
        (p.state = .portFenced → exec (.portEnable n v) s = .next (s.setPort n.val { p with enable := false }))) ∧
      (v.getLsbD 1 = false → p.enable = false → p.state = .disabled → v.getLsbD 0 = true → s.synthReady n.val = true →
        ∃ t, exec (.portEnable n v) s = .next t ∧ moved t ∧ (t.port n.val).state = .training ∧ (t.port n.val).enable = true) ∧
      (p.enable = true → v.getLsbD 0 = true →
        (p.state ≠ .portFenced → p.state ≠ .disabled → p.state ≠ .settling → s.synthReady n.val = true →
          ∃ t, exec (.portReset n v) s = .next t ∧ moved t ∧ (t.port n.val).state = .training ∧ (t.port n.val).trainFails = 0) ∧
        (p.state = .disabled → exec (.portReset n v) s = .next (s.setPort n.val { p with replay := [], trainFails := 0, retrainTimes := [] })) ∧
        (p.state = .portFenced → v.getLsbD 2 = false → exec (.portReset n v) s = .next s) ∧
        (p.state = .portFenced → ∃ t, exec (.unfence n v) s = .next t ∧ moved t ∧
          t.hif.intStatus.getLsbD 21 = true ∧ t.port n.val = { p with
            state := .dazzled, floodTimes := [], backoffMs := 1, everDazzled := true, backoffUntil := s.now + 1000000
            paused := none, trainingSince := none, qualifiedAt := none, losSince := none })) ∧
      (p.enable = false → v.getLsbD 0 = false → v.getLsbD 1 = false → p.state = .portFenced →
        ∃ t, exec (.unfence n v) s = .next t ∧ moved t ∧ (t.port n.val).state = .disabled ∧ (t.port n.val).floodTimes = [])) ∧
    (∀ a b, s.oeRuns (n.val / 4) = true → p.enable = true →
      let present := aboveLos a = true ∧ aboveLos b = true ∧ a ≤ p.rxHigh ∧ b ≤ p.rxHigh
      let q : Port := { p with qualifiedAt := some s.now, rxPower0 := a, rxPower1 := b, losSince := none }
      (¬present → exec (.signalQualified n a b) s = .next s) ∧
      (present → p.state = .active → exec (.signalQualified n a b) s = .next (s.setPort n.val q)) ∧
      (present → p.state = .training → p.trainingSince = none → s.synthReady n.val = true →
        ∃ t nonce, exec (.signalQualified n a b) s = .next t ∧ Only [.spetar, .freeCtr] s t ∧ nonce.length = 16 ∧
          t.spetar.out = s.spetar.out ++ [.param n.val udid (p.expected - 1) nonce] ∧
          t.port n.val = { q with trainingSince := some s.now, nonce := nonce, line := (t.port n.val).line, owed := (t.port n.val).owed }) ∧
      (present → p.state = .dazzled → p.backoffUntil ≤ s.now → s.synthReady n.val = true →
        ∃ t, exec (.signalQualified n a b) s = .next t ∧ moved t ∧ (t.port n.val).state = .training ∧
          (t.port n.val).trainingSince = some s.now)) ∧
    (∀ a (peer : Peer) port ack, p.state = .training → p.trainingSince = some a → s.now ≤ a + 50000 → s.oeRuns (n.val / 4) = true →
      (peer.encrypted ≠ s.spetar.encMode →
        ∃ t, exec (.trainingComplete n peer port ack) s = .next t ∧ moved t ∧ (t.port n.val).trainFails = p.trainFails + 1 ∧
          (t.port n.val).state = if 8 ≤ p.trainFails + 1 then .linkDown .trainFail else .dazzled) ∧
      (∀ t, peer.encrypted = s.spetar.encMode → exec (.trainingComplete n peer port ack) s = .next t → (t.port n.val).state = .active →
        (t.port n.val).peerUdid = some peer.udid ∧ (t.port n.val).peerPort = some port ∧ (t.port n.val).trainFails = 0 ∧
        (t.port n.val).activeSince = s.now ∧ (t.port n.val).encrypted = s.spetar.encMode) ∧
      let then_ : PortState := if (s.oe (n.val / 4)).calibrating.isSome then .calibrating else .active
      (peer.encrypted = false → s.spetar.encMode = false →
        ∃ t, exec (.trainingComplete n peer port ack) s = .next t ∧ moved t ∧ (t.port n.val).state = then_ ∧
          (t.port n.val).expected = peer.next ∧ (t.port n.val).txKey = none ∧ (t.port n.val).rxKey = none) ∧
      (∀ k, peer.encrypted = true → s.spetar.encMode = true → s.linkKey.1 = some k →
        ∃ t, exec (.trainingComplete n peer port ack) s = .next t ∧ moved t ∧ (t.port n.val).state = then_ ∧
          (t.port n.val).txKey = some (directionKey k p.nonce peer.nonce udid n.val) ∧
          (t.port n.val).rxKey = some (directionKey k peer.nonce p.nonce peer.udid port))) ∧
    (∀ a, p.state = .training → p.trainingSince = some a → a + 50000 < s.now →
      ∃ t, exec (.trainingTimeout n) s = .next t ∧ moved t ∧ (t.port n.val).trainFails = p.trainFails + 1 ∧
        t.hif.intStatus.getLsbD 21 = true ∧
        (8 ≤ p.trainFails + 1 → (t.port n.val).state = .linkDown .trainFail) ∧
        (p.trainFails + 1 < 8 →
          let ms := if p.everDazzled then min 256 (2 * p.backoffMs) else 1
          (t.port n.val).state = .dazzled ∧ (t.port n.val).backoffMs = ms ∧ (t.port n.val).backoffUntil = s.now + ms * 1000000)) ∧
    (p.state = .training ∨ p.state = .active ∨ p.state = .calibrating →
      (∃ t, exec (.faultPattern n) s = .next t ∧ PortMoved s t n.val (.linkDown .peerFault)) ∧
      let times := s.now :: p.floodTimes.filter (fun t => decide (s.now ≤ t + 10000000000))
      ∀ x cut, (p.flooded x = false → exec (.floodDetected n x cut) s = .next s) ∧
        (p.flooded x = true → losAsserted x.p0 = true ∨ losAsserted x.p1 = true →
          ∃ t, exec (.floodDetected n x cut) s = .next t ∧ PortMoved s t n.val (.linkDown .los)) ∧
        (p.flooded x = true → losAsserted x.p0 = false → losAsserted x.p1 = false →
          ∃ t, exec (.floodDetected n x cut) s = .next t ∧ moved t ∧ (t.port n.val).floodEvents = satAdd32 p.floodEvents 1 ∧
            (t.port n.val).floodTimes = times ∧ (t.port n.val).state = if 8 ≤ times.length then .portFenced else .dazzled)) ∧
    (∀ a b, losAsserted a = false → losAsserted b = false → exec (.los n a b) s = .next s) ∧
    (∀ a b, losAsserted a = true ∨ losAsserted b = true →
      let q : Port := { p with qualifiedAt := none, rxPower0 := a, rxPower1 := b }
      (p.state = .training ∨ p.state = .active →
        ∃ t, exec (.los n a b) s = .next t ∧ PortMoved (s.setPort n.val q) t n.val (.linkDown .los)) ∧
      (p.state = .dazzled → exec (.los n a b) s = .next (s.setPort n.val { q with losSince := some (p.losSince.getD s.now) })) ∧
      (p.state ≠ .training → p.state ≠ .active → p.state ≠ .dazzled → exec (.los n a b) s = .next (s.setPort n.val q))) ∧
    (p.state = .dazzled →
      (∀ a, p.losSince = some a → a + 10000000 ≤ s.now → ∃ t, exec (.losInDazzled n) s = .next t ∧ PortMoved s t n.val (.linkDown .los)) ∧
      (p.qualifiedAt.isSome = true → p.backoffUntil ≤ s.now → s.synthReady n.val = true →
        ∃ t, exec (.backoffExpiry n) s = .next t ∧ moved t ∧ (t.port n.val).state = .training ∧ (t.port n.val).trainingSince = some s.now)) ∧
    (p.state = .active → p.activeSince + 1000000000 ≤ s.now →
      exec (.activeHold n) s = .next (s.setPort n.val { p with backoffMs := 1, everDazzled := false })) ∧
    (∀ a, p.paused = some a → a + 1000000 ≤ s.now → ∃ t, exec (.unpauseTimeout n) s = .next t ∧ PortMoved s t n.val (.linkDown .peerFault))

/-- Acknowledgement, credit, replay, errors and PAUSE of a link (R529, R531, R532, R534, R535, R541, R542, R557, R558, R595). It rests
on the model's own reading or choice in log 65 (DEDUCED), 66 (DEDUCED), 145 (DEDUCED). -/
def Obligations.LinkReplay : Prop :=
  ∀ (s : State) (n : Fin 16), s.memOk →
    let p := s.port n.val
    let held (a : W16) : List Frame := p.replay.filter (fun f => !covers a f.lseq)
    let moved (t : State) : Prop := Only [.spetar, .isl, .hif, .time, .mgmt, .freeCtr] s t ∧ DropsOnly s t ∧ Unlinked s t
    let heard (a : LinkReport) : Port := (p.fecSeen a.line).regain a.creditVc.val a.credit
    (∀ f l, p.state = .active → p.replay = f :: l → max p.lastAckAt f.since + 4000 ≤ s.now →
      (p.paused = none → ∃ t, exec (.replayTimeout n) s = .next t ∧ Only [.spetar] s t ∧
        t.port n.val = { p with lastAckAt := s.now, line := (t.port n.val).line, owed := (t.port n.val).owed } ∧
        t.spetar.out = s.spetar.out ++ p.replay.map (fun f => f.what)) ∧
      (p.paused.isSome = true → exec (.replayTimeout n) s = .next (s.setPort n.val { p with lastAckAt := s.now }))) ∧
    (p.state = .active →
      (∀ (a : LinkReport), ∃ t, exec (.linkAck n a) s = .next t ∧ FramesMoved (s.setPort n.val (heard a)) t) ∧
      (∀ (a : LinkReport), p.queue = [] → s.egressOf (n.val / 4) = [] →
        ∃ t, exec (.linkAck n a) s = .next t ∧ Only [.spetar] s t ∧ t.spetar.out = s.spetar.out ∧ t.port n.val = { heard a with
          replay := held a.ack, lastAckAt := if (held a.ack).length < p.replay.length then s.now else p.lastAckAt }) ∧
      (∀ (a : LinkReport), p.queue = [] → s.egressOf (n.val / 4) = [] → p.paused = none →
        ∃ t, exec (.linkNak n a) s = .next t ∧ Only [.spetar] s t ∧
          t.spetar.out = s.spetar.out ++ (held a.ack).map (fun f => f.what) ∧ t.port n.val = { heard a with
            naks := satAdd32 p.naks 1, nakTimes := s.now :: p.nakTimes.filter (fun t => decide (s.now ≤ t + 1000000)), replay := held a.ack
            line := (t.port n.val).line, owed := (t.port n.val).owed
            lastAckAt := if (held a.ack).length < p.replay.length then s.now else p.lastAckAt }) ∧
      (256 ≤ (p.nakTimes.filter (fun t => decide (s.now ≤ t + 1000000))).length →
        let times := s.now :: p.retrainTimes.filter (fun t => decide (s.now ≤ t + 1000000000))
        ∃ t, exec (.nakBurst n) s = .next t ∧ moved t ∧ (t.port n.val).retrains = satAdd32 p.retrains 1 ∧
          (t.port n.val).retrainTimes = times ∧ (t.port n.val).state = if 3 ≤ times.length then .linkDown .errorRate else .training) ∧
      (∀ l, ∃ t, exec (.frameCrcFailure n l) s = .next t ∧ Only [.spetar] s t ∧
        t.spetar.out = s.spetar.out ++ [.trailer n.val (p.expected - 1) true] ∧
        t.port n.val = { p.fecSeen l with line := { p.line with nak := true } }) ∧
      (p.encrypted = true →
        let times := s.now :: p.tagFails.filter (fun t => decide (s.now ≤ t + 1000000))
        ∃ t, exec (.tagFailure n) s = .next t ∧ moved t ∧ (t.port n.val).authFail = satAdd32 p.authFail 1 ∧
          (t.port n.val).tagFails = times ∧ (t.port n.val).state = if 16 ≤ times.length then .linkDown .errorRate else .active) ∧
      (s.synthReady n.val = true → ∃ t, exec (.replayBufferEcc n) s = .next t ∧ Only [.spetar, .err, .isl, .hif, .time, .mgmt, .freeCtr] s t ∧
        (t.port n.val).state = .training ∧ (t.port n.val).trainFails = 0)) ∧
    (p.state = .portFenced → exec (.replayBufferEcc n) s = .next ((s.setPort n.val { p with replay := [] }).logErr 6 .fab 0xFF .contained .sramUce)) ∧
    (∀ (a : Arrival), a.port = n →
      (p.state ≠ .active ∨ a.lseq ≠ p.expected → exec (.pause a) s = .next s ∧ exec (.unpause a) s = .next s) ∧
      (p.state = .active → a.lseq = p.expected →
        exec (.pause a) s = .next ((s.setPort n.val { p with expected := p.expected + 1, paused := some s.now }).record
          (.trailer n.val p.expected p.line.nak)) ∧
        ∃ t, exec (.unpause a) s = .next t ∧ FramesMoved (s.setPort n.val { p with expected := p.expected + 1, paused := none }) t))

/-- The synthesisers' lock and calibration (R540 to R544, R546, R547, R556). It rests on the model's own reading or choice in log 66
(DEDUCED), 147 (DEDUCED). -/
def Obligations.OpticalEngines : Prop :=
  ∀ (s : State) (e : Fin 4), s.memOk →
    let o := s.oe e.val
    let ports := oePorts e.val
    let moved (t : State) : Prop := Only [.spetar, .isl, .hif, .time, .mgmt, .freeCtr] s t ∧ DropsOnly s t ∧ Unlinked s t
    (∀ x, s.oeRuns e.val = true → s.time.synthLocked = true →
      ∃ t, exec (.synthLock e x) s = .next t ∧ moved t ∧
        t.spetar.oes = Tab.set s.spetar.oes {} e.val { o with locked := true, calRequested := false, lastCalTemp := x } ∧
        ∀ n ∈ ports, (s.port n).state = .settling ∨ (s.port n).state = .linkDown .synthLock → (t.port n).state = .training) ∧
    (o.locked = false → s.unsettled e.val ≠ [] →
      ∃ t, exec (.synthLockTimeout e) s = .next t ∧ moved t ∧
        ((∃ n ∈ ports, (s.port n).state = .linkDown .synthLock) → t.spetar.oes = s.spetar.oes) ∧
        ((∀ n ∈ ports, (s.port n).state ≠ .linkDown .synthLock) →
          t.spetar.oes = Tab.set s.spetar.oes {} e.val { o with nextRetry := s.now + 100000000 }) ∧
        ∀ n ∈ ports, (s.port n).state = .settling → (s.port n).settledAt + 5000000 ≤ s.now → (t.port n).state = .linkDown .synthLock) ∧
    (o.locked = false → o.nextRetry ≤ s.now → (∃ n ∈ ports, (s.port n).state = .linkDown .synthLock) →
      exec (.synthLockRetry e) s = .next (s.setOe e.val { o with nextRetry := o.nextRetry + 100000000 })) ∧
    (∀ v, s.barAnswers .pf = true → s.pfReaches .fab = false → exec (.calNow e v) s = .next (s.dropWrite .fab)) ∧
    (∀ c,
      ((∃ v : W32, c = .calNow e v ∧ s.barAnswers .pf = true ∧ s.pfReaches .fab = true ∧ v.getLsbD 0 = true) ∨
       (∃ x : Int, c = .temperatureDrift e x ∧ s.oeRuns e.val = true ∧ 8 ≤ (x - o.lastCalTemp).natAbs)) →
      (o.retryAt.isSome = true → exec c s = .next (s.setOe e.val { o with calRequested := true })) ∧
      (o.retryAt = none → o.draining = none → o.calibrating = none → o.locked = true →
        ∃ t, exec c s = .next t ∧ Only [.spetar, .isl] s t ∧ DropsOnly s t ∧ t.oe e.val = { o with
          calRequested := true
          draining := if ports.any s.portActive then some s.now else none
          calibrating := if ports.any s.portActive then none else some s.now })) ∧
    (o.draining.isSome = true →
      ((∃ n ∈ ports, (s.port n).state = .active ∧ s.pauseAcked n = false) → exec (.calibrationDrained e) s = .next s) ∧
      ((∀ n ∈ ports, (s.port n).state = .active → s.pauseAcked n = true) →
      ∃ t, exec (.calibrationDrained e) s = .next t ∧ moved t ∧
        t.oe e.val = { o with draining := none, calibrating := some s.now, retryAt := none } ∧
        ∀ n ∈ ports, (s.port n).state = .active → (t.port n).state = .calibrating)) ∧
    (∀ x, o.calibrating.isSome = true →
      ∃ t, exec (.calibrationEnd e x) s = .next t ∧ moved t ∧ t.spetar.oes = Tab.set s.spetar.oes {} e.val
          { o with calibrating := none, calRequested := false, firstDeferral := none, calDeferred := 0, lastCalTemp := x } ∧
        ∀ n ∈ ports, ((s.port n).state = .calibrating → (t.port n).state = .active) ∧ ((s.port n).state = .settling → (t.port n).state = .training)) ∧
    (∀ a, o.draining = some a → a + 100000 ≤ s.now →
      let first := o.firstDeferral.getD s.now
      ∃ t, exec (.drainTimeout e) s = .next t ∧ FramesMoved (s.setOe e.val { o with
        draining := none, retryAt := some (s.now + 10000000), firstDeferral := some first
        calDeferred := o.calDeferred + (s.now - first) / 1000 }) t) ∧
    (∀ a, o.retryAt = some a → a ≤ s.now → o.calRequested = true → o.draining = none → o.calibrating = none → o.locked = true →
      ∃ t, exec (.calibrationRetry e) s = .next t ∧ moved t ∧
        (1000000 ≤ o.calDeferred →
          t.oe e.val = { o with calibrating := some s.now, retryAt := none } ∧ ∀ n ∈ ports, (s.port n).state = .active → (t.port n).state = .calibrating) ∧
        (o.calDeferred < 1000000 → t.oe e.val = { o with
          retryAt := none
          draining := if ports.any s.portActive then some s.now else none
          calibrating := if ports.any s.portActive then none else some s.now }))

/-- The fabric's rows (R560, R569, R574, R576, R578 to R582, Tables 5.13 and 5.14). It rests on the model's own reading or choice in log
63 (DEDUCED), 67 (DEDUCED), 157 (DEDUCED). -/
def Obligations.FabricRows : Prop :=
  (∀ s src p, s.memOk → s.ready specFabRoutes src p = true →
    ∃ t, exec (.fabRoutes src p) s = .next t ∧ Completed s t src .ok [] ∧ QueuesKept s t src ∧
      t = { s with q := t.q, spetar := { s.spetar with nonMinimal := bit (p.word 0) 0 } }) ∧
  (∀ s src p n u, s.memOk → s.ready specFabDiscover src p = true → (s.port n).peerUdid = some u → (s.port n).peerPort.isSome = true → u ≠ udid → n < 16 →
    (bit (p.word 0) 0 = true → s.trellis.formed = [] ∧ ∀ y ∈ s.rounds.table, y.2.policy.fabric = false ∨ y.2.state.isAborted = true) →
    ∃ t, exec (.fabDiscover src p) s = .next t ∧ Executes s t src (.discover (s.now + 20000000)) ∧ QueuesKept s t src ∧
      Only [.q, .spetar, .isl] s t ∧ DropsOnly s t ∧
      t.spetar.discovering = some (bit (p.word 0) 0) ∧ t.spetar.seen = [] ∧ t.spetar.discoveredAt = some s.now) ∧
  (∀ s a b p ps u, s.memOk → s.ready specWindowOpen (.part a b) p = true →
    let k := windowKey a (bits (p.word 0) 7 0)
    let right (n : Nat) : Bool := bit (p.word 0) (24 + n)
    Tab.find? s.spetar.windows k = none →
    (s.atBody specWindowOpen (.part a b) p).claim (.part a b) (pair p.word 2) (pair p.word 4) (right 1 || right 2) = (.ok ps, u) →
    ∃ t, exec (.windowOpen (.part a b) p) s = .next t ∧ Completed s t (.part a b) .ok [] ∧ QueuesKept s t (.part a b) ∧
      Only [.q, .spetar, .part, .err, .hif] s t ∧ MemoryKept s t ∧
      ∀ w : Window, w = { peer := bits (p.word 0) 16 8, peerPart := p.word 1, read := right 0, write := right 1, add := right 2, signal := right 3, bytes := pair p.word 4, pages := ps } →
        t.spetar = { s.spetar with windows := Tab.insert s.spetar.windows k w }) ∧
  (∀ s a b p w, s.memOk → s.ready specWindowClose (.part a b) p = true →
    Tab.find? s.spetar.windows (windowKey a (p.word 0)) = some w → w.closing = none →
    ∃ t, exec (.windowClose (.part a b) p) s = .next t ∧ Completed s t (.part a b) .ok [] ∧ QueuesKept s t (.part a b) ∧
      t = { s with q := t.q, spetar := { s.spetar with
        windows := Tab.insert s.spetar.windows (windowKey a (p.word 0)) { w with closing := some s.now } } }) ∧
  (∀ (row : Source → Packet → Instr) (sp : OpSpec) (serve : State → Outstanding → Status × State) (type : PktType) (op : Nat)
      (s : State) (src : Source) (p : Packet) (ps : Pages) (b : Bytes) (u v : State),
    (row = .rmaWrite ∧ sp = specRmaWrite ∧ type = .write ∧ op = 0 ∧ serve = fun s o => s.serveWrite o.header o.payload) ∨
    (row = .rmaAdd ∧ sp = specRmaAdd ∧ type = .add ∧ op = bits (p.word 0) 27 24 ∧ serve = fun s o => s.serveAdd o.header o.payload) →
    s.memOk → s.ready sp src p = true →
    let d := bits (p.word 0) 8 0
    let h := { s.requestHeader src type d (bits (p.word 0) 23 16) with op := op }
    (s.atBody sp src p).claim src (pair p.word 4) (p.word 1) false = (.ok ps, u) →
    (u.holding src (s.nextCmd src) ps).readRange (srcPartByte src) ps (pair p.word 4) (p.word 1) = (.ok b, v) →
    let os := dataPackets (s.q.serial src) h (pair p.word 2) b (.data src (s.nextCmd src))
    (s.spetar.fid = some d → ∀ st res z, v.serveLocal serve os = (.done st res, z) →
      ∃ t, exec (row src p) s = .next t ∧ Completed s t src st res ∧ QueuesKept s t src ∧ DataOnly s t ∧ t.part.mem = z.part.mem) ∧
    (s.spetar.fid ≠ some d → s.canSend d = true →
      ∃ t, exec (row src p) s = .next t ∧ Executes s t src (.remote os.length 0 0 none) ∧ QueuesMoved s t src ∧
        Only [.q, .spetar, .isl, .part, .err, .hif, .freeCtr] s t ∧ DropsOnly s t ∧ MemoryKept s t)) ∧
  (∀ s src p ps u, s.memOk → s.ready specRmaRead src p = true →
    let d := bits (p.word 0) 8 0
    let h := s.requestHeader src .readReq d (bits (p.word 0) 23 16)
    (s.atBody specRmaRead src p).claim src (pair p.word 4) (p.word 1) true = (.ok ps, u) →
    let os : List Outstanding := (cuts 4096 (pair p.word 2) (p.word 1)).map (fun (o, n) =>
      { header := { h with offset := o, last := decide (o + n = pair p.word 2 + p.word 1) }, payload := leBytes 8 n, bytes := n
        serial := s.q.serial src, purpose := .read src (s.nextCmd src) ps (pair p.word 4 + (o - pair p.word 2)) n })
    (s.spetar.fid = some d → ∀ st res z, (u.holding src (s.nextCmd src) ps).serveLocal State.serveReadLocal os = (.done st res, z) →
      ∃ t, exec (.rmaRead src p) s = .next t ∧ Completed s t src st res ∧ QueuesKept s t src ∧ DataOnly s t ∧ t.part.mem = z.part.mem) ∧
    (s.spetar.fid ≠ some d → s.canSend d = true →
      ∃ t, exec (.rmaRead src p) s = .next t ∧ Executes s t src (.remote os.length 0 0 none) ∧ QueuesMoved s t src ∧
        Only [.q, .spetar, .isl, .part, .err, .hif, .freeCtr] s t ∧ DropsOnly s t ∧ MemoryKept s t))

/-- Requests at their target (R568, R570, R575, R577, R579, R580, R587, R588, R597). It rests on the model's own reading or choice
in log 24 (DEDUCED), 63 (DEDUCED). -/
def Obligations.FabricTarget : Prop :=
  ∀ (x : State) (a : Arrival) (h : FabHeader) (data : Bytes), x.memOk →
    let frame : FabOut := .packet none h data
    let s := x.tookFrame a frame
    let done (u : State) (st : Status) : State := (u.noteApplied h st).acknowledge h st
    (∀ c ∈ [Instr.write a h data, .add a h data, .signal a h data, .probe a h data, .readReq a h data, .readResp a h data, .ack a h data, .nak a h data],
      ((x.port a.port.val).state ≠ .active ∨ a.lseq ≠ (x.port a.port.val).expected → exec c x = .next x) ∧
      ((x.port a.port.val).state = .active → a.lseq = (x.port a.port.val).expected → x.miscabled a.port.val = true → exec c x = .next s) ∧
      (x.takes a frame = true → s.inTransit h = true → exec c x = .next (s.forward h data))) ∧
    (x.takes a frame = true → s.spetar.fid = some h.dst → s.accepts = true → s.expired h = false →
      (∀ c ∈ [Instr.write a h data, .add a h data, .signal a h data, .probe a h data],
        (s.seen h = .stale → exec c x = .next s) ∧ ∀ st, s.seen h = .kept st → exec c x = .next (s.acknowledge h (Status.ofCode st))) ∧
      (s.seen h = .new →
        (∀ p w, s.windowFor h (fun w => w.write) h.offset data.length = some (p, w) →
          exec (.write a h data) x = .next (done (s.writeRange w.pages (w.addr h.offset) data) .ok) ∧
          ∃ t, exec (.write a h data) x = .next t ∧ Only [.spetar, .isl, .part, .err, .hif] s t ∧ DropsOnly s t ∧
            MemoryKeptOutside s t (segments w.pages (w.addr h.offset) data.length)) ∧
        (s.windowFor h (fun w => w.write) h.offset data.length = none → exec (.write a h data) x = .next (done s .notPermitted)) ∧
        (∀ p w old u, s.windowFor h (fun w => w.add) h.offset data.length = some (p, w) →
          s.readRange (partByte (some p)) w.pages (w.addr h.offset) data.length = (.ok old, u) →
          let d := addBytes h.op old data
          exec (.add a h data) x = .next (done (u.writeRange w.pages (w.addr h.offset) d) .ok) ∧
          ∃ t, exec (.add a h data) x = .next t ∧ Only [.spetar, .isl, .part, .err, .hif] s t ∧ DropsOnly s t ∧
            MemoryKeptOutside s t (segments w.pages (w.addr h.offset) d.length)) ∧
        (s.windowFor h (fun w => w.add) h.offset data.length = none → exec (.add a h data) x = .next (done s .notPermitted)) ∧
        (∀ p w v, s.windowOwner h.window h.src h.srcPart = some (p, w) → w.closing = none → w.signal = true → s.isCold p = h.cold →
          s.flrActive p = false →
          let k := fenceKey (some p) (h.offset % 4096)
          s.mayWriteFence k none = true → fenceAfter (s.fence k) (if h.op = 1 then .max else .add) (BitVec.ofNat 64 (leNat (fit 8 data))) = some v →
          exec (.signal a h data) x = .next (done (s.setFence k v) .ok)) ∧
        (s.windowOwner h.window h.src h.srcPart = none → exec (.signal a h data) x = .next (done s .notPermitted)) ∧
        (exec (.probe a h data) x = .next (done s
          (if (s.windowFor h (fun w => w.write) (leNat (slice data 0 8)) (leNat (slice data 8 8))).isSome then .ok else .notPermitted)))) ∧
      (s.seen h ≠ .stale → ∀ b u, s.serveRead h (leNat (slice data 0 4)) = (.ok b, u) →
        exec (.readReq a h data) x = .next ((u.noteApplied h .ok).respond h 0 (pieces 256 b)) ∧
        ∃ t, exec (.readReq a h data) x = .next t ∧ Only [.spetar, .isl, .part, .err, .hif] s t ∧ DropsOnly s t ∧ MemoryKept s t)) ∧
    (∀ (p : Fin 64) (n : Fin 256) w at_, Tab.find? x.spetar.windows (windowKey p n.val) = some w → w.closing = some at_ → at_ + 2000000 ≤ x.now →
      exec (.windowHandleFree p n) x = .next (x.dropWindow p n.val))

/-- Answers, retransmission, keepalives, discovery and link state (R519, R560, R563, R565, R573, R581, R584 to R586, R605). It rests on
the model's own reading or choice in log 51 (DEDUCED), 67 (DEDUCED), 68 (DEDUCED), 69 (DEDUCED), 106 (DEDUCED). -/
def Obligations.FabricSource : Prop :=
  ∀ s : State, s.memOk →
    (∀ a h data o src id c x r f, s.takes a (.packet none h data) = true → s.running .fab = true → s.spetar.fid = some h.dst → s.outstanding? h.src (h.offset % 2 ^ 32) = some o →
      o.purpose = .data src id → s.endsCmd src id c →
      (∀ n, c.phase = .executing (.remote (n + 2) x r f) →
        (∃ t, exec (.ack a h data) s = .next t ∧ Only [.q, .spetar, .isl] s t ∧ DropsOnly s t ∧ t.q = { s.q with cmds := s.q.cmds.map (fun d =>
          if d.src == src && d.id == id then (match d.phase with
            | .executing w => { d with phase := .executing (remoteEnd .ok w) }
            | _ => d) else d) }) ∧
        ∃ t, exec (.nak a h data) s = .next t ∧ Only [.q, .spetar, .isl] s t ∧ DropsOnly s t) ∧
      (c.phase = .executing (.remote 1 x r f) →
        (∃ t, exec (.ack a h data) s = .next t ∧ Only [.q, .spetar, .isl] s t ∧ DropsOnly s t ∧ Ended s t src id (f.getD .ok) [w32 x, w32 r]) ∧
        ∀ st, st ≠ .ok → Status.ofCode h.status = st →
          ∃ t, exec (.nak a h data) s = .next t ∧ Only [.q, .spetar, .isl] s t ∧ DropsOnly s t ∧
            Ended s t src id (f.getD st) [w32 x, w32 (if st = .notPermitted then r + 1 else r)])) ∧
    (∀ a h data o src id ps dst len, s.takes a (.packet none h data) = true → s.running .fab = true → s.spetar.fid = some h.dst → s.outstanding? h.src h.psn = some o →
      o.purpose = .read src id ps dst len → h.status = 0 → (∀ y ∈ o.got, y.1 ≠ h.offset) → h.offset + data.length ≤ len →
      (gotBytes o.got + data.length ≠ len →
        ∃ t, exec (.readResp a h data) s = .next t ∧ Only [.spetar, .isl, .part, .err, .hif] s t ∧ DropsOnly s t ∧
          t.part.mem = (s.writeRange ps (dst + h.offset) data).part.mem ∧ MemoryKeptOutside s t (segments ps (dst + h.offset) data.length)) ∧
      (∀ c x r f, gotBytes o.got + data.length = len → s.endsCmd src id c → c.phase = .executing (.remote 1 x r f) →
        ∃ t, exec (.readResp a h data) s = .next t ∧ Only [.q, .spetar, .isl, .part, .err, .hif] s t ∧ DropsOnly s t ∧
          t.part.mem = (s.writeRange ps (dst + h.offset) data).part.mem ∧ Ended s t src id (f.getD .ok) [w32 x, w32 r])) ∧
    (∀ d psn o, s.outstanding? d psn = some o → o.retries < 7 → o.firstSend + resendAt o.retries ≤ s.now → s.running .fab = true →
      let route := ((s.retryRoute d o (o.retries + 1)).map (fun r => (r.port, r.via))).getD o.route
      ∃ t, exec (.retransmitTimeout d psn) s = .next t ∧ Only [.q, .spetar, .isl] s t ∧ DropsOnly s t ∧ t.dest d = { s.dest d with
        window := max 4096 ((s.dest d).window / 2)
        out := Tab.insert (s.dest d).out psn { o with
          retries := o.retries + 1, lastSend := s.now, route := route, header := { o.header with retry := o.retries + 1, via := route.2 } } }) ∧
    (∀ d psn o src id c x r f, s.outstanding? d psn = some o → o.firstSend + 2040000 ≤ s.now → o.purpose = .data src id →
      s.endsCmd src id c → c.phase = .executing (.remote 1 x r f) →
      ∃ t, exec (.retransmitGiveUp d psn) s = .next t ∧ Only [.q, .spetar, .isl, .hif] s t ∧ DropsOnly s t ∧
        t.hif.intStatus = s.hif.intStatus ||| 0x400000 ∧ Ended s t src id (f.getD .remoteUnreachable) [w32 x, w32 r]) ∧
    (s.trellis.nextKeepalive ≤ s.now → s.running .fab = true →
      ∃ t, exec .keepalive s = .next t ∧ Only [.trellis, .spetar, .isl] s t ∧ DropsOnly s t ∧ t.trellis = { s.trellis with nextKeepalive := s.now + 100000 } ∧
        (s.waitedOn = [] → t.spetar = s.spetar)) ∧
    (∀ (a : Arrival) h d, s.takes a (.flood a.port.val h d) = true → s.running .fab = true → d.udid ≠ udid →
      let y := s.tookFrame a (.flood a.port.val h d)
      let known : List DevRec := d :: s.spetar.map.filter (fun x => x.udid != d.udid)
      let u := ({ y with spetar := { y.spetar with seen := s.spetar.seen ++ [d.udid], map := known } } : State).flood h d
      (s.lateCopy d = true → exec (.discover a h d) s = .next y) ∧
      (s.spetar.discovering.isSome = true → s.spetar.seen.contains d.udid = true → exec (.discover a h d) s = .next y) ∧
      (s.spetar.discovering.isSome = true → s.spetar.seen.contains d.udid = false → u.floodClosed = false → exec (.discover a h d) s = .next u) ∧
      (devByUdid s.spetar.map d.udid = some d → exec (.linkState a h d) s = .next y) ∧
      (devByUdid s.spetar.map d.udid ≠ some d → exec (.linkState a h d) s =
        .next (({ y with spetar := { y.spetar with map := known } } : State).flood h d).followMap))

/-- TRELLIS_FORM records a list and answers the depth of its tree, and TRELLIS_REDUCE enters its sum (R502, R503, R510, R512,
R518). -/
def Obligations.TrellisRows : Prop :=
  ∀ s a q p ps b u v, s.memOk →
    let src : Source := .part a q
    let k := tkey a (bits (p.word 0) 7 0)
    (s.ready specTrellisForm src p = true →
      let l := residues 2 b
      let mine := List.filter (fun (y : Nat × Formed) => decide (y.1 / 256 = a.val)) s.trellis.formed
      (s.atBody specTrellisForm src p).claim src (pair p.word 2) (2 * p.word 1) false = (.ok ps, u) →
      (u.holding src (s.nextCmd src) ps).readRange (srcPartByte src) ps (pair p.word 2) (2 * p.word 1) = (.ok b, v) →
      rising l = true → (∀ f ∈ l, f < 512) → s.spetar.fid.any l.contains = true →
      (s.formed? k = none → mine.length < 16 → s.trellis.formed.length < 256 →
        ∃ t, exec (.trellisForm src p) s = .next t ∧ Completed s t src .ok [w32 (treeDepth l)] ∧ QueuesKept s t src ∧
          Only [.q, .trellis, .part, .err, .hif] s t ∧ MemoryKept s t ∧ t.trellis = { s.trellis with
            formed := Tab.insert s.trellis.formed k { list := l, crc := crc32 b }
            dissolved := s.trellis.dissolved.filter (fun x => x != k) }) ∧
      ((s.formed? k).isSome = true → s.roundsOnTrellis a.val (k % 256) = [] → s.reducesOf k = [] →
        ∃ t, exec (.trellisForm src p) s = .next t ∧ Completed s t src .ok [w32 (treeDepth l)] ∧ QueuesKept s t src ∧
          Only [.q, .trellis, .part, .err, .hif] s t ∧ MemoryKept s t ∧
          t.trellis = { s.trellis with formed := Tab.insert s.trellis.formed k { list := l, crc := crc32 b } })) ∧
    (∀ f pd w z, s.ready specTrellisReduce src p = true → s.formed? k = some f → f.sums = [] → f.marks = [] → f.early = [] → s.maySendAny = true →
      (treeChildren f.list s.ownFid ≠ [] ∨ (treeParent f.list s.ownFid).isSome = true) →
      let op := reduceOp p.word
      let n := p.word 2 * op.width
      let id := s.nextCmd src
      (s.atBody specTrellisReduce src p).claim src (pair p.word 4) n false = (.ok ps, u) →
      (u.holding src id ps).claim src (pair p.word 6) n true = (.ok pd, w) →
      (((w.holding src id pd).setFormed k { f with nextReduce := f.nextReduce + 1 }).modCmd src id (fun d =>
        { d with phase := .executing (.trellis k f.nextReduce) })).readRange (srcPartByte src) ps (pair p.word 4) n = (.ok b, z) →
      ∃ t, exec (.trellisReduce src p) s = .next t ∧ Executes s t src (.trellis k f.nextReduce) ∧ QueuesKept s t src ∧
        Only [.q, .trellis, .part, .err, .hif, .spetar, .isl, .graft] s t ∧ DropsOnly s t ∧ MemoryKept s t ∧
        ∀ x : Sum, x = { key := .reduce f.nextReduce, desc := { op := op, count := p.word 2 }, src := src, cmd := id, self := s.ownFid
                         own := (residues op.width b).map op.enter, members := f.list, pages := pd, dst := pair p.word 6, started := true } →
          t.trellis = { s.trellis with formed := Tab.insert s.trellis.formed k { f with nextReduce := f.nextReduce + 1, sums := [x] } })

/-- What the Trellis does with the messages that reach it: contributions to JOIN and BITMAP, the mask of a JOIN that closed, chunks of sums
on their way up and down, failure marks, credit, a standby's refusal, chunks that come with bad data, and messages of a Trellis that is
dissolved or formed of another list (R331, R510, R511, R513 to R515, R518, R521, R523). It rests on the model's own reading or choice in
log 57 (DEDUCED), 64 (DEDUCED), 158 (DEDUCED). -/
def Obligations.TrellisMessages : Prop :=
  ∀ (s : State) (o : RoundIn) (x : TreeId), s.memOk →
    let k := treeKey x
    (∀ rid e r n covers bits, s.agreesTree x = true → s.Finds x.part rid o.h.src e r n → r.harvestOpen = true → r.participants.contains n = true →
      let h := r.harvest
      let j : RoundMsg := .join x rid covers
      let b : RoundMsg := .bitmap x rid covers bits
      let direct := if (treeChildren r.participants (s.selfIn r)).contains n then h.direct else insertNat n h.direct
      let put (g : Harvest) (y : State) : State := y.setRound e { r with harvest := g }
      (h.left.contains n = true → (s.Hears o j → exec (.trellisChunk o j .clean) s = .next (s.afterRound o j id)) ∧
        (s.Hears o b → exec (.trellisChunk o b .clean) s = .next (s.afterRound o b id))) ∧
      (s.Hears o j → r.policy.deadline + r.deviceNs < s.now → exec (.trellisChunk o j .clean) s = .next (s.afterRound o j id)) ∧
      (h.left.contains n = false → h.stage ≠ .result → h.stage ≠ .adopt → h.stage ≠ .done →
        (s.Hears o j → s.now ≤ r.policy.deadline + r.deviceNs →
          let g : Harvest := { h with direct := direct, joined := unionNat h.joined covers }
          ((treeAbove r.participants (s.selfIn r) 4).contains n = false →
            (h.joinClosedAt.isSome = true ∨ r.allIn r.participants g.joined = false →
              (h.stage = .idle ∨ covers.all h.joined.contains = true → exec (.trellisChunk o j .clean) s = .next (s.afterRound o j (put g))) ∧
              (h.stage ≠ .idle → covers.all h.joined.contains = false →
                exec (.trellisChunk o j .clean) s = .next (s.afterRound o j (fun y => (put g y).sendUpAs e State.joinPart)))) ∧
            (h.joinClosedAt = none → r.allIn r.participants g.joined = true →
              ∃ u w, exec (.trellisChunk o j .clean) s = .next u ∧ Only [.rounds, .spetar, .isl, .graft] s u ∧
                RoundIs s u e { r with harvest := w } ∧ w = { g with joinClosedAt := some s.now, sentAt := w.sentAt, acked := w.acked })) ∧
          ((treeAbove r.participants (s.selfIn r) 4).contains n = true →
            (h.joinClosedAt.isSome = true → exec (.trellisChunk o j .clean) s = .next (s.afterRound o j id)) ∧
            (h.joinClosedAt = none →
              let w : Round := { r with harvest := { h with joined := g.joined, joinClosedAt := some s.now } }
              exec (.trellisChunk o j .clean) s = .next (s.afterRound o j (fun y => (y.setRound e w).sendDown e (.join (y.treeId w) r.id g.joined)))))) ∧
        (s.Hears o b →
          let g : Harvest := { h with direct := direct, covers := unionNat h.covers covers, bits := unionNat h.bits bits }
          (((∀ t, h.stage ≠ .bitmap t) ∨ covers.all h.covers.contains = true) →
            exec (.trellisChunk o b .clean) s = .next (s.afterRound o b (put g))) ∧
          (∀ t, h.stage = .bitmap t → covers.all h.covers.contains = false →
            exec (.trellisChunk o b .clean) s = .next (s.afterRound o b (fun y => (put g y).sendUp e))))) ∧
      (∀ f, f ≠ .clean → s.Hears o b → s.quiet r →
        ∃ u, exec (.trellisChunk o b f) s = .next u ∧ RoundAborted s u e (if f = .poison then .poisoned else .eccUncorrectable)) ∧
      (let a : RoundMsg := .proposeAnswer x rid false
       h.stage = .result → s.Hears o a → exec (.trellisAcknowledgement o a) s =
        .next (s.afterRound o a (put { h with stage := .adopt, mask := [], survivors := [], asked := none })))) ∧
    (∀ key d i vals clamps,
      let up : RoundMsg := .sumUp x key d i vals clamps
      let down : RoundMsg := .sumDown x key i vals clamps
      s.agreesTree x = true → s.otherEpoch k key = false → (∀ f st, (f = .poison ∧ st = .poisoned) ∨ (f = .uncorrectable ∧ st = .eccUncorrectable) →
        (s.Hears o up → exec (.trellisChunk o up f) s = .next (s.afterRound o up (fun y => y.markSum k key st none))) ∧
        (s.Hears o down → exec (.trellisChunk o down f) s = .next (s.afterRound o down (fun y => y.markSum k key st none))))) ∧
    (∀ r y ep m, s.agreesTree x = true → s.sealRound k (.seal y ep) = some r → r.tokenEpoch ≠ ep → s.Hears o m →
      (∀ d i vals clamps st, m = .sumUp x (.seal y ep) d i vals clamps ∨ m = .sumDown x (.seal y ep) i vals clamps ∨ m = .sumFail x (.seal y ep) st →
        exec (.trellisChunk o m .clean) s = .next (s.afterRound o m id)) ∧
      (∀ i, m = .credit x (.seal y ep) i → exec (.trellisAcknowledgement o m) s = .next (s.afterRound o m id))) ∧
    (∀ n f, s.formed? k = some f → s.agreesTree x = true →
      (s.sum? k (.reduce n) = none → f.nextReduce ≤ n →
        (∀ i, let m : RoundMsg := .credit x (.reduce n) i
          s.Hears o m → exec (.trellisAcknowledgement o m) s =
            .next (s.afterRound o m (fun y => y.setFormed k { f with early := f.early ++ [(.reduce n, i)] }))) ∧
        (∀ st, let m : RoundMsg := .sumFail x (.reduce n) st
          s.Hears o m → exec (.trellisChunk o m .clean) s =
            .next (s.afterRound o m (fun y => y.setFormed k { f with marks := f.marks ++ [(.reduce n, (Status.ofCode st).code)] })))) ∧
      (∀ z : Sum, f.sums = [z] → z.key = .reduce n → z.started = true →
        let cs := treeChildren z.members z.self
        (∀ i vals clamps, cs.contains o.h.src = true → Tab.find? (Tab.get z.children [] o.h.src) i = none →
          (z.chunks ≤ z.sentUp ∨ ∃ c ∈ cs, c ≠ o.h.src ∧ Tab.find? (Tab.get z.children [] c) z.sentUp = none) →
          let m : RoundMsg := .sumUp x (.reduce n) z.desc i vals clamps
          s.Hears o m → exec (.trellisChunk o m .clean) s = .next (s.afterRound o m (fun y => y.setFormed k { f with sums := [{ z with
            children := Tab.insert z.children o.h.src (Tab.insert (Tab.get z.children [] o.h.src) i vals)
            childClamps := Tab.insert z.childClamps i (Tab.get z.childClamps 0 i + clamps) }] }))) ∧
        (∀ i vals clamps, treeParent z.members z.self = some o.h.src → cs = [] → Tab.find? z.result i = none → z.result.length + 1 < z.chunks →
          let m : RoundMsg := .sumDown x (.reduce n) i vals clamps
          s.Hears o m → exec (.trellisChunk o m .clean) s = .next (s.afterRound o m (fun y =>
            ((y.setFormed k { f with sums := [{ z with result := Tab.insert z.result i vals, clamps := z.clamps + clamps }] }).writeRange z.pages
              (z.dst + 65536 * i) (elemBytes z.desc.op.width vals)).progressSrc z.src (if i % 16 = 15 then 1 else 0)))) ∧
        (∀ i, (z.chunks ≤ z.sentUp ∨ ∃ c ∈ cs, Tab.find? (Tab.get z.children [] c) z.sentUp = none) →
          let m : RoundMsg := .credit x (.reduce n) i
          s.Hears o m → exec (.trellisAcknowledgement o m) s =
            .next (s.afterRound o m (fun y => y.setFormed k { f with sums := [{ z with credits := z.credits + i }] }))))) ∧
    (∀ id covers, let m : RoundMsg := .join x id covers
      s.Hears o m →
      (s.trellis.dissolved.contains k = true →
        exec (.trellisChunk o m .clean) s = .next (s.afterRound o m (fun y => y.sendMsg o.h.src (.message (.dissolved x))))) ∧
      (∀ f, s.trellis.dissolved.contains k = false → s.formed? k = some f → f.crc ≠ x.crc → exec (.trellisChunk o m .clean) s =
        .next (s.afterRound o m (fun y => { y with trellis := { y.trellis with refused := satAdd32 s.trellis.refused 1 } })))) ∧
    (∀ n f i, let m : RoundMsg := .credit x (.reduce n) i
      s.Hears o m → s.trellis.dissolved.contains k = false → s.formed? k = some f → f.crc ≠ x.crc → s.sum? k (.reduce n) = none →
      f.nextReduce ≤ n → exec (.trellisAcknowledgement o m) s = .next (s.afterRound o m (fun y =>
        ({ y with trellis := { y.trellis with refused := satAdd32 s.trellis.refused 1 } } : State).setFormed k { f with
          marks := f.marks ++ [(.reduce n, Status.badParam.code)] })))

/-- Harvest, stage by stage: the deadline, JOIN, BITMAP, RESULT and their closes, the ways past lost nodes and the standby (R26, R27,
R29 to R34, R331 to R336, R413, R513, R520, R521). A participant of the fabric sends its contribution up the tree. It rests on the
model's own reading or choice in log 54 (DEDUCED), 57 (DEDUCED), 139 (DEDUCED), 158 (DEDUCED). -/
def Obligations.HarvestStages : Prop :=
  ∀ (s : State) (e : Fin 1024) (r : Round), s.memOk → s.round? e.val = some r →
    let h := r.harvest
    let d := r.policy.deadline
    let moves (u : State) (g : Harvest) : Prop := Only [.rounds, .spetar, .isl, .graft] s u ∧ RoundIs s u e.val { r with harvest := s.afterSend r g }
    (∀ t, r.alarmAt = some t → t ≤ s.now → s.running .time = true →
      (r.harvestOpen = true →
        let joined := insertNat (s.selfIn r) h.joined
        ∃ u, exec (.deadlineAlarm e) s = .next u ∧ Only [.rounds, .spetar, .isl, .graft] s u ∧ RoundIs s u e.val { r with
          alarmAt := none
          harvest := s.afterSend r { h with
            stage := .join, joined := joined
            joinClosedAt := if h.joinClosedAt.isSome || !r.allIn r.participants joined then h.joinClosedAt else some s.now } }) ∧
      (r.harvestOpen = false → exec (.deadlineAlarm e) s = .next (s.setRound e.val { r with alarmAt := none }))) ∧
    (r.harvestOpen = true →
      (h.stage = .join →
        ((h.joinClosedAt.isSome = true ∨ (∀ n ∈ r.participants, n ∈ h.joined ∨ n ∈ h.left) ∨ d + r.deviceNs < s.now) →
          exec (.harvestJoinClose e) s = .next (s.setRound e.val { r with harvest := { h with
            stage := .waitBitmap, joinClosedAt := some (h.joinClosedAt.getD s.now) } })) ∧
        (h.joinClosedAt = none → (∃ n ∈ r.participants, n ∉ h.joined ∧ n ∉ h.left) → s.now ≤ d + r.deviceNs →
          exec (.harvestJoinClose e) s = .next s ∧ exec (.harvestBitmapStart e) s = .next s)) ∧
      (s.now ≤ d + r.graceNs → exec (.harvestBitmapStart e) s = .next s) ∧
      ((h.stage = .waitBitmap ∨ (h.stage = .join ∧ r.joinOver s.now = true)) → d + r.graceNs < s.now → s.graft.waits = [] →
        s.quiet r →
        ∃ u, exec (.harvestBitmapStart e) s = .next u ∧ moves u { h with
          stage := .bitmap s.now, covers := insertNat (s.selfIn r) h.covers
          bits := unionNat h.bits (List.map (fun (y : Nat × Contribution) => y.1) r.contributions) }) ∧
      (∀ t, h.stage = .bitmap t → s.isRoot r = true → ((∀ n ∈ h.joined, n ∈ h.covers ∨ n ∈ h.left) ∨ t + r.deviceNs < s.now) →
        let mask := (interNat h.joined h.covers).filter (fun n => !h.left.contains n)
        let w := r.agree mask h.bits
        (r.policy.fabric = false → mask.contains (s.selfIn r) = true → s.quiet r →
          (w.policy.floor ≤ w.harvest.survivors.length → w.groupShort = false →
            ∃ u, exec (.harvestBitmapClose e) s = .next u ∧ Only [.rounds, .hif] s u ∧ RoundIs s u e.val { w with state := .harvested }) ∧
          (w.harvest.survivors.length < w.policy.floor ∨ w.groupShort = true →
            ∃ u, exec (.harvestBitmapClose e) s = .next u ∧ RoundAborted s u e.val .belowFloor)) ∧
        (∀ n, r.policy.fabric = true → r.shadow = false → s.standby r = some n →
          ∃ u, exec (.harvestBitmapClose e) s = .next u ∧ Only [.rounds, .spetar, .isl, .graft] s u ∧
            RoundIs s u e.val { r with harvest := { h with stage := .result, mask := mask, survivors := h.bits, asked := some n } })) ∧
      (r.policy.fabric = true →
        (∀ o x id n mask survivors,
          let m : RoundMsg := .result x id mask survivors
          s.Hears o m → s.agreesTree x = true → s.Finds x.part id o.h.src e.val r n → h.decided = false → h.stage ≠ .done → s.quiet r →
          let w := r.agree mask survivors
          (mask.contains (s.selfIn r) = true → w.policy.floor ≤ w.harvest.survivors.length → w.groupShort = false →
            ∃ u, exec (.harvestResult o m) s = .next u ∧ Only [.rounds, .hif, .spetar, .isl, .graft] s u ∧
              RoundIs s u e.val { w with state := .harvested }) ∧
          (mask.contains (s.selfIn r) = false → ∃ u, exec (.harvestResult o m) s = .next u ∧ RoundAborted s u e.val .aborted)) ∧
        ((∀ t, h.stage = .bitmap t → t + 2 * r.deviceNs ≤ s.now) →
          ((∀ t, h.stage ≠ .bitmap t) → max (d + r.graceNs) (min (h.joinClosedAt.getD (d + r.deviceNs)) (d + r.deviceNs)) + 2 * r.deviceNs ≤ s.now) →
          r.shadow = false → h.stage ≠ .result → s.quiet r →
          ∃ u, exec (.harvestAbsentTimeout e) s = .next u ∧ RoundAborted s u e.val .aborted) ∧
        (s.standby r = some (s.selfIn r) → s.isRoot r = false → r.shadow = false → h.proposed = false → h.decided = false → h.stage ≠ .done →
          r.bitmapLatest + r.deviceNs + 200000 ≤ s.now → (r.origin s.ownFid).isSome = true → s.mirroring e.val = false → s.quiet r →
          let mask := (interNat h.joined h.covers).filter (fun n => !h.left.contains n)
          let w := ({ r with harvest := { h with decided := true } } : Round).agree mask h.bits
          mask.contains (s.selfIn r) = true → w.policy.floor ≤ w.harvest.survivors.length → w.groupShort = false →
          ∃ u, exec (.standbyTakeover e) s = .next u ∧ Only [.rounds, .hif, .spetar, .isl, .graft] s u ∧
            RoundIs s u e.val { w with state := .harvested }))) ∧
    (∀ par, h.acked = false → h.sentAt + 100000 ≤ s.now → r.contributes = true → treeParent r.live (s.selfIn r) = some par →
      let up := (h.reach.filter r.live.contains).getD par
      ∃ u, exec (.escalation e) s = .next u ∧ Only [.rounds, .spetar, .isl, .graft] s u ∧ RoundIs s u e.val { r with
        harvest := { h with reach := some ((treeParent r.live up).getD up), sentAt := s.now } }) ∧
    (∀ o x id n mask survivors,
      let m : RoundMsg := .propose x id mask survivors
      s.Hears o m → s.agreesTree x = true → s.Finds x.part id o.h.src e.val r n →
      (h.decided = false → ∃ u, exec (.propose o m) s = .next u ∧ Only [.rounds, .spetar, .isl, .graft] s u ∧ RoundIs s u e.val { r with
        harvest := { h with proposed := true, bits := survivors, covers := unionNat h.covers mask } }) ∧
      (h.decided = true → ∃ u, exec (.propose o m) s = .next u ∧ Only [.spetar, .isl, .graft] s u))

/-- What reaches a participant of a round from the others outside the stages of harvest: a LEAVE, an abort, a cohort, the partners and
answers of an opening, the holder's word of a new state; and what comes of every ROUND packet that is late, twice here, out of order,
for another device or from the other side of a cold frame (R20, R21, R44, R50, R330, R372, R384, R504, R516, R520, R531, R538, R563,
R587 to R589, R627). It rests on the model's own reading or choice in log 46 (DEDUCED), 48 (DEDUCED), 59 (DEDUCED), 62 (DEDUCED), 64
(DEDUCED), 140 (DEDUCED), 158 (DEDUCED), 169 (DESIGN CHOICE). -/
def Obligations.RoundMessages : Prop :=
  (∀ (s : State) (o : RoundIn) (m : RoundMsg), s.memOk → ∀ c, RoundRow o m c →
    ((s.port o.via.port.val).state ≠ .active ∨ o.via.lseq ≠ (s.port o.via.port.val).expected → exec c s = .next s) ∧
    (s.takes o.via (.message 0 o.h m) = true →
      let y := s.atMessage o m
      (∀ f, s.spetar.fid = some f → f ≠ o.h.dst → s.running .fab = true → exec c s = .next (y.forwardMsg o.h m)) ∧
      (s.spetar.fid = some o.h.dst →
        (s.accepts = false ∨ s.expired o.h = true ∨ s.seen o.h = .stale → exec c s = .next y) ∧
        (s.accepts = true → s.expired o.h = false → ∀ st, s.seen o.h = .kept st → exec c s = .next (y.acknowledge o.h (Status.ofCode st))) ∧
        (s.Comes o m → s.sameFrame o m = false → exec c s = .next (y.responded o .notPermitted))))) ∧
  (∀ (s : State) (o : RoundIn) (e : Nat) (r : Round) (n part : Nat) (id : W32), s.memOk → s.Finds part id o.h.src e r n →
    let h := r.harvest
    let put (w : Round) (y : State) : State := y.setRound e w
    (r.policy.fabric = true → r.participants.contains n = true →
      (∀ x, let m : RoundMsg := .leave x id
        let left := insertNat n h.left
        let w : Round := { r with harvest := { h with left := left } }
        s.Hears o m → s.agreesTree x = true → x.part = part → r.state.late = false →
        ((s.upTargets r).head? ≠ some n → (h.stage ≠ .result ∨ h.asked ≠ some n) →
          (h.joinClosedAt.isSome = true ∨ w.allIn r.participants h.joined = false) →
          exec (.leave o m) s = .next (s.afterRound o m (put w))) ∧
        ((s.upTargets r).head? = some n → r.contributes = true →
          ∃ u g, exec (.leave o m) s = .next u ∧ Only [.rounds, .spetar, .isl, .graft] s u ∧ RoundIs s u e { r with harvest := g } ∧
            g = { h with
              left := left, reach := some ((treeParent r.live n).getD n), acked := false, sentAt := s.now, joinClosedAt := g.joinClosedAt })) ∧
      (∀ x st, r.state.late = true → r.state ≠ .released → s.quiet r →
        (s.Hears o (.leave x id) → s.agreesTree x = true → x.part = part →
          ∃ u, exec (.leave o (.leave x id)) s = .next u ∧ RoundAborted s u e .aborted) ∧
        (s.Hears o (.abort part id st) → ∃ u, exec (.leave o (.abort part id st)) s = .next u ∧ RoundAborted s u e .aborted))) ∧
    (∀ a l clients, let m : RoundMsg := .homeMap part id a l clients
      s.Hears o m → r.participants.contains n = true → r.state.isAborted = false → h.stage ≠ .done →
      exec (.homeMap o m) s = .next (s.afterRound o m (put { r with homes := Tab.insert r.homes n clients }))) ∧
    (∀ epoch closed, let m : RoundMsg := .stateChange part id closed epoch
      s.Hears o m →
      (epoch = r.tokenEpoch → n = r.tokenHolder →
        (r.state = .sealed → closed = false → ∃ u, exec (.roundStateChange o m) s = .next u ∧ Only [.rounds, .hif, .spetar, .isl] s u ∧
          RoundIs s u e { r with state := .released }) ∧
        (r.state.rank < 5 → exec (.roundStateChange o m) s = .next (s.afterRound o m (put { r with ahead := some closed }))) ∧
        (5 ≤ r.state.rank → r.state.isAborted = false → closed = true → s.quiet r → Tab.sorted s.rounds.table = true →
          ∃ u, exec (.roundStateChange o m) s = .next u ∧ (∀ k, u.round? k = if k = e then none else s.round? k) ∧
            Only [.rounds, .hif, .q, .plot, .trellis, .graft, .spetar, .isl, .part, .err, .freeCtr] s u)) ∧
      (epoch ≠ r.tokenEpoch ∨ n ≠ r.tokenHolder → exec (.roundStateChange o m) s = .next (s.afterRound o m (fun y => y)))) ∧
    (∀ v, let m : RoundMsg := .partner part id (some v)
      s.Hears o m → exec (.roundKeyTransfer o m) s = .next (s.afterRound o m (put { r with partners := Tab.insert r.partners n v }))) ∧
    (∀ c v, let m : RoundMsg := .codedKey part id c v
      s.Hears o m →
      (r.home c = some n → r.early = [] →
        exec (.roundKeyTransfer o m) s = .next (s.afterRound o m (put { r with codedKeys := Tab.insert r.codedKeys c v }))) ∧
      (r.home c ≠ some n → exec (.roundKeyTransfer o m) s = .next (s.afterRound o m (fun y => y)))) ∧
    (let m : RoundMsg := .openRequest part id r.policy.words r.policy.cipher.code none
     s.Hears o m → r.state.isAborted = false → r.leader = s.ownFid → r.participants.contains o.h.src = true →
      let known := List.map (fun (y : Nat × Nat × W16) => (y.1, y.2.1, y.2.2)) r.partners ++ (s.ownPartner.map (fun x => (s.ownFid, x.1, x.2))).toList
      exec (.roundKeyTransfer o m) s = .next (s.afterRound o m (fun y => y.sendMsg o.h.src (.message (.openKey part id r.priv known []))))) ∧
    (∀ pol cipher x, let m : RoundMsg := .openRequest part id pol cipher x
      s.Hears o m → r.state.isAborted = false → r.leader = s.ownFid → r.participants.contains o.h.src = true →
      r.policy.words ≠ pol ∨ r.policy.cipher.code ≠ cipher →
      exec (.roundKeyTransfer o m) s = .next (s.afterRound o m (fun y =>
        y.sendMsg o.h.src (.message (.openRefuse part id Status.badParam.code (policyWord r.policy.words pol))))))) ∧
  (∀ (s : State) (o : RoundIn) (part : Nat) (id : W32), s.memOk →
    (∀ pol cipher x, let m : RoundMsg := .openRequest part id pol cipher x
      s.Hears o m → s.roundEntry (Fin.ofNat 64 part) id.toNat = none →
      exec (.roundKeyTransfer o m) s = .next (s.afterRound o m (fun y =>
        y.sendMsg o.h.src (.message (.openRefuse part id Status.notPermitted.code 0))))) ∧
    (∀ c w l st a, let m : RoundMsg := .openRefuse part id st a
      s.Hears o m → s.followers part id = (c, w) :: l → s.endsCmd c.src c.id c →
      ∃ u, exec (.roundKeyTransfer o m) s = .next u ∧ Ended s u c.src c.id (Status.ofCode st) (rejectResults (Status.ofCode st) a)))

/-- Opening, laying out and binding a round, waiting for its harvest, ending it and placing its replicas (R14 to R24, R30, R31, R43,
R178, R239, R240, R281 to R284, R299, R330, R725). It rests on the model's own reading or choice in log 46 (DEDUCED), 52 (DESIGN
CHOICE), 149 (DEDUCED), 151 (DEDUCED), 165 (DESIGN CHOICE), 169 (DESIGN CHOICE). -/
def Obligations.RoundRows : Prop :=
  (∀ s a q p o ps u key v k z e pos y, s.memOk → s.ready specRoundOpen (.part a q) p = true → s.partition? a = some o →
    s.graft.role ≠ .secondary → bit (p.word 1) 0 = false → s.openFails a o false p.word = none →
    (s.atBody specRoundOpen (.part a q) p).claim (.part a q) (pair p.word 12) 1024 true = (.ok ps, u) →
    (u.holding (.part a q) (s.nextCmd (.part a q)) ps).attestKey a = (.ok key, v) → s.random.serving = true →
    v.draw instDevice 32 = (k, z) → s.roomForRound a = some (e, pos) →
    z.openRound a p.word o.policy.cipher k (some (ps, pair p.word 12, key)) [s.ownFid] [] = some (pos, y) →
    ∃ t r, exec (.roundOpen (.part a q) p) s = .next t ∧ Completed s t (.part a q) .ok [w32 304, w32 pos] ∧ QueuesKept s t (.part a q) ∧
      Only [.q, .rounds, .part, .err, .hif, .random, .freeCtr, .shed] s t ∧
      MemoryKeptOutside s t (segments ps (pair p.word 12) 304) ∧ RoundIs s t e r ∧ r.part = a ∧ r.id = w32 (p.word 0) ∧ r.state = .opened ∧
      r.policy = openPolicy p.word o.policy.cipher ∧ r.position = pos ∧ r.priv = k ∧ r.pub = x25519Pub k ∧ r.participants = [s.ownFid] ∧
      r.alarmAt = some (pair p.word 2) ∧ r.tokenHolder = s.ownFid ∧ r.tokenEpoch = 1) ∧
  (∀ s a q p e r, s.memOk → s.shadowEntry a (p.word 0) = none → s.roundEntry a (p.word 0) = some e → s.round? e = some r →
    let src : Source := .part a q
    let id := s.nextCmd src
    (∀ m ps u b v, s.ready specRoundLayout src p = true → r.state = .opened → r.modulus = none → modulusOf (p.word 2) (p.word 3) = some m →
      r.policy.coded = decide (p.word 2 = 4) →
      (s.atBody specRoundLayout src p).claim src (pair p.word 4) (4 * p.word 1) false = (.ok ps, u) →
      (u.holding src id ps).readRange (srcPartByte src) ps (pair p.word 4) (4 * p.word 1) = (.ok b, v) →
      let lens := residues 4 b
      (∀ l ∈ lens, 0 < l ∧ l ≤ 2 ^ 28) → (v.roundAlloc e (layoutBytes m lens)).isSome = true →
      ∃ t cs, exec (.roundLayout src p) s = .next t ∧ Completed s t src .ok [] ∧ QueuesKept s t src ∧ Only [.q, .rounds, .part, .err, .hif] s t ∧
        MemoryKept s t ∧ RoundIs s t e { r with
          modulus := some m, segs := lens.map (fun l => { len := l }), bytesUsed := r.bytesUsed + layoutBytes m lens, chunks := r.chunks ++ cs }) ∧
    (∀ ps u b v rp w ctl x, s.ready specIngestBind src p = true → r.state = .opened → r.modulus.isSome = true → s.muted r = false →
      (s.atBody specIngestBind src p).claim src (pair p.word 4) (p.word 2 / 8) false = (.ok ps, u) →
      (u.holding src id ps).readRange (srcPartByte src) ps (pair p.word 4) (p.word 2 / 8) = (.ok b, v) →
      (v.modCmd src id (fun d => { d with inputs := d.inputs ++ b })).claim src (pair p.word 6) (2 ^ p.word 8) true = (.ok rp, w) →
      (w.holding src id rp).readRange (srcPartByte src) rp (pair p.word 6) 64 = (.ok ctl, x) →
      let cohort := (setBitsFrom 0 b).map (fun n => n + p.word 1)
      cohort.length ≤ 2 ^ 20 →
      (r.policy.fabric = true → cohort.any (fun n => List.any r.homes (fun y => y.2.contains n)) = false) →
      (x.roundAlloc e (p.word 2 / 8)).isSome = true →
      let g := s.bindRing (s.ctxOf specIngestBind src p) r.part rp ctl
      ∃ t cs, exec (.ingestBind src p) s = .next t ∧ Completed s t src .ok [] ∧ QueuesKept s t src ∧
        Only [.q, .rounds, .part, .err, .hif, .spetar, .isl, .graft] s t ∧
        MemoryKeptOutside s t [(g.pages.getD 0 0 + (g.base.toNat + 4) % pageBytes, 60)] ∧ RoundIs s t e { r with
          state := .ingesting, ring := some g, cohort := cohort, homes := Tab.insert r.homes (s.selfIn r) cohort
          bytesUsed := r.bytesUsed + p.word 2 / 8, chunks := r.chunks ++ cs }) ∧
    (s.ready specHarvest src p = true →
      ∃ t, exec (.harvest src p) s = .next t ∧ UnitsKept s t ∧ QueuesKept s t src ∧
        (r.state = .opened ∨ r.state = .ingesting → Executes s t src (.harvest e)) ∧
        (∀ st, r.state = .aborted st → Completed s t src st (r.harvestResults.map w32)) ∧
        (r.state ≠ .opened → r.state ≠ .ingesting → r.state.isAborted = false → Completed s t src .ok (r.harvestResults.map w32))) ∧
    (s.ready specRoundAbort src p = true → Fin.ofNat 64 (p.word 1) = a →
      (∀ st, r.state = .aborted st → ∃ t, exec (.roundAbort src p) s = .next t ∧ Completed s t src .ok [] ∧ QueuesKept s t src ∧ UnitsKept s t) ∧
      (r.state.isAborted = false → s.muted r = false → s.quiet r →
        ∃ t, exec (.roundAbort src p) s = .next t ∧ Completed s t src .ok [] ∧ Only [.rounds, .hif, .q, .plot, .trellis, .graft, .spetar, .isl, .part, .err, .freeCtr] s t ∧
          (r.state ≠ .released → ∃ r', RoundIs s t e r' ∧ r'.state = .aborted .aborted) ∧
          (r.state = .released → Tab.sorted s.rounds.table = true → ∀ k, t.round? k = if k = e then none else s.round? k))) ∧
    (s.ready specPlacementRevise src p = true → r.state = .ingesting → p.word 1 < r.segs.length →
      let g := r.segs.getD (p.word 1) { len := 0 }
      let want := if p.word 2 = 0 then s.revised (r.modulus.getD .m16).width g else min (p.word 2) s.bedsServing
      (p.word 2 = 0 → r.policy.deadline ≤ s.now → ∃ t, exec (.placementRevise src p) s = .next t ∧ Completed s t src .ok [] ∧ QueuesKept s t src ∧
        Only [.q, .rounds] s t ∧ RoundIs s t e { r with segs := r.segs.modify (p.word 1) (fun g => { g with pinned := false }) }) ∧
      ((p.word 2 = 0 → s.now < r.policy.deadline) → ∃ t r', exec (.placementRevise src p) s = .next t ∧ Completed s t src .ok [] ∧ QueuesKept s t src ∧ Only [.q, .rounds, .part] s t ∧
        MemoryKept s t ∧ RoundIs s t e r' ∧ r'.segs.length = r.segs.length ∧ (∀ j, j ≠ p.word 1 → r'.segs[j]? = r.segs[j]?) ∧
        (want ≤ g.a → r' = { r with segs := r.segs.modify (p.word 1) (fun g => { g with
          r := max 1 (min want g.a), pinned := decide (p.word 2 ≠ 0), hits := if p.word 2 = 0 then 0 else g.hits
          swapped := some (s.time.t40, g.active s.time.t40) }) }))))

/-- Shares, combining, unmasking, coded decode and SEAL (R36 to R39, R180 to R184, R311 to R313, R337 to R339, R341 to R349, R356, R367
to R371). It rests on the model's own reading or choice in log 52 (DESIGN CHOICE), 140 (DEDUCED), 167 (DESIGN CHOICE). -/
def Obligations.RevealRows : Prop :=
  ∀ s a q p e r, s.memOk → s.shadowEntry a (p.word 0) = none → s.roundEntry a (p.word 0) = some e → s.round? e = some r → r.shadow = false →
    let src : Source := .part a q
    (∀ l v, s.ready specSharesSubmit src p = true → s.muted r = false →
      readRecords (s.ctxOf specSharesSubmit src p) r (s.atBody specSharesSubmit src p) (p.word 1) (pair p.word 2) [] = (.ok l, v) →
      (r.state = .harvested → r.barrier = none →
        ∃ t, exec (.sharesSubmit src p) s = .next t ∧ Executes s t src (.shares e l 0 0 0 0 0 none) ∧ QueuesKept s t src ∧ MemoryKept s t ∧
          Only [.q, .rounds, .part, .err, .hif, .spetar, .isl, .graft] s t ∧ RoundIs s t e { r with
            harvest := s.afterSend r r.harvest
            barrier := some { t0 := s.now, starter := s.selfIn r, joined := insertNat (s.selfIn r) (unionNat [] []) } }) ∧
      (∀ b o, r.state = .revealing → r.policy.fabric = false → l = [b] → r.recordTargets b = [s.selfIn r] → r.keyAwaited b = false →
        (v.decideRecord e b).1 = o →
        ∃ t, exec (.sharesSubmit src p) s = .next t ∧ QueuesMoved s t src ∧ MemoryKept s t ∧ Only [.q, .rounds, .part, .err, .hif, .freeCtr] s t ∧
          t.rounds = (v.decideRecord e b).2.rounds ∧
          Completed s t src (match o with | .conflict => .revealConflict | .duplicate => .duplicate | .noRoom => .range | _ => .ok)
            [if o = .accepted then 1 else 0, if o = .conflict then 1 else 0, if o = .duplicate then 1 else 0, if o = .already then 1 else 0])) ∧
    (∀ z, s.ready specRevealCombine src p = true → r.state = .revealing → r.decoding = false → s.combining e = false → s.running .agr = true →
      Tab.find? r.badData storesKey = none →
      let n := (s.atBody specRevealCombine src p).combineBytes e
      (s.atBody specRevealCombine src p).roundAlloc e n = some z →
      ∃ t, exec (.revealCombine src p) s = .next t ∧ Executes s t src (.combine e n) ∧ QueuesKept s t src ∧
        MemoryKept s t ∧ Only [.q, .rounds, .part] s t ∧ t.rounds = z.rounds) ∧
    (∀ id c n, s.endsCmd src id c → c.phase = .executing (.combine e n) →
      let u := s.returnStore e n
      (∀ z w, u.roundAlloc e (u.combineBytes e) = some z → z.round? e = some w →
        let y := z.combineAll e
        let before := (z.shortOf w).length
        let after := (y.shortOf ((y.round? e).getD w)).length
        ∃ t, exec (.commandCompletion src id) s = .next t ∧ Ended s t src id .ok [w32 (before - after), w32 after] ∧ MemoryKept s t ∧
          Only [.q, .rounds, .part, .reg, .freeCtr] s t ∧ t.rounds = y.rounds ∧ t.reg = y.reg) ∧
      (u.roundAlloc e (u.combineBytes e) = none → ∃ t, exec (.commandCompletion src id) s = .next t ∧ Ended s t src id .range [0] ∧
        Only [.q, .rounds] s t ∧ t.rounds = u.rounds)) ∧
    (s.ready specUnmask src p = true → r.state = .revealing → r.policy.coded = false → r.unmasking = false → s.shortOf r = [] →
      Tab.find? r.badData storesKey = none →
      let items := (r.clientsOf (s.selfIn r)).flatMap (clientMasks (r.modulus.getD .m16) r)
      let w : Round := { r with strips := r.strips ++ items, unmasking := true }
      ((s.setRound e w).stripsIdle e = true → ∃ t, exec (.unmask src p) s = .next t ∧ Completed s t src .ok [] ∧ QueuesKept s t src ∧
        Only [.q, .rounds, .hif] s t ∧ RoundIs s t e { w with unmasking := false, state := .unmasked }) ∧
      ((s.setRound e w).stripsIdle e = false → ∃ t, exec (.unmask src p) s = .next t ∧ Executes s t src (.unmask e) ∧ QueuesKept s t src ∧
        Only [.q, .rounds] s t ∧ RoundIs s t e w)) ∧
    (s.ready specCodedDecode src p = true → r.state = .revealing → r.policy.coded = true → r.decoding = false → s.combining e = false →
      Tab.find? r.badData storesKey = none → s.hasSlots src = true → (List.range 128).any s.plotUsable = true →
      (∀ g ∈ s.groupsHere r, r.codedDone.contains g = true ∨ r.policy.threshold ≤ (r.decodeFrom g).length) →
      let left := diffNat (s.groupsHere r) r.codedDone
      (left = [] → s.stripsIdle e = true → ∃ t, exec (.codedDecode src p) s = .next t ∧ Completed s t src .ok [] ∧ QueuesKept s t src ∧
        Only [.q, .rounds, .hif] s t ∧ RoundIs s t e { r with decoding := false, state := .unmasked }) ∧
      ((left ≠ [] ∨ s.stripsIdle e = false) → ∃ t, exec (.codedDecode src p) s = .next t ∧ Executes s t src (.coded e s.plot.nextJob) ∧
        QueuesMoved s t src ∧ Only [.q, .rounds, .plot, .freeCtr] s t ∧ RoundIs s t e { r with decoding := true } ∧
        (left = [] → t.plot = s.plot) ∧
        (left ≠ [] → ∃ j, t.job? s.plot.nextJob = some j ∧ j.kind = .coded e ∧ j.src = src ∧ j.cmd = s.nextCmd src ∧ j.groups = left))) ∧
    (s.ready specSeal src p = true → r.state = .unmasked → s.lease? 7 e = none → s.muted r = false →
      (∀ i, i < r.segs.length → Tab.find? r.badData i = none) → Tab.find? r.badData countsKey = none →
      (r.policy.fabric = false → ∃ t, exec (.seal src p) s = .next t ∧ QueuesKept s t src ∧
        Completed s t src .ok [w32 r.segs.length, w32 s.ownFid, w32 r.tokenEpoch.toNat] ∧ Only [.q, .rounds, .hif] s t ∧
        RoundIs s t e { mergeAll r with state := .sealed }) ∧
      (∀ f, r.policy.fabric = true → s.formed? (tkey r.part r.policy.trellis) = some f → f.sums = [] → f.marks = [] → f.early = [] →
        (treeChildren r.harvest.mask (s.selfIn r) ≠ [] ∨ (treeParent r.harvest.mask (s.selfIn r)).isSome = true) →
        ∃ t, exec (.seal src p) s = .next t ∧ Executes s t src (.seal e) ∧ Only [.q, .rounds, .trellis, .spetar, .isl, .graft] s t ∧
          RoundIs s t e (mergeAll r) ∧ (t.lease? 7 e).isSome = true ∧ t.formed? (tkey r.part r.policy.trellis) = some { f with
            sums := [{ s.sealSum (mergeAll r) src (s.nextCmd src) with started := true }] }))

/-- The reveal barrier and a record from another participant (R33, R34, R37, R337, R338, R342). It rests on the model's own reading or
choice in log 58 (DEDUCED), 140 (DEDUCED), 167 (DESIGN CHOICE). -/
def Obligations.RevealMessages : Prop :=
  ∀ (s : State) (e : Fin 1024) (r : Round), s.memOk → s.round? e.val = some r → s.mirroring e.val = false →
    (∀ o x id n t0 starter covers m, s.agreesTree x = true → s.Finds x.part id o.h.src e.val r n → r.state = .harvested → s.Hears o m →
      m = .barrierJoin x id t0 starter covers ∨ (m = .barrierStart x id t0 starter ∧ covers = []) →
      let old := r.barrier.getD { t0 := t0, starter := starter, joined := [] }
      let first := decide (t0 < old.t0) || (decide (t0 = old.t0) && decide (starter < old.starter))
      let below := !covers.isEmpty && n != s.selfIn r && !(treePeers r.harvest.mask (s.selfIn r)).contains n &&
        !(treeAbove r.harvest.mask (s.selfIn r) 4).contains n
      ∃ u h, exec (.revealBarrierStart o m) s = .next u ∧ Only [.rounds, .spetar, .isl, .graft] s u ∧ RoundIs s u e.val { r with
          harvest := h
          barrier := some { t0 := if first then t0 else old.t0, starter := if first then starter else old.starter
                            joined := insertNat (s.selfIn r) (unionNat old.joined covers) } } ∧
        h = { r.harvest with
          direct := if below then insertNat n r.harvest.direct else r.harvest.direct, sentAt := h.sentAt, acked := h.acked }) ∧
    (∀ b, r.barrier = some b → r.state = .harvested → (r.policy.fabric = true → r.shadow = false ∧ (r.origin s.ownFid).isSome = true) →
      ((∀ d ∈ r.harvest.mask, d ∈ b.joined ∨ d ∈ r.harvest.left) ∨ b.t0 + r.deviceNs ≤ s.now) → s.quiet r →
      let w := r.reAgree b.joined
      (w.policy.floor ≤ w.harvest.survivors.length → w.groupShort = false → r.early = [] →
        ∃ u, exec (.revealBarrierClose e) s = .next u ∧ Only [.rounds, .hif, .spetar, .isl, .graft] s u ∧
          (r.policy.coded = false ∨ r.policy.fabric = false → Only [.rounds, .hif] s u) ∧
          RoundIs s u e.val { w with barrier := none, state := .revealing }) ∧
      (w.harvest.survivors.length < w.policy.floor ∨ w.groupShort = true →
        ∃ u, exec (.revealBarrierClose e) s = .next u ∧ RoundAborted s u e.val .belowFloor)) ∧
    (∀ o part id n ref data,
      let m : RoundMsg := .record part id ref data
      s.Hears o m → s.Finds part id o.h.src e.val r n → r.participants.contains n = true →
      (r.state = .harvested ∨ (r.state.late = true ∧ r.keyAwaited data = true) →
        exec (.recordRouted o m) s = .next (s.afterRound o m (fun y => y.setRound e.val { r with early := r.early ++ [(n, ref, data)] }))) ∧
      (∀ x u, r.state.late = true → n ≠ s.selfIn r → r.keyAwaited data = false → (s.atMessage o m).decideRecord e.val data = (x, u) →
        exec (.recordRouted o m) s = .next ((u.sendRound e.val [n] (.recordOutcome r.part.val r.id ref x.code)).responded o .ok) ∧
        Only [.rounds, .part] (s.atMessage o m) u))

/-- Descriptors, staging, strip operations and placement (R26, R241 to R245, R252, R257, R258, R271, R275, R281, R282, R294, R313). It
rests on the model's own reading or choice in log 37 (DEDUCED), 53 (DEDUCED), 54 (DEDUCED), 149 (DEDUCED), 150 (DEDUCED). -/
def Obligations.Ingest : Prop :=
  (∀ (s : State) (e : Fin 1024) (r : Round) (g : Ring), s.memOk → s.running .fe = true → s.round? e.val = some r → r.ring = some g →
    let gone (g : Ring) (st : Status) (n : Nat) : Ring :=
      let g' : Ring := { g.count st with descs := [], retired := g.retired + 1, staged := Tab.erase g.staged n }
      { g' with shown := g'.counts }
    (∀ b, s.heldDescs < 32768 → nextRobin (s.ringsWith s.ringFetchable) s.rounds.lastFetch = some e.val →
      (s.readRing g (g.slotAddr g.offered) 64).1 = .ok b → r.state.isAborted = false →
      let d := parseDesc g.offered s.now b
      (fetchTest r g d b = none → ∃ t, exec (.descriptorFetch e) s = .next t ∧ Only [.rounds, .part, .err, .hif, .q] s t ∧ MemoryKept s t ∧
        t.rounds.lastFetch = e.val ∧ RoundIs s t e.val { r with ring := some { g with offered := g.offered + 1, descs := g.descs ++ [d] } }) ∧
      (∀ st n, fetchTest r g d b = some (st, n) → g.descs = [] → g.retired = g.offered → g.doneEn = false →
        ∃ t, exec (.descriptorFetch e) s = .next t ∧ Only [.rounds, .part, .err, .hif, .q, .freeCtr] s t ∧ t.rounds.lastFetch = e.val ∧
          RoundIs s t e.val { r with ring := some (gone { g with offered := g.offered + 1 } st g.offered) })) ∧
    (∀ d, s.nextGrant g = some d → g.descs = [d] → g.retired = d.n → g.doneEn = false → d.bodyBytes = 0 → r.state.isAborted = false →
      nextRobin (s.ringsWith s.ringGrantable) s.rounds.lastGrant = some e.val → s.now ≤ r.policy.deadline + 1000 * r.policy.harvestGraceUs →
      Tab.find? r.contributions d.client = none →
      ∃ t, exec (.stagingGrant e) s = .next t ∧ Only [.rounds, .part, .err, .hif, .q, .freeCtr] s t ∧ t.rounds.lastGrant = e.val ∧
        RoundIs s t e.val { r with ring := some (gone g .badParam d.n) }) ∧
    (∀ d, nextRobin (s.ringsWith s.ringGrantable) s.rounds.lastGrant = some e.val →
      s.nextGrant g = some d → s.now ≤ r.policy.deadline + 1000 * r.policy.harvestGraceUs →
      Tab.find? r.contributions d.client = none → d.bodyBytes ≠ 0 →
      ∃ t next, exec (.stagingGrant e) s = .next t ∧ Only [.rounds, .hif, .q, .freeCtr] s t ∧ t.rounds.lastGrant = e.val ∧
        t.rounds.stagingUsed = s.rounds.stagingUsed + stagingOf d.bodyBytes ∧ RoundIs s t e.val { r with ring := some { g with
          descs := g.descs.map (fun x => if x.n = d.n then { x with state := .staging [] next } else x)
          staged := Tab.insert g.staged d.n (stagingOf d.bodyBytes) } }) ∧
    (s.now ≤ r.policy.deadline + 1000 * r.policy.harvestGraceUs → exec (.harvestGraceExpiry e) s = .next s) ∧
    (r.policy.deadline + 1000 * r.policy.harvestGraceUs < s.now → r.state.isAborted = false →
      (g.undecided = [] → exec (.harvestGraceExpiry e) s = .next s) ∧
      (∀ n, g.undecided = [n] → s.bundleSent e.val n = true → exec (.harvestGraceExpiry e) s = .next s) ∧
      (∀ d, g.descs = [d] → g.undecided = [d.n] → s.bundleSent e.val d.n = false → g.retired = d.n → g.doneEn = false →
        ∃ t, exec (.harvestGraceExpiry e) s = .next t ∧ Only [.rounds, .part, .err, .hif, .q, .freeCtr] s t ∧
          RoundIs s t e.val { r with ring := some (gone g .late d.n) }))) ∧
  (∀ (s : State) (k : Fin 32), s.memOk →
    (∀ e r x m, s.bedServes k.val = true → (s.bed k.val).op = none → s.nextStrip k.val = some (e, r, x) → Tab.find? r.badData x.seg = none →
      s.round? e = some r → r.modulus = some m →
      let u := s.loadStrip k.val e r x
      let want (y : StripItem) : Bool := y.seg == x.seg && y.rep == x.rep && y.strip == x.strip && u.itemReady e r y
      let mine := (takeItems want 256 r.strips).1
      let rest := (takeItems want 256 r.strips).2
      let strip := (r.segs.getD x.seg { len := 0 }).stripOf m x.rep x.strip
      (∀ y ∈ mine, r.badStaged y = false) →
      ∃ t, exec (.stripOperation k .clean) s = .next t ∧ Only [.q, .rounds, .part] s t ∧ MemoryKept s t ∧
        RoundIs s t e { r with strips := rest } ∧ (t.lease? 3 k.val).isSome = true ∧
        ∀ o : StripOp, o = { entry := e, seg := x.seg, rep := x.rep, strip := x.strip, loadedAt := s.now, applied := mine.length
                             sram := mine.foldl (applyItem r m) strip, tag := s.sourceTag .fe
                             bundles := mine.filterMap StripItem.bundle, masks := (mine.filter StripItem.isMask).length } →
          t.bed k.val = { s.bed k.val with
            op := some o, running := {}
            loading := ((rest.find? (fun y => want y && y.isMask)).map (fun y => maskCtx r m y strip.length)).getD {} }) ∧
    (∀ o r, s.bedServes k.val = true → (s.bed k.val).op = some o → s.round? o.entry = some r → s.quiet r → r.state.isAborted = false →
      r.state ≠ .released → r.modulus.isSome = true → s.stripDone k.val = false →
      (∃ y ∈ (takeItems (s.wants o r) (256 - o.applied) r.strips).1, r.badStaged y = true) →
      ∃ t, exec (.stripOperation k .clean) s = .next t ∧ RoundAborted s t o.entry .eccUncorrectable) ∧
    (∀ o r found, s.bedServes k.val = true → (s.bed k.val).op = some o → s.round? o.entry = some r → s.quiet r → r.state.isAborted = false →
      r.state ≠ .released → Tab.sorted s.rounds.beds = true → found = .sramUncorrectable ∨ found = .sowerParity →
      ∃ t, exec (.stripOperation k found) s = .next t ∧ RoundAborted s t o.entry .eccUncorrectable ∧ (t.bed k.val).op = none ∧
        (t.bed k.val).uncorrectable = (s.bed k.val).uncorrectable + 1) ∧
    (∀ o r i, (s.bed k.val).op = some o → s.round? o.entry = some r → s.q.cmds = [] →
      (i = .stripResidencyLimit k ∧ (256 ≤ o.applied ∨ o.loadedAt + 100000 ≤ s.now)) ∨
        (i = .stripOperation k .clean ∧ s.bedServes k.val = true ∧ ∀ y ∈ r.strips, s.wants o r y = false) →
      ∃ t r', exec i s = .next t ∧ Only [.q, .rounds, .part, .hif, .freeCtr] s t ∧ MemoryKept s t ∧
        t.rounds.beds = Tab.set s.rounds.beds {} k.val { s.bed k.val with op := none, running := {}, loading := {} } ∧ RoundIs s t o.entry r' ∧
        r'.segs = r.segs.modify o.seg (fun g => g.setStrip o.rep o.strip o.sram))) ∧
  (∀ s : State, s.memOk → s.boundaryNow = none → exec .placementRevision s = .next s) ∧
  (∀ (s : State) b, s.memOk → s.running .fe = true → s.rounds.autoRevise = true → s.boundaryNow = some b →
    ∃ t, exec .placementRevision s = .next t ∧ Only [.rounds, .part] s t ∧ MemoryKept s t ∧ t.rounds.revisedAt = b ∧
      ∀ e r, s.round? e = some r → r.state = .ingesting → s.now < r.policy.deadline → ∃ r', t.round? e = some r' ∧ r'.segs.length = r.segs.length ∧
        ∀ (n : Nat) (g : Segment), r.segs[n]? = some g → (g.pinned = true → r'.segs[n]? = some g) ∧
          (g.pinned = false → ∃ h, r'.segs[n]? = some h ∧ h.hits = 0 ∧ h.len = g.len ∧ h.contributors = g.contributors ∧ g.a ≤ h.a ∧ 1 ≤ h.r))

/-- The Release gate and the sampler that serves it: slots, checks, marks, the holder's word, export strip by strip (R372 to R382,
R385, R388, R389, R764, Table 11.2). It rests on the model's own reading or choice in log 15 (DESIGN CHOICE), 61 (DEDUCED), 64
(DEDUCED). -/
def Obligations.ReleaseGate : Prop :=
  (∀ s a q p e r, s.memOk → s.ready specRelease (.part a q) p = true → s.shadowEntry a (p.word 0) = none → s.roundEntry a (p.word 0) = some e →
    s.round? e = some r → r.state = .sealed ∨ r.state = .released → p.word 1 < r.segs.length → s.muted r = false →
    let src : Source := .part a q
    let g0 := gateOf src (s.nextCmd src) e p.word
    (s.freeGate = none ∨ s.rounds.gateQueue ≠ [] →
      ∃ t, exec (.release src p) s = .next t ∧ Executes s t src (.releaseWait e) ∧ QueuesKept s t src ∧
        t = { s with q := t.q, rounds := { s.rounds with gateQueue := s.rounds.gateQueue ++ [(src, s.nextCmd src)] } }) ∧
    (∀ k, s.freeGate = some k → s.rounds.gateQueue = [] →
      let y := ((s.atBody specRelease src p).setGate k g0).modCmd src (s.nextCmd src) (fun c => { c with phase := .executing (.releaseSlot k) })
      (s.segProbed k g0 = true →
        ∃ t, exec (.release src p) s = .next t ∧ Executes s t src (.releaseSlot k) ∧ QueuesKept s t src ∧
          t = { s with q := t.q, rounds := { s.rounds with gate := Tab.insert s.rounds.gate k g0, gateHeld := s.rounds.gateHeld ++ [k] } }) ∧
      (∀ st n z, s.segProbed k g0 = false → k ∉ s.rounds.gateHeld → Tab.find? r.badData countsKey = none →
        y.releaseChecks g0 = (.error (st, n), z) →
        ∃ t, exec (.release src p) s = .next t ∧ Completed s t src st (rejectResults st n) ∧ QueuesKept s t src ∧
          Only [.q, .part, .err, .hif, .shed] s t ∧ MemoryKept s t) ∧
      (∀ g z, s.segProbed k g0 = false → y.releaseChecks g0 = (.ok g, z) → g.dest ≠ 2 →
        let peers := if r.policy.fabric then s.peersOf r else []
        ∃ t, exec (.release src p) s = .next t ∧ Executes s t src (.releaseSlot k) ∧ QueuesKept s t src ∧
          Only [.q, .rounds, .part, .err, .hif, .shed, .spetar, .isl, .graft] s t ∧ MemoryKept s t ∧
          RoundIs s t e { r with segs := r.segs.modify g.seg (fun x => { x with marked := true }) } ∧
          t.gate? k = some { g with probing := false, marking := unionNat peers [], exporting := (unionNat peers []).isEmpty || g.exporting }) ∧
      (∀ g z, s.segProbed k g0 = false → y.releaseChecks g0 = (.ok g, z) → g.dest = 2 → s.spetar.fid ≠ some g.target → s.canSend g.target = true →
        ∃ t, exec (.release src p) s = .next t ∧ Executes s t src (.releaseSlot k) ∧ QueuesKept s t src ∧
          Only [.q, .rounds, .part, .err, .hif, .shed, .spetar, .isl] s t ∧ MemoryKept s t ∧ t.gate? k = some { g with probing := true }))) ∧
  (∀ (s : State) (slot : Fin 8) (src : Source) (id e : Nat) (l : List (Source × Nat)) (c : Cmd), s.memOk → s.gate? slot.val = none →
    s.rounds.gateQueue = (src, id) :: l → s.endsCmd src id c → c.phase = .executing (.releaseWait e) →
    let u : State := { s with rounds := { s.rounds with gateQueue := l } }
    let g0 := gateOf src id e (fun n => c.words.getD n 0)
    let y := (u.setGate slot.val g0).modCmd src id (fun c => { c with phase := .executing (.releaseSlot slot.val) })
    (∀ st n z, s.segProbed slot.val g0 = false → slot.val ∉ s.rounds.gateHeld →
      (∀ r, s.round? e = some r → Tab.find? r.badData countsKey = none) → y.releaseChecks g0 = (.error (st, n), z) →
      ∃ t, exec (.releaseSlotGrant slot) s = .next t ∧ Ended s t src id st (rejectResults st n) ∧ t.rounds = u.rounds) ∧
    (∀ g z r, s.segProbed slot.val g0 = false → y.releaseChecks g0 = (.ok g, z) → g.dest ≠ 2 → s.round? e = some r → s.muted r = false →
      s.graft.state ≠ .mirroring →
      let peers := if r.policy.fabric then s.peersOf r else []
      ∃ t, exec (.releaseSlotGrant slot) s = .next t ∧ Only [.q, .rounds, .part, .err, .hif, .shed, .spetar, .isl, .graft] s t ∧ MemoryKept s t ∧
        t.rounds.gateQueue = l ∧ RoundIs s t e { r with segs := r.segs.modify g.seg (fun x => { x with marked := true }) } ∧
        t.q.cmds = s.q.cmds.map (fun d => if d.src == src && d.id == id then { d with phase := .executing (.releaseSlot slot.val) } else d) ∧
        t.gate? slot.val = some { g with probing := false, marking := unionNat peers [], exporting := (unionNat peers []).isEmpty || g.exporting })) ∧
  (∀ (s : State) (o : RoundIn) (e n part seg : Nat) (id : W32) (r : Round) (epoch : W16), s.memOk → s.Finds part id o.h.src e r n →
    let m : RoundMsg := .mark part id seg epoch
    s.Hears o m →
    (epoch = r.tokenEpoch → r.participants.contains n = true → exec (.mark o m) s = .next (s.afterRound o m (fun y =>
      (y.setRound e { r with segs := r.segs.modify seg (fun x => { x with marked := true }) }).sendRound e [n] (.markAck r.part.val r.id seg epoch)))) ∧
    (epoch ≠ r.tokenEpoch ∨ r.participants.contains n = false → exec (.mark o m) s = .next (s.afterRound o m (fun y => y)))) ∧
  (∀ (s : State) (o : RoundIn) (k e n part seg : Nat) (id : W32) (g : GateSlot) (r : Round) (epoch : W16), s.memOk →
    s.msgRound part id = some e → s.round? e = some r → s.gate? k = some g → s.markingSlot e seg = some k →
    let m : RoundMsg := .markAck part id seg epoch
    s.Hears o m →
    (epoch = r.tokenEpoch → r.origin o.h.src = some n → g.exporting = false → g.probing = false →
      let left := g.marking.filter (fun x => x != n)
      ∃ t, exec (.markAck o m) s = .next t ∧ Only [.rounds, .spetar, .isl] s t ∧ t.rounds.table = s.rounds.table ∧
        t.gate? k = some { g with marking := left, exporting := left.isEmpty }) ∧
    (epoch ≠ r.tokenEpoch → exec (.markAck o m) s = .next (s.afterRound o m (fun y => y)))) ∧
  (∀ (s : State) (slot : Fin 8) (g : GateSlot) (r : Round), s.memOk → s.gate? slot.val = some g → s.round? g.entry = some r →
    (let ready := (List.range 8).filter s.stripReady
     let m := r.modulus.getD .m16
     let k := min (gateStrip m) ((r.segs.getD g.seg { len := 0 }).len - g.pos)
     let vals := window ((r.segs.getD g.seg { len := 0 }).elements m 0) g.pos k
     let outs := (if r.policy.sigmaNum = 0 then vals else List.zipWith (fun v z => bedAdd m v (noiseResidue m z)) vals g.samples).map (exportElement m g.scale)
     let bytes := outs.flatMap (fun y => y.1)
     (ready.filter (fun k => decide (s.rounds.lastGate < k))).head?.or ready.head? = some slot.val → s.graft.role ≠ .held → s.running .fe = true →
     Tab.find? r.badData g.seg = none → (r.policy.sigmaNum = 0 ∨ k ≤ g.samples.length) → g.dest = 1 →
     g.pos + k < (r.segs.getD g.seg { len := 0 }).len →
     ∃ t, exec (.gateStrip slot) s = .next t ∧ Only [.rounds, .part, .q, .err, .hif, .freeCtr] s t ∧ t.rounds.lastGate = slot.val ∧
       MemoryKeptOutside s t (segments g.dstPages (g.addr + g.exported.length) bytes.length) ∧ t.gate? slot.val = some { g with
         pos := g.pos + k, samples := g.samples.drop k, exported := g.exported ++ bytes
         saturated := g.saturated + (outs.filter (fun y => y.2)).length })) ∧
  (∀ s : State, s.memOk → s.random.serving = true →
    (s.samplerUsers = [] → exec .samplerBatch s = .next { s with random := { s.random with served := [] } }) ∧
    (∀ k g r, s.samplerUsers = [.gate k] → s.gate? k = some g → s.round? g.entry = some r →
      ∃ t zs, exec .samplerBatch s = .next t ∧ Only [.rounds, .random, .freeCtr] s t ∧ t.rounds.table = s.rounds.table ∧
        t.random.served = (if s.random.served.contains (.gate k) then [.gate k] else s.random.served ++ [.gate k]) ∧
        (zs : List Int).length = min 4096 ((r.segs.getD g.seg { len := 0 }).len - g.pos - g.samples.length) ∧
        t.gate? k = some { g with samples := g.samples ++ zs }) ∧
    (∀ src id c ps dst total done, s.samplerUsers = [.fill src id] → s.cmd? src id = some c → c.phase = .executing (.noise ps dst total done) →
      let n := min 4096 (total - done)
      done + n < total →
      ∃ t, exec .samplerBatch s = .next t ∧ Only [.q, .part, .err, .hif, .random, .freeCtr] s t ∧
        MemoryKeptOutside s t (segments ps (dst + 8 * done) (8 * n)) ∧ t.q.cmds = s.q.cmds.map (fun d =>
          if d.src == src && d.id == id then { d with phase := .executing (.noise ps dst total (done + n)) } else d)))

/-- Matrix, reduction and element-wise commands become jobs of tiles; a Plot claims a tile, completes it, and gives its allocation up
(R453, R456, R459, R466, R475 to R482, R486, R494, R662). It rests on the model's own reading or choice in log 78 (DEDUCED), 80
(DEDUCED), 157 (DEDUCED). -/
def Obligations.PlotsAndTiles : Prop :=
  (∀ s a q p ps u pd v, s.memOk → s.hasSlots (.part a q) = true → (∀ k < 128, s.plotUsable k = false) → s.plot.jobs = [] → s.plot.tiles = [] →
    (∀ d, s.lease? 0 d = none) →
    let src : Source := .part a q
    s.ready specReduceIdx src p = true →
    (s.atBody specReduceIdx src p).claim src (pair p.word 4) (reduceBytes p.word) false = (.ok ps, u) →
    (u.holding src (s.nextCmd src) ps).claim src (pair p.word 6) (8 * p.word 1) true = (.ok pd, v) →
    ∃ t, exec (.reduceIdx src p) s = .next t ∧ Completed s t src .eccUncorrectable [] ∧ QueuesMoved s t src ∧
      Only [.q, .plot, .part, .err, .hif, .freeCtr] s t ∧ MemoryKept s t ∧ t.plot.jobs = []) ∧
  (∀ s a q p, s.memOk → s.hasSlots (.part a q) = true → (List.range 128).any s.plotUsable = true →
    let src : Source := .part a q
    let id := s.nextCmd src
    let started (row : Source → Packet → Instr) (kind : JobKind) (words limit : Nat) : Prop :=
      ∃ t j, exec (row src p) s = .next t ∧ Executes s t src (.job s.plot.nextJob) ∧ QueuesMoved s t src ∧
        Only [.q, .plot, .part, .err, .hif, .freeCtr] s t ∧ MemoryKept s t ∧ t.job? s.plot.nextJob = some j ∧ j.kind = kind ∧ j.src = src ∧ j.cmd = id ∧
        j.part = a ∧ j.params = (List.range words).map (fun n => w32 (p.word n)) ∧ j.limit = limit ∧ j.serial = s.q.serial src ∧
        j.realtime = (s.queue src).realtime ∧ j.failed = none
    (∀ ps u pd v, s.ready specReduceIdx src p = true →
      (s.atBody specReduceIdx src p).claim src (pair p.word 4) (reduceBytes p.word) false = (.ok ps, u) →
      (u.holding src id ps).claim src (pair p.word 6) (8 * p.word 1) true = (.ok pd, v) → started .reduceIdx .reduceIdx 8 0) ∧
    (∀ ps u pb v pd w, s.ready specEltwise src p = true →
      (s.atBody specEltwise src p).claim src (pair p.word 2) (eltBytes p.word) false = (.ok ps, u) →
      (if usesB p.word then (u.holding src id ps).claim src (pair p.word 4) (eltBytes p.word) false = (.ok pb, v)
        else (pb = [] ∧ v = u.holding src id ps)) →
      (if usesB p.word then v.holding src id pb else v).claim src (pair p.word 6) (eltBytes p.word) true = (.ok pd, w) →
      started .eltwise .eltwise 9 0) ∧
    (∀ pa u po w, s.ready specMatmul src p = true → s.matModel (s.ctxOf specMatmul src p) = none →
      (s.atBody specMatmul src p).claim src (pair p.word 6) (matBytes p.word).1 false = (.ok pa, u) →
      (∀ pb v, p.word 1 = 0xFFFFFFFF → usesD p.word = false →
        (u.holding src id pa).claim src (pair p.word 8) (matBytes p.word).2.1 false = (.ok pb, v) →
        (v.holding src id pb).claim src (pair p.word 10) (matBytes p.word).2.2.1 true = (.ok po, w) →
        started .matmul .matmul 18 (bits (p.word 17) 7 0)) ∧
      (∀ pb v pd x, p.word 1 = 0xFFFFFFFF → usesD p.word = true →
        (u.holding src id pa).claim src (pair p.word 8) (matBytes p.word).2.1 false = (.ok pb, v) →
        (v.holding src id pb).claim src (pair p.word 10) (matBytes p.word).2.2.1 true = (.ok po, w) →
        (w.holding src id po).claim src (pair p.word 12) (matBytes p.word).2.2.2 false = (.ok pd, x) →
        started .matmul .matmul 18 (bits (p.word 17) 7 0)) ∧
      (p.word 1 ≠ 0xFFFFFFFF → (u.holding src id pa).claim src (pair p.word 10) (matBytes p.word).2.2.1 true = (.ok po, w) →
        (usesD p.word = false → started .matmul .matmul 18 (bits (p.word 17) 7 0)) ∧
        (∀ pd x, usesD p.word = true → (w.holding src id po).claim src (pair p.word 12) (matBytes p.word).2.2.2 false = (.ok pd, x) →
          started .matmul .matmul 18 (bits (p.word 17) 7 0))))) ∧
  (∀ (s : State) (k : Fin 128), s.memOk →
    let x := s.plotOf k.val
    (∀ stalls p d t j, s.plotFree k.val = true → s.plotServes k.val = some p → s.chooseTile p x.shadow = some (d, t, j) →
      (∀ e, j.kind ≠ .coded e) →
      let isl := plotIsland k.val
      ∃ u, exec (.tileClaim k .clean stalls) s = .next u ∧ Only [.q, .plot, .part, .err, .hif, .freeCtr] s u ∧ MemoryKept s u ∧
        (u.plotOf k.val).claimed = some d ∧ (u.plotOf k.val).alloc = some j.part ∧ (u.plotOf k.val).round = none ∧ (u.plotOf k.val).shadow = none ∧
        Tab.find? u.plot.tiles d = some { t with state := .claimed, claimer := some k, claimEpoch := (s.island isl).epoch } ∧
        u.lease? 0 d = some (islandLease s j.part isl) ∧ u.lease? 1 k.val = some (islandLease s j.part isl)) ∧
    (s.plotFree k.val = false → ∀ f n, exec (.tileClaim k f n) s = .next s) ∧
    (∀ d t j, x.claimed = some d → s.running (plotIsland k.val) = true → s.running .fe = true → Tab.find? s.plot.tiles d = some t →
      s.job? t.job = some j → (∀ e, j.kind ≠ .coded e) → (∃ y ∈ s.tilesOf t.job, y.1 ≠ d) → Tab.sorted s.plot.plots = true →
      ∃ u, exec (.tileComplete k true) s = .next u ∧ Only [.q, .plot, .part, .err, .hif, .freeCtr] s u ∧ (u.plotOf k.val).claimed = none ∧
        (u.plotOf k.val).alloc = x.alloc ∧ (u.plotOf k.val).shadow = (if x.bad.isNone then s.tagOf j t else none) ∧ (u.job? t.job).isSome = true ∧
        u.lease? 0 d = Tab.find? (Tab.erase s.q.leases (leaseKey 0 d)) (leaseKey 0 d) ∧ (x.bad.isSome = true → MemoryKept s u) ∧
        (j.kind = .reduceIdx → MemoryKeptOutside s u (segments (s.jobPages j) (pair j.word 6 + 8 * t.row0) (4 * x.acc.length))) ∧
        (∀ f, j.kind = .eltwise → f = fmtOf (bits (j.word 0) 7 4) → MemoryKeptOutside s u
          (segments (s.jobPages j) (pair j.word 6 + t.row0 * f.bits / 8) (f.pack (x.acc.map Int.toNat)).length)) ∧
        (∀ m, j.kind = .matmul → m = s.specOf j → 0 < t.cols → x.acc.length ≤ t.rows * t.cols → MemoryKeptOutside s u
          ((List.range t.rows).flatMap (fun i => segments (s.jobPages j)
            (pair j.word 10 + m.out.bytes * (j.word 5 * t.row0 + t.col0) + m.out.bytes * j.word 5 * i) (m.out.bytes * t.cols))))) ∧
    (∀ d t j, x.claimed = some d → s.running (plotIsland k.val) = true → s.running .fe = true → Tab.find? s.plot.tiles d = some t →
      s.job? t.job = some j →
      (t.state = .claimed → exec (.tileComplete k false) s = .next (s.setTile d { t with state := .draining, status := x.flags })) ∧
      (t.state ≠ .claimed → exec (.tileComplete k false) s = .next s)) ∧
    (∀ p, x.alloc = some p → x.claimed = none → s.canClaim p = false → Tab.get s.plot.lastClaimable 0 p.val + 1000000 ≤ s.now →
      exec (.idlePlotRelease k) s = .next ((s.setPlot k.val { x.scrubbed with alloc := none, round := none, idleSince := s.now }).dropLease 1 k.val)) ∧
    (x.claimed.isSome = true → exec (.idlePlotRelease k) s = .next s))

/-- EXPAND, resident models, placement tables and routing (R318 to R320, R459, R484 to R493, R496). It rests on the model's own
reading or choice in log 82 (DEDUCED), 83 (DEDUCED), 84 (DEDUCED), 141 (DESIGN CHOICE). -/
def Obligations.ExpandAndExperts : Prop :=
  ∀ s a q p, s.memOk →
    let src : Source := .part a q
    let id := s.nextCmd src
    (∀ k ps u pd v key w, s.ready specExpand src p = true → s.isCold a = false → s.expandSower a = some k → s.lease? 2 k = none →
      let m := expandModulus p.word
      let cipher : Cipher := if bit (p.word 0) 0 then .aes256ctr else .chacha20
      let vals := maskResidues cipher m key (maskNonce (p.word 2) (bits (p.word 3) 15 0) (bits (p.word 3) 23 16)) (p.word 4) (p.word 5)
      let d := vals.flatMap (leBytes m.width)
      (s.atBody specExpand src p).claim src (pair p.word 6) 32 false = (.ok ps, u) →
      (u.holding src id ps).claim src (pair p.word 8) (p.word 5 * m.width) true = (.ok pd, v) →
      (v.holding src id pd).readRange (srcPartByte src) ps (pair p.word 6) 32 = (.ok key, w) →
      ∃ t, exec (.expand src p) s = .next t ∧ Completed s t src .ok [] ∧ QueuesMoved s t src ∧ Only [.q, .part, .err, .hif, .freeCtr] s t ∧
        t.part.mem = (w.writeRange pd (pair p.word 8) d).part.mem ∧ MemoryKeptOutside s t (segments pd (pair p.word 8) d.length)) ∧
    (∀ k l, s.ready specExpand src p = true → s.isCold a = false → s.expandSower a = some k → s.lease? 2 k = some l →
      ∃ t, exec (.expand src p) s = .next t ∧ Executes s t src (.held (.sow (Fin.ofNat 32 k))) ∧ QueuesKept s t src ∧ UnitsKept s t) ∧
    (∀ o ps u h v b w y, s.ready specModelLoad src p = true → s.modelPartition src (p.word 0) = some o → s.modelBusy (p.word 0) = false → 64 ≤ p.word 4 →
      let f := fmtOf (bits (p.word 1) 3 0)
      (s.atBody specModelLoad src p).claim src (pair p.word 2) (p.word 4) false = (.ok ps, u) →
      (u.holding src id ps).readRange (srcPartByte src) ps (pair p.word 2) 64 = (.ok h, v) → modelHeader f h (p.word 4) = none →
      v.readRange (srcPartByte src) ps (pair p.word 2 + 64) (p.word 4 - 64) = (.ok b, w) →
      w.storeModel o (p.word 0) f (leNat (slice h 4 4)) (leNat (slice h 8 4)) b = some y →
      ∃ t m, exec (.modelLoad src p) s = .next t ∧ Completed s t src .ok [] ∧ QueuesMoved s t src ∧
        Only [.q, .part, .err, .hif, .plot, .attest, .freeCtr] s t ∧ t.part.mem = y.part.mem ∧ Tab.find? t.plot.models (p.word 0) = some m ∧
        m.k = leNat (slice h 4 4) ∧ m.n = leNat (slice h 8 4) ∧ m.format = f ∧ m.owner = o ∧
        Tab.find? t.plot.modelGen (p.word 0) = some (Tab.get s.plot.modelGen 0 (p.word 0) + 1)) ∧
    (s.ready specPlacementSet src p = true → (Tab.find? s.plot.layers (layerKey a (p.word 0))).any (fun l => s.bankInUse a (p.word 0) (!l.active)) = true →
      ∃ t, exec (.placementSet src p) s = .next t ∧ Completed s t src .notPermitted [] ∧ QueuesKept s t src ∧ UnitsKept s t) ∧
    (∀ ps u b v y, s.ready specPlacementSet src p = true →
      (Tab.find? s.plot.layers (layerKey a (p.word 0))).any (fun l => s.bankInUse a (p.word 0) (!l.active)) = false →
      (s.atBody specPlacementSet src p).claim src (pair p.word 2) (64 * p.word 1) false = (.ok ps, u) →
      (u.holding src id ps).readRange (srcPartByte src) ps (pair p.word 2) (64 * p.word 1) = (.ok b, v) →
      s.tableFault a (pieces 64 b) = none → v.setPlacement a (p.word 0) b = some y →
      ∃ t l, exec (.placementSet src p) s = .next t ∧ Completed s t src .ok [] ∧ QueuesKept s t src ∧ Only [.q, .part, .err, .hif, .plot] s t ∧
        t.part.mem = y.part.mem ∧ Tab.find? t.plot.layers (layerKey a (p.word 0)) = some l ∧ l.count = b.length / 64 ∧
        l.active = !((Tab.find? s.plot.layers (layerKey a (p.word 0))).map (fun l => l.active)).getD false ∧
        MemoryKeptOutside s t [(y.bankAddr a l l.active, b.length)]) ∧
    (∀ l ps u po v pl w, s.ready specRouteTopk src p = true → Tab.find? s.plot.layers (layerKey a (p.word 3)) = some l → l.count = p.word 1 →
      (s.atBody specRouteTopk src p).claim src (pair p.word 4) (scoreBytes p.word) false = (.ok ps, u) →
      (u.holding src id ps).claim src (pair p.word 6) (routeBytes p.word) true = (.ok po, v) →
      (v.holding src id po).claim src (pair p.word 8) (routeBytes p.word) true = (.ok pl, w) →
      ∃ t, exec (.routeTopk src p) s = .next t ∧ Executes s t src (.route (p.word 3) l.active) ∧ QueuesKept s t src ∧
        Only [.q, .part, .err, .hif] s t ∧ MemoryKept s t) ∧
    (∀ c cid n bank l reps x b z, s.endsCmd src cid c → c.phase = .executing (.route n bank) → Tab.find? s.plot.layers (layerKey a (c.w 3)) = some l →
      let f := fmtOf (bits (c.w 0) 7 4)
      s.readReplicas a l bank = (.ok reps, x) → x.readRange (srcPartByte src) c.pages (pair c.w 4) (scoreBytes c.w) = (.ok b, z) →
      let cs := routeTokens f (bits (c.w 0) 3 0) reps (c.w 10) 0 ((pieces (f.rowBytes (c.w 1)) b).map (fun r => f.elements r (c.w 1))) []
      let spills := cs.filter (fun c => c.spilled)
      let out := cs.flatMap Choice.record
      let excess := spills.flatMap Choice.spill
      ∃ t, exec (.commandCompletion src cid) s = .next t ∧ Ended s t src cid .ok [w32 spills.length] ∧ Only [.q, .part, .err, .hif] s t ∧
        t.part.mem = ((z.writeRange c.pages (pair c.w 6) out).writeRange c.pages (pair c.w 8) excess).part.mem ∧
        MemoryKeptOutside s t (segments c.pages (pair c.w 6) out.length ++ segments c.pages (pair c.w 8) excess.length))

/-- The Digest and AEAD engines: commands that wait for their contexts, the grant of one, and its turns (R699, R701, R702, R727 to
R730, R734 to R737, R739, R741). It rests on the model's own reading or choice in log 87 (DEDUCED), 88 (DEDUCED). -/
def Obligations.EngineContexts : Prop :=
  (∀ s a q p key u, s.memOk → s.running .dig = true →
    let src : Source := .part a q
    let id := s.nextCmd src
    let waits (row : Source → Packet → Instr) (aead : Bool) (w : Option Nat → Work) : Prop :=
      ∃ t c, exec (row src p) s = .next t ∧ Executes s t src (w c) ∧ Only [.q, .part, .err, .hif, .shed, .attest] s t ∧ MemoryKept s t ∧
        (s.heldBy aead src < 4 → s.waiters aead = [] → c = s.freeContext aead) ∧
        (c = none → t.waiters aead = s.waiters aead ++ [(src, id)]) ∧ (∀ n, c = some n → t.holderOf n = some (src, id))
    (∀ ps x pd y, s.ready specDigest src p = true →
      (if bits (p.word 0) 1 0 < 2 then (key = [] ∧ u = s.atBody specDigest src p)
        else (s.atBody specDigest src p).useSlot src (bits (p.word 0) 15 8) useDigest false = (.ok key, u)) →
      u.claim src (pair p.word 2) (pair p.word 4) false = (.ok ps, x) →
      (x.holding src id ps).claim src (pair p.word 6) 48 true = (.ok pd, y) →
      waits .digest false (fun c => .context false c key [] [] [])) ∧
    (∀ (sp : OpSpec) (row : Source → Packet → Instr) (use : SlotUse) (out : Nat → Nat) (ps pd pi pa : Pages) (x y z w v y' : State) (iv aad : Bytes),
      (sp = specAeadSeal ∧ row = .aeadSeal ∧ use = useSeal ∧ out = sealOut) ∨ (sp = specAeadOpen ∧ row = .aeadOpen ∧ use = useOpen ∧ out = openOut) →
      s.ready sp src p = true → (s.atBody sp src p).useSlot src (bits (p.word 0) 7 0) use false = (.ok key, u) →
      u.claim src (pair p.word 2) (pair p.word 4) false = (.ok ps, x) →
      (x.holding src id ps).claim src (pair p.word 6) (out (pair p.word 4)) true = (.ok pd, y) →
      (y.holding src id pd).claim src (pair p.word 8) 12 false = (.ok pi, z) →
      (z.holding src id pi).claim src (pair p.word 10) (p.word 1) false = (.ok pa, w) →
      (w.holding src id pa).readRange (srcPartByte src) pi (pair p.word 8) 12 = (.ok iv, v) →
      v.readRange (srcPartByte src) pa (pair p.word 10) (p.word 1) = (.ok aad, y') →
      waits row true (fun c => .context true c key iv aad [])) ∧
    (∀ ps x b y k cs z, s.ready specWeightsLoad src p = true →
      (s.atBody specWeightsLoad src p).useSlot src (bits (p.word 1) 7 0) useWeights false = (.ok key, u) →
      u.claim src (pair p.word 2) (pair p.word 4) false = (.ok ps, x) →
      (x.holding src id ps).readRange (srcPartByte src) ps (pair p.word 2) (pair p.word 4) = (.ok b, y) →
      blobFormed b (pair p.word 4) = true → s.inRegion a (p.word 0) = true → p.word 0 < 16384 → s.modelBusy (p.word 0) = false →
      (s.bindingsOf a).length < 16 →
      (∀ n, bindingKey key b a (s.isCold a) = .error n →
        ∃ t, exec (.weightsLoad src p) s = .next t ∧ Completed s t src .bindingRefused [w32 n] ∧ QueuesKept s t src ∧
          Only [.q, .part, .err, .hif, .shed] s t ∧ MemoryKept s t) ∧
      (bindingKey key b a (s.isCold a) = .ok k → y.allocChunks a (blobChunks k b) = some (cs, z) →
        ∃ t dg ag, exec (.weightsLoad src p) s = .next t ∧ Executes s t src (.weights dg ag k cs [] 0 0) ∧
          Only [.q, .part, .err, .hif, .shed, .attest, .plot] s t))) ∧
  (∀ (s : State) (aead : Bool), s.memOk → s.running .dig = true →
    (∀ c src id x, s.freeContext aead = some c → (s.waiters aead).find? (fun w => decide (s.heldBy aead w.1 < 4)) = some (src, id) →
      s.cmd? src id = some x →
      ∃ t, exec (.contextGrant aead) s = .next t ∧ Only [.q, .attest] s t ∧ t.holderOf c = some (src, id) ∧
        t.waiters aead = (s.waiters aead).filter (fun w => w != (src, id)) ∧
        (∀ a key iv aad input, x.phase = .executing (.context a none key iv aad input) →
          ∃ y, t.cmd? src id = some y ∧ y.phase = .executing (.context a (some c) key iv aad input))) ∧
    (s.freeContext aead = none → exec (.contextGrant aead) s = .next s) ∧
    (∀ k src id c g key iv aad input d u, s.runningContext aead = some k → s.holderOf k = some (src, id) → s.cmd? src id = some c → c.src = src → c.id = id →
      c.phase = .executing (.context aead g key iv aad input) →
      let n := min mib (pair c.w 4 - input.length)
      s.readRange (srcPartByte src) c.pages (pair c.w 2 + input.length) n = (.ok d, u) →
      ((input ++ d).length < pair c.w 4 →
        ∃ t y, exec (.turnEnd aead) s = .next t ∧ Only [.q, .part, .err, .hif, .attest, .freeCtr] s t ∧ MemoryKept s t ∧ t.cmd? src id = some y ∧
          y.phase = .executing (.context aead g key iv aad (input ++ d)) ∧
          t.attest = (s.setRunning aead ((s.nextContext aead k).getD k)).attest) ∧
      ((input ++ d).length = pair c.w 4 → c.pkt.header.op = 0x0700 → bits (c.w 0) 1 0 = 1 → s.endsCmd src id c →
        ∃ t, exec (.turnEnd aead) s = .next t ∧ Only [.q, .part, .err, .hif, .attest, .freeCtr] s t ∧ Ended s t src id .ok [] ∧
          t.part.mem = (u.writeRange c.pages (pair c.w 6) (sha384 (input ++ d))).part.mem)) ∧
    (s.runningContext aead = none → exec (.turnEnd aead) s = .next s))

/-- The key commands, PROVE and ATTEST_REPORT; the key commands wait for a Shed that is in RESET, and a failed one refuses them
(R76, R91, R687, R693 to R697, R719 to R723, R725, R733). It rests on the model's own reading or choice in log 152 (DEDUCED). -/
def Obligations.KeysAndEvidence : Prop :=
  (∀ s src p, s.memOk → s.running .shed = false →
    ∀ c sp, (c = .keyWrite src p ∧ sp = specKeyWrite) ∨ (c = .keyDerive src p ∧ sp = specKeyDerive) ∨ (c = .keyErase src p ∧ sp = specKeyErase) ∨
        (c = .keyInfo src p ∧ sp = specKeyInfo) → s.ready sp src p = true →
      ((s.island .shed).state = .reset → (s.crossingInto .shed).length < 64 →
        ∃ t, exec c s = .next t ∧ Executes s t src (.held .shed) ∧ QueuesKept s t src ∧ UnitsKept s t) ∧
      ((s.island .shed).state = .resetFailed → ∃ t, exec c s = .next t ∧ Completed s t src .targetReset [] ∧ QueuesKept s t src ∧ UnitsKept s t)) ∧
  (∀ s src p, s.memOk → s.running .shed = true →
    (s.ready specKeyWrite src p = true → s.keyDest (bits (p.word 0) 7 0) = none →
      ∃ t, exec (.keyWrite src p) s = .next t ∧ UnitsKept s t ∧ QueuesKept s t src ∧
        Executes s t src (.keyStore (bits (p.word 0) 7 0) (Fin.ofNat 64 (bits (p.word 0) 13 8)) (bits (p.word 1) 4 0) (bits (p.word 1) 15 8) (p.word 2)
          false ((wordBytes p.word 8 12).take (p.word 2)))) ∧
    (∀ key u, s.ready specKeyDerive src p = true → 16 ≤ bits (p.word 0) 7 0 → s.keyDest (bits (p.word 0) 15 8) = none →
      (s.atBody specKeyDerive src p).useSlot src (bits (p.word 0) 7 0) useDerive false = (.ok key, u) →
      let owner := (s.slot (bits (p.word 0) 7 0)).owner
      ((srcPart src).isSome = true → s.derivedSlots owner < 8) →
      ∃ t, exec (.keyDerive src p) s = .next t ∧ Only [.q, .shed] s t ∧ QueuesKept s t src ∧ t.shed = u.shed ∧
        Executes s t src (.keyStore (bits (p.word 0) 15 8) owner (bits (p.word 1) 4 0) (bits (p.word 1) 15 8) (p.word 2) (srcPart src).isSome
          (hkdf256 key [] (ascii "ARKDERV1" ++ leBytes 1 owner.val ++ (wordBytes p.word 4 8).take (p.word 3)) (p.word 2)))) ∧
    (s.ready specKeyErase src p = true → 16 ≤ bits (p.word 0) 7 0 →
      (s.slotBound (bits (p.word 0) 7 0) = false →
        ∃ t, exec (.keyErase src p) s = .next t ∧ UnitsKept s t ∧ QueuesKept s t src ∧ Executes s t src (.keyErase (bits (p.word 0) 7 0))) ∧
      (s.slotBound (bits (p.word 0) 7 0) = true →
        ∃ t, exec (.keyErase src p) s = .next t ∧ UnitsKept s t ∧ QueuesKept s t src ∧ Completed s t src .notPermitted [])) ∧
    (∀ id c n, s.endsCmd src id c →
      (∀ owner usage mask len origin key, c.phase = .executing (.keyStore n owner usage mask len origin key) →
        (∀ st, s.keyDest n = some st → ∃ t, exec (.commandCompletion src id) s = .next t ∧ Ended s t src id st [] ∧ UnitsKept s t) ∧
        (s.keyDest n = none → origin = true → 8 ≤ s.derivedSlots owner →
          ∃ t, exec (.commandCompletion src id) s = .next t ∧ Ended s t src id .range [0] ∧ UnitsKept s t) ∧
        (∀ kek, s.keyDest n = none → (origin = true → s.derivedSlots owner < 8) → s.slotKek = some kek →
          ∃ t r, exec (.commandCompletion src id) s = .next t ∧ Ended s t src id .ok [] ∧ Only [.q, .shed] s t ∧
            t.slot n = r ∧ (∀ k, k ≠ n → t.slot k = s.slot k) ∧ r.state = .valid ∧ r.owner = owner ∧ r.usage = BitVec.ofNat 5 usage ∧
            r.mask = BitVec.ofNat 8 mask ∧ r.length = len ∧ r.origin = origin ∧ r.generation = (s.slot n).generation + 1 ∧
            r.brootGen = s.shed.brootGen ∧ r.wrapped = aesWrap kek (fit 48 key))) ∧
      (c.phase = .executing (.keyErase n) →
        (s.slotBound n = true → ∃ t, exec (.commandCompletion src id) s = .next t ∧ Ended s t src id .notPermitted [] ∧ UnitsKept s t) ∧
        (s.slotBound n = false → ∃ t, exec (.commandCompletion src id) s = .next t ∧ Ended s t src id .ok [] ∧ t = { s with q := t.q, shed := { s.shed with
          slots := Tab.set s.shed.slots {} n { ({} : SlotRec) with generation := (s.slot n).generation } } }))) ∧
    (s.ready specKeyInfo src p = true →
      let n := bits (p.word 0) 7 0
      let r := s.slot n
      ((∃ a q, src = .part a q ∧ 16 ≤ n ∧ r.state ≠ .empty ∧ r.owner = a) ∨ (srcPart src = none ∧ 16 ≤ n) →
        ∃ t, exec (.keyInfo src p) s = .next t ∧ UnitsKept s t ∧ QueuesKept s t src ∧ Completed s t src .ok
          ([r.usage.toNat + 2 ^ 8 * r.mask.toNat, r.owner.val + 2 ^ 16 * r.length, r.state.code].map w32)) ∧
      (srcPart src = none → n < 16 → ∃ t, exec (.keyInfo src p) s = .next t ∧ UnitsKept s t ∧ QueuesKept s t src ∧
        Completed s t src .ok ((s.deviceSlotInfo n).map w32)) ∧
      (∀ a q, src = .part a q → n < 16 → ∃ t, exec (.keyInfo src p) s = .next t ∧ UnitsKept s t ∧ QueuesKept s t src ∧
        Completed s t src .notPermitted [])) ∧
    (∀ key u ps v pd w ch z, s.ready specProve src p = true →
      let n := bits (p.word 0) 7 0
      (s.atBody specProve src p).useSlot src n useProve true = (.ok key, u) → u.claim src (pair p.word 2) (p.word 1) false = (.ok ps, v) →
      (v.holding src (s.nextCmd src) ps).claim src (pair p.word 4) 48 true = (.ok pd, w) →
      (w.holding src (s.nextCmd src) pd).readRange (srcPartByte src) ps (pair p.word 2) (p.word 1) = (.ok ch, z) →
      let d := hmac384 key (z.proveMessage n ch)
      ∃ t, exec (.prove src p) s = .next t ∧ Completed s t src .ok [] ∧ QueuesKept s t src ∧ Only [.q, .part, .err, .hif, .shed] s t ∧
        t.part.mem = (z.writeRange pd (pair p.word 4) d).part.mem ∧ MemoryKeptOutside s t (segments pd (pair p.word 4) d.length)) ∧
    (∀ key u ps v pd w nonce z who n pol, s.ready specAttestReport src p = true →
      ((∃ a q r, src = .part a q ∧ s.partition? a = some r ∧ (s.atBody specAttestReport src p).attestKey a = (.ok key, u) ∧ who = some a ∧
          n = r.slot ∧ (s.bindingsOf a).all s.bindingOk = true ∧
          ((bit (p.word 0) 0 = false ∧ pol = partReport r.policy) ∨
           (∃ x, bit (p.word 0) 0 = true ∧ (s.roundEntry a (p.word 1)).bind s.round? = some x ∧ pol = roundReport x))) ∨
        (srcPart src = none ∧ bit (p.word 0) 0 = false ∧ (s.atBody specAttestReport src p).useSlot src 0 useProve true = (.ok key, u) ∧
          who = none ∧ n = 0 ∧ pol = {})) →
      u.claim src (pair p.word 2) 32 false = (.ok ps, v) → (v.holding src (s.nextCmd src) ps).claim src (pair p.word 4) 1024 true = (.ok pd, w) →
      (w.holding src (s.nextCmd src) pd).readRange (srcPartByte src) ps (pair p.word 2) 32 = (.ok nonce, z) →
      let b := z.report who n nonce pol
      let d := b ++ hmac384 key b
      ∃ t, exec (.attestReport src p) s = .next t ∧ Completed s t src .ok [w32 (b.length + 48)] ∧ QueuesKept s t src ∧
        Only [.q, .part, .err, .hif, .shed] s t ∧ t.part.mem = (z.writeRange pd (pair p.word 4) d).part.mem ∧
        MemoryKeptOutside s t (segments pd (pair p.word 4) d.length)))

/-- What happens in the Shed and to memory and logs without a command (R683, R691, R692, R708 to R713, R717, R857, R864). It rests on
the model's own reading or choice in log 116 (DEDUCED), 117 (DEDUCED), 134 (DEDUCED), 152 (DEDUCED). -/
def Obligations.ShedEvents : Prop :=
  ∀ s : State, s.memOk →
    (∀ c, exec (.tamperEvent c false) s = .next { s with shed := { s.shed with conditions := s.shed.conditions.filter (fun x => x != c) } }) ∧
    (∀ c, (∀ p, s.created p = false) →
      (c ≠ .batteryLost ∧ c ≠ .rootCorrupt ∧ s.tamperActs c = true ∧ s.shed.conditions.contains c = false) ∨
        (c = .rootCorrupt ∧ s.shed.batteryRoot.isSome = true) →
      (∀ src id x, s.q.cmds = [x] → s.endsCmd src id x → x.keyWork = true →
        ∃ t, exec (.tamperEvent c true) s = .next t ∧ Ended s t src id .keySlotBad [] ∧ Only [.q, .shed, .hif, .mgmt] s t ∧
          ∀ n, t.slot n = (s.slot n).spoil) ∧
      ((∀ x ∈ s.q.cmds, x.keyWork = false) →
      ∃ t, exec (.tamperEvent c true) s = .next t ∧ Only [.shed, .hif, .mgmt] s t ∧ t.shed.batteryRoot = none ∧
        t.shed.conditions = (if c = .rootCorrupt then s.shed.conditions else s.shed.conditions ++ [c]) ∧ (∀ n, t.slot n = (s.slot n).spoil) ∧
        t.shed.tamperLog.getLast? = some { cause := c, time := s.now } ∧ t.shed.tamperLog.length ≤ 8)) ∧
    (s.power.pwrgdAux = false → ∃ t, exec (.tamperEvent .batteryLost true) s = .next t ∧ Only [.isl, .shed, .freeCtr] s t ∧
      (∀ d, t.island d = { s.island d with epoch := 1 }) ∧ t.shed.batteryRoot = none ∧ t.shed.slots = [] ∧ t.shed.tamperLog = [{ cause := .batteryLost, time := s.now }]) ∧
    (s.shed.batteryRoot = none → s.shed.conditions = [] → s.running .shed = true → ∃ t root, exec .batteryRootGeneration s = .next t ∧
      Only [.shed, .freeCtr] s t ∧ t.shed = { s.shed with batteryRoot := some root, brootGen := s.shed.brootGen + 1 }) ∧
    (∀ low, s.power.pwrgdAux = true → s.running .shed = true → low ≠ s.shed.batteryLow → ∃ t, exec (.batteryLow low) s = .next t ∧
      Only [.shed, .hif, .mgmt] s t ∧ t.shed = { s.shed with batteryLow := low } ∧ (low = false → t.hif = s.hif ∧ t.mgmt = s.mgmt)) ∧
    (∀ uce policies, s.running .shed = true → s.shed.patrolAt + 1000000000 ≤ s.now → (∀ p, s.created p = false) →
      ∃ t, exec (.slotPatrol uce policies false) s = .next t ∧ Only [.shed, .err, .hif] s t ∧ t.shed.patrolAt = s.now ∧ ∀ n, t.slot n =
        if 16 ≤ n ∧ n < 256 ∧ (s.slot n).state = .valid ∧ (uce.contains n = true ∨ (s.shed.pufRoot.isSome = true ∧ s.slotKey n (s.slot n) = none))
        then { s.slot n with state := .bad } else s.slot n) ∧
    (s.shed.debug = false → s.running .shed = true → (∀ p, s.isCold p = false) → Tab.sorted s.shed.slots = true →
      ∃ t, exec .debugEntry s = .next t ∧ Only [.shed, .kelri, .hif] s t ∧ (∀ f, t.viewOf f = (s.viewOf f).step) ∧ t.shed.debug = true ∧ t.shed.pufRoot = some Config.testRoot ∧
        t.shed.batteryRoot = some Config.testRoot ∧ ∀ n, 16 ≤ n → n < 256 → (t.slot n).state = .empty) ∧
    (let l := s.part.patrolLine
     let pt (f : Partitions → Partitions) : Partitions := f { s.part with patrolLine := (l + 1) % memLines }
     s.running (memcOf (64 * l)) = true → s.power.mainHeld = false →
     (s.part.uncorrectable.contains l = false → s.part.correctable.contains l = false →
       exec (.patrolScrub .clean) s = .next { s with part := pt id }) ∧
     (∀ x, s.part.uncorrectable.contains l = false → ∃ t, exec (.patrolScrub (.corrected x)) s = .next t ∧ Only [.part, .err, .hif] s t ∧
       t.part = pt (fun q => { q with correctable := q.correctable.filter (fun n => n != l) })) ∧
     (∀ x, s.part.poisonLines.contains l = false → ∃ t, exec (.patrolScrub (.uncorrectable x)) s = .next t ∧ Only [.part, .err, .hif] s t ∧
       MemoryKept s t ∧ t.part.poisonLines = insertNat l s.part.poisonLines ∧ t.part.patrolLine = (l + 1) % memLines ∧
       t.part.uncorrectable = s.part.uncorrectable.filter (fun n => n != l))) ∧
    (∀ log, s.running .shed = true →
      let l := Tab.get s.err.logs {} log.val
      let made (l' : ErrLog) (t : State) : Prop := Only [.err, .hif] s t ∧ t.err = { s.err with logs := Tab.set s.err.logs {} log.val l' } ∧
        t.hif.intStatus = s.hif.intStatus ||| BitVec.ofNat 32 (2 ^ log.val)
      (∀ k, (Tab.find? l.slots k.val).isSome = true → ∃ t, exec (.logParity log (some k)) s = .next t ∧
        made { l with slots := Tab.insert l.slots k.val corruptEntry } t) ∧
      (∃ t, exec (.logParity log none) s = .next t ∧ made { slots := [(0, corruptEntry)], nextSeq := 1 } t))

/-- The partition commands (R133, R645 to R647, R661, R667, R676, R678, R697, R756). It rests on the model's own reading or choice in
log 91 (DEDUCED), 92 (DEDUCED), 135 (DEDUCED). -/
def Obligations.PartitionRows : Prop :=
  ∀ s src p, s.memOk → srcPart src = none →
    let a : Fin 64 := Fin.ofNat 64 (p.word 0)
    (∀ u v, s.ready specPartCreate src p = true → s.created a = false → s.vfPresent a = true → s.sharesFit a (p.word 2) = true →
      p.word 1 ≤ s.freePool → (s.atBody specPartCreate src p).bindSlot a (p.word 3) = (none, u) → s.running .rng = true → s.random.serving = true →
      let r : Partition := { plotShare := plotBits (p.word 2), sowerShare := sowerBits (p.word 2), bedShare := bedBits (p.word 2), slot := p.word 3 }
      (u.setPartition a r).growQuota a (p.word 1) = (some (), v) →
      ∃ t, exec (.partCreate src p) s = .next t ∧ Completed s t src .ok [] ∧
        QueuesMoved s { t with q := { t.q with serials := s.q.serials } } src ∧ t.q.serials = Tab.erase s.q.serials a.val ∧
        Only [.q, .part, .err, .hif, .plot, .random, .freeCtr, .kelri, .shed] s t ∧ t.part.parts = v.part.parts ∧
        (∃ w, t.partition? a = some w ∧ w.plotShare = r.plotShare ∧ w.sowerShare = r.sowerShare ∧ w.bedShare = r.bedShare ∧ w.slot = p.word 3 ∧
          w.coldFrame = false) ∧ (∀ b : Fin 64, b ≠ a → t.partition? b = s.partition? b) ∧
        Tab.find? t.kelri.vf a.val = some { valid := true, coldFrame := false, fw := s.power.seqFw.version, debug := s.shed.debug } ∧
        Tab.find? t.plot.modelRegion a.val = some (256 * a.val, 256)) ∧
    (s.ready specPartDestroy src p = true → s.created a = true →
      (s.entering a = true → ∃ t, exec (.partDestroy src p) s = .next t ∧ Executes s t src (.coldFrame a) ∧ UnitsKept s t ∧ QueuesKept s t src) ∧
      (s.entering a = false → s.roundsOf a = [] → (∀ c ∈ s.q.cmds, ofPart a c.src = false) → Tab.sorted s.part.parts = true →
        ∃ t c n, exec (.partDestroy src p) s = .next t ∧ c ∈ t.q.cmds ∧ c.src = src ∧ c.id = s.nextCmd src ∧ c.phase = .done n .ok [] s.now ∧
          t.created a = false ∧ ∀ b : Fin 64, b ≠ a → t.created b = s.created b)) ∧
    (∀ r, s.ready specPartShares src p = true → s.partition? a = some r → s.sharesFit a (p.word 2) = true →
      let given (w : Partition) : Partition :=
        { w with plotShare := plotBits (p.word 2), sowerShare := sowerBits (p.word 2), bedShare := bedBits (p.word 2) }
      (p.word 1 ≤ r.quota → (∀ k, p.word 1 ≤ k → k < r.quota → r.chunkState k = .free) →
        ∃ t, exec (.partShares src p) s = .next t ∧ Completed s t src .ok [] ∧ QueuesKept s t src ∧ Only [.q, .part] s t ∧ MemoryKept s t ∧
          t.partition? a = some (given { r with chunkMap := r.chunkMap.take (p.word 1) }) ∧ ∀ b : Fin 64, b ≠ a → t.partition? b = s.partition? b) ∧
      (∀ v w, r.quota < p.word 1 → p.word 1 - r.quota ≤ s.freePool →
        (s.atBody specPartShares src p).growQuota a (p.word 1 - r.quota) = (some (), v) → v.partition? a = some w →
        ∃ t, exec (.partShares src p) s = .next t ∧ Completed s t src .ok [] ∧ QueuesKept s t src ∧ Only [.q, .part, .err, .hif] s t ∧
          t.partition? a = some (given w) ∧ ∀ b : Fin 64, b ≠ a → t.partition? b = s.partition? b)) ∧
    (∀ r, s.ready specColdFrameEnter src p = true → s.shed.debug = false → s.partition? a = some r → s.roundsOf a = [] → s.shed.pufFail = false →
      (s.touchesQuota a = true → ∃ t, exec (.coldFrameEnter src p) s = .next t ∧ Executes s t src (.coldFrame a) ∧ QueuesKept s t src ∧
        Only [.q, .part] s t ∧ MemoryKept s t ∧ t.partition? a = some { r with closedToCp := true }) ∧
      (s.touchesQuota a = false → ∃ t, exec (.coldFrameEnter src p) s = .next t ∧ Completed s t src .ok [] ∧ QueuesKept s t src ∧
        Only [.q, .part, .kelri, .hif] s t ∧ MemoryKept s t ∧
        t.partition? a = some { r with closedToCp := true, coldFrame := true, policy := { r.policy with noiseRequired := true } } ∧
        let v := Tab.get s.kelri.vf {} a.val
        t.kelri = { s.kelri with vf := Tab.set s.kelri.vf {} a.val { v.step with coldFrame := v.valid } }))

/-- Firmware commands, which wait for a MGMT that is in RESET, and the live read (R76, R91, R798, R805, R824, R825, R843). It rests on the model's own reading or choice in log 97
(DESIGN CHOICE), 98 (DEDUCED), 114 (DEDUCED), 153 (DEDUCED). -/
def Obligations.FirmwareRows : Prop :=
  ∀ s src p, s.memOk →
    let i := bits (p.word 0) 0 0
    (∀ c sp, (c = .fwStage src p ∧ sp = specFwStage) ∨ (c = .fwActivate src p ∧ sp = specFwActivate) → s.ready sp src p = true →
      ((s.island .mgmt).state = .reset → (s.crossingInto .mgmt).length < 64 →
        ∃ t, exec c s = .next t ∧ Executes s t src (.held .mgmt) ∧ QueuesKept s t src ∧ UnitsKept s t) ∧
      ((s.island .mgmt).state = .resetFailed → ∃ t, exec c s = .next t ∧ Completed s t src .targetReset [] ∧ QueuesKept s t src ∧ UnitsKept s t)) ∧
    (∀ ps u b v, s.ready specFwStage src p = true → s.running .mgmt = true → s.fwBusy i = .none →
      (s.atBody specFwStage src p).claim src (pair p.word 2) (p.word 4) false = (.ok ps, u) →
      (u.holding src (s.nextCmd src) ps).readRange (srcPartByte src) ps (pair p.word 2) (p.word 4) = (.ok b, v) →
      (imageFails i (s.power.minSvn i) b = none → ∃ t, exec (.fwStage src p) s = .next t ∧ Executes s t src (.stage i b) ∧ QueuesKept s t src ∧
        Only [.q, .part, .err, .hif, .power] s t ∧ MemoryKept s t ∧ t.fwBusy i = .stage ∧ (t.power.image i).standby = .invalid ∧
        (t.power.image i).active = (s.power.image i).active) ∧
      (∀ n, imageFails i (s.power.minSvn i) b = some n → ∃ t, exec (.fwStage src p) s = .next t ∧ Completed s t src .imageRejected [w32 n] ∧
        QueuesKept s t src ∧ Only [.q, .part, .err, .hif] s t ∧ MemoryKept s t)) ∧
    (s.ready specFwActivate src p = true → s.running .mgmt = true → (s.power.image i).standby = .staged → s.fwBusy i = .none →
      (i = 1 → ∃ t, exec (.fwActivate src p) s = .next t ∧ Completed s t src .ok [] ∧ QueuesKept s t src ∧ Only [.q, .mgmt, .power] s t ∧
        t.mgmt = { s.mgmt with activateAt := some (s.now + 1000000) } ∧
        t.power.image 1 = { active := !(s.power.image 1).active, standby := .fallback, attempts := 0 }) ∧
      (i = 0 → (s.flashWorks).1 = true →
        let b := s.power.flashImage (!(s.power.image 0).active) 0
        (imageFails 0 (s.power.minSvn 0) b = none → ∃ t, exec (.fwActivate src p) s = .next t ∧ Executes s t src .activate ∧ QueuesKept s t src ∧
          Only [.q, .power, .freeCtr] s t ∧ t.power = { s.power with imageBuffer := b, bufferBad := false }) ∧
        (∀ n, imageFails 0 (s.power.minSvn 0) b = some n → ∃ t, exec (.fwActivate src p) s = .next t ∧
          Completed s t src .imageRejected [w32 n] ∧ QueuesKept s t src ∧ Only [.q, .power, .freeCtr, .err, .hif] s t ∧
          (t.power.image 0).standby = .invalid))) ∧
    (s.ready specDiagLiveRead src p = true →
      let r : Requester := match src with
        | .mgmt _ => .mgmtPort
        | _ => .fn .pf
      let y := s.atBody specDiagLiveRead src p
      let z := if p.word 1 % 2 = 0 ∧ p.word 0 % 8 = 0 then y.livePairs r (p.word 0) (p.word 1 / 2) else y.liveWords r (p.word 0) (p.word 1)
      ∃ t, exec (.diagLiveRead src p) s = .next t ∧ Completed s t src .ok (z.1.map w32) ∧ QueuesKept s t src ∧ Only [.q, .reg] s t ∧
        t.reg = z.2.reg)

/-- Forming, ending and handing over a graft pair, and the events of its members (R610 to R614, R618, R628, R633, R639, R640,
R644). It rests on the model's own reading or choice in log 70 (DEDUCED), 71 (DEDUCED). -/
def Obligations.GraftMembers : Prop :=
  ∀ s : State, s.memOk →
    (∀ src p, s.ready specGraftPair src p = true → s.paired = false → s.graft.asked = none → s.spetar.fid.isSome = true → s.time.qualified = true →
      let partner := bits (p.word 0) 8 0
      let port := bits (p.word 0) 19 16
      s.portActive port = true → (s.port port).peerUdid.bind (fun u => (devByUdid s.topology u).bind (·.fid)) = some partner →
      s.witnessOf (p.word 1) ≠ partner → s.witnessOf (p.word 1) ≠ s.ownFid → (∀ x w o, s.graft.request = some (x, w, o) → x ≠ partner) →
      ∃ t, exec (.graftPair src p) s = .next t ∧ Executes s t src (.pair (s.now + 1000000000)) ∧ QueuesKept s t src ∧
        Only [.q, .graft, .spetar, .isl] s t ∧ t.graft = { s.graft with asked := some (partner, port, p.word 1), port := port }) ∧
    (∀ src p, s.ready specGraftUnpair src p = true → s.paired = true → s.shadows = [] → (∀ c ∈ s.q.cmds, c.mirrored = none) →
      ∃ t, exec (.graftUnpair src p) s = .next t ∧ Completed s t src .ok [] ∧ QueuesKept s t src ∧ Only [.q, .graft, .spetar, .isl] s t ∧
        t.graft = { witnessed := s.graft.witnessed, unmirrored := s.graft.unmirrored }) ∧
    (∀ src p, s.ready specGraftTakeover src p = true → s.paired = true →
      (s.graft.role = .secondary → ∃ t, exec (.graftTakeover src p) s = .next t ∧ Executes s t src (.takeover (s.now + 200000)) ∧
        QueuesKept s t src ∧ Only [.q, .graft, .spetar, .isl] s t ∧ t.graft = { s.graft with requested := s.graft.requested || bit (p.word 0) 0 }) ∧
      ((s.graft.role = .primary ∨ s.graft.role = .held) → s.graft.mirrorRounds = [] →
        ∃ t, exec (.graftTakeover src p) s = .next t ∧ Executes s t src (.takeover (s.now + 200000)) ∧
        QueuesKept s t src ∧ Only [.q, .graft, .spetar, .isl] s t ∧ t.graft = { s.graft with
          role := .deposed, draining := false, deferred := [], waits := [], acked := [], lastHeartbeatSent := s.now })) ∧
    (∀ a h named witness opened rejoin,
      let m : RoundMsg := .pairRequest named witness opened rejoin
      let y := s.tookFrame a (.graft h m)
      s.takes a (.graft h m) = true → s.running .fab = true →
      (named ≠ s.ownFid → exec (.pairRequest a h m) s = .next y) ∧
      (named = s.ownFid → s.paired = false →
        (s.graft.asked = none → exec (.pairRequest a h m) s = .next { y with graft := { s.graft with request := some (h.src, witness, opened) } }) ∧
        (∀ q w, s.graft.asked = some (h.src, q, w) → rejoin = none → s.witnessOf witness = s.witnessOf w → (s.holdsRound && opened) = false →
          let role := pairRole s.holdsRound opened s.ownFid h.src
          ∃ t, exec (.pairRequest a h m) s = .next t ∧ Only [.graft, .spetar, .isl] s t ∧ t.graft = { s.graft with
            request := some (h.src, witness, opened), role := role, partner := h.src, port := q, witness := w, epoch := 1, forming := true
            nextSeq := 0, appliedSeq := 0, waits := [], requested := false
            lastRenewal := if role = .primary then s.now else s.graft.lastRenewal }))) ∧
    (∀ src id c x, s.q.cmds = [c] → s.endsCmd src id c → x ≤ s.now →
      (c.phase = .executing (.pair x) → ∃ t, exec .pairTimeout s = .next t ∧ Ended s t src id .remoteUnreachable [] ∧ Only [.q, .graft] s t ∧
        t.graft = { s.graft with role := .none, partner := 0, epoch := 0, asked := none, request := none, forming := false }) ∧
      (c.phase = .executing (.takeover x) → ∃ t, exec .graftAnswerTimeout s = .next t ∧ Ended s t src id .remoteUnreachable [] ∧ Only [.q] s t)) ∧
    (s.paired = true → s.running .fab = true → s.graft.lastHeartbeatSent + 10000 ≤ s.now → ∃ t, exec .heartbeatTimer s = .next t ∧
      Only [.graft, .spetar, .isl] s t ∧ t.graft = { s.graft with lastHeartbeatSent := s.now } ∧
      t.spetar = (s.toPartner s.graft.partner (.heartbeat (roleCode s.graft.role) s.graft.epoch (s.graft.role == .held) (s.graft.role == .deposed)
        s.graft.appliedSeq)).spetar) ∧
    (∀ a h role epoch held deposed applied,
      let m : RoundMsg := .heartbeat role epoch held deposed applied
      let y := s.tookFrame a (.graft h m)
      (s.takes a (.graft h m) = true → s.paired = false ∨ s.graft.port ≠ a.port.val → exec (.heartbeat a h m) s = .next y) ∧
      (s.PartnerSends a (.graft h m) →
        (epoch.toNat < s.graft.epoch.toNat → exec (.heartbeat a h m) s = .next y) ∧
        (epoch = s.graft.epoch → role = 0 → s.graft.waits = [] → s.shadows = [] → (∀ c ∈ s.q.cmds, c.mirrored = none) →
          exec (.heartbeat a h m) s = .next { y with graft := { witnessed := s.graft.witnessed, unmirrored := s.graft.unmirrored } }) ∧
        (epoch = s.graft.epoch → role ≠ 0 → s.graft.role ≠ .deposed →
          (s.graft.state = .mirroring → (s.graft.role ≠ .secondary ∨ deposed = false ∨ s.graft.requested = true) →
            exec (.heartbeat a h m) s = .next { y with graft := { s.graft with lastHeartbeat := s.now } }) ∧
          (s.graft.role = .secondary → deposed = true → s.graft.requested = false → ∃ t, exec (.heartbeat a h m) s = .next t ∧
            Only [.graft, .spetar, .isl] s t ∧ t.graft = { s.graft with lastHeartbeat := s.now, requested := true }) ∧
          (s.graft.state = .degraded → role = (if s.graft.role = .secondary then 1 else 2) → (s.graft.role ≠ .secondary ∨ deposed = false) →
            exec (.heartbeat a h m) s = .next { y with graft := { s.graft with
              lastHeartbeat := s.now, state := .mirroring, requested := false, nextSeq := 0, appliedSeq := 0, waits := [] } })))) ∧
    (s.graft.state = .mirroring → s.graft.lastHeartbeat + 100000 ≤ s.now →
      (s.graft.role = .secondary → s.graft.requested = false → ∃ t, exec .heartbeatSilence s = .next t ∧ Only [.graft, .spetar, .isl, .hif] s t ∧
        t.graft = { s.graft with requested := true } ∧ t.hif.intStatus = s.hif.intStatus ||| BitVec.ofNat 32 (2 ^ 23)) ∧
      ((s.graft.role = .primary ∨ s.graft.role = .held) → s.graft.waits = [] → ∃ t, exec .heartbeatSilence s = .next t ∧ Only [.graft, .hif] s t ∧
        t.graft = { s.graft with state := .degraded, mirrorRounds := [] } ∧ t.hif.intStatus = s.hif.intStatus ||| BitVec.ofNat 32 (2 ^ 23)))

/-- The role lease, its witness, the takeover and the mirror stream (R615, R616, R620, R626, R628 to R631, R636, R639 to R641). It
rests on the model's own reading or choice in log 64 (DEDUCED), 70 (DEDUCED), 71 (DEDUCED), 72 (DEDUCED).
-/
def Obligations.GraftRoles : Prop :=
  ∀ s : State, s.memOk →
    (s.paired = true → (s.graft.role = .primary ∨ s.graft.role = .held) → s.graft.lastRenewal + 50000 ≤ s.now →
      ∃ t, exec .renewalTimer s = .next t ∧ Only [.graft, .spetar, .isl] s t ∧ t.graft = { s.graft with lastRenewal := s.now } ∧
        t.spetar = (s.toWitness (.renewal s.graft.epoch s.now (some s.graft.partner) s.graft.forming)).spetar) ∧
    (s.paired = true → s.graft.role = .primary → s.graft.leaseUntil ≤ s.now →
      exec .leaseLapse s = .next { s with graft := { s.graft with role := .held } }) ∧
    (∀ o epoch sentAt, let m : RoundMsg := .renewalAck epoch sentAt true
      s.Hears o m → s.graft.forming = false → s.paired = true → s.graft.epoch = epoch →
      (s.graft.role = .primary → exec (.renewalAck o m) s =
        .next (s.afterRound o m (fun y => { y with graft := { s.graft with leaseUntil := max s.graft.leaseUntil (sentAt + 150000) } }))) ∧
      (s.graft.role = .held → s.graft.deferred = [] → s.rounds.table = [] → s.now < sentAt + 150000 → exec (.renewalAck o m) s =
        .next (s.afterRound o m (fun y => { y with graft := { s.graft with role := .primary, leaseUntil := max s.graft.leaseUntil (sentAt + 150000) } })))) ∧
    (∀ src id c x o epoch sentAt, s.graft.forming = true → s.q.cmds = [c] → s.endsCmd src id c → c.phase = .executing (.pair x) →
      (s.Hears o (.renewalAck epoch sentAt true) →
        ∃ t, exec (.renewalAck o (.renewalAck epoch sentAt true)) s = .next t ∧ Only [.q, .graft, .spetar, .isl] s t ∧
          Ended s t src id .ok [w32 (if s.graft.role = .primary then 0 else 1), w32 s.graft.epoch.toNat] ∧ t.graft = { s.graft with
            state := .mirroring, leaseUntil := if s.graft.role = .primary then sentAt + 150000 else 0, lastHeartbeat := s.now
            asked := none, request := none, forming := false }) ∧
      (s.Hears o (.renewalAck epoch sentAt false) →
        ∃ t, exec (.renewalAck o (.renewalAck epoch sentAt false)) s = .next t ∧ Only [.q, .graft, .spetar, .isl] s t ∧ Ended s t src id .range [1] ∧
          t.graft = { s.graft with role := .none, partner := 0, epoch := 0, asked := none, request := none, forming := false })) ∧
    (∀ o epoch sentAt partner forming, let m : RoundMsg := .renewal epoch sentAt partner forming
      s.Hears o m →
      let d := o.h.src
      (partner = none → exec (.renewal o m) s =
        .next (s.afterRound o m (fun y => { y with graft := { s.graft with witnessed := s.graft.witnessed.filter (fun r => !r.has d) } }))) ∧
      ∀ p, partner = some p →
      (s.graft.witnessed.find? (fun r => r.of d p) = none → s.graft.witnessed.length < 256 →
        let r : WitnessRec := { a := d, b := p, holder := d, epoch := epoch, expiry := if forming then s.now + 150000 else 0
                                holdUntil := if forming then none else some (s.now + 150000) }
        (forming = false →
          exec (.renewal o m) s = .next (s.afterRound o m (fun y => { y with graft := { s.graft with witnessed := s.graft.witnessed ++ [r] } }))) ∧
        ∃ t, exec (.renewal o m) s = .next t ∧ Only [.graft, .spetar, .isl] s t ∧
          t.graft = { s.graft with witnessed := s.graft.witnessed ++ [r] }) ∧
      (∀ r, s.graft.witnessed.find? (fun r => r.of d p) = some r → forming = false → r.epoch.toNat ≤ epoch.toNat → r.holdUntil = none →
        r.holder = d → r.force = false →
        ∃ t, exec (.renewal o m) s = .next t ∧ Only [.graft, .spetar, .isl] s t ∧ t.graft = { s.graft with
          witnessed := s.graft.witnessed.map (fun x => if x.of r.a r.b then { x with expiry := s.now + 150000, request := none } else x) })) ∧
    (∀ o primary epoch force, let m : RoundMsg := .takeover primary epoch force
      s.Hears o m →
      let d := o.h.src
      (∀ r, primary ≠ s.ownFid → s.graft.witnessed.find? (fun r => r.of d primary) = some r → r.epoch.toNat ≤ epoch.toNat →
        (r.holdUntil = none → r.expiry ≤ s.now → ∃ t, exec (.takeoverRequest o m) s = .next t ∧ Only [.graft, .spetar, .isl] s t ∧
          t.graft = { s.graft with witnessed := s.graft.witnessed.map (fun x => if x.of r.a r.b then
            { x with epoch := nextEpoch r.epoch, holder := d, expiry := s.now + 150000, request := none, force := false } else x) }) ∧
        ((r.holdUntil.isSome = true ∨ s.now < r.expiry) → exec (.takeoverRequest o m) s =
          .next (s.afterRound o m (fun y => { y with graft := { s.graft with witnessed := s.graft.witnessed.map (fun x => if x.of d primary then
            { x with request := some d, force := x.force || force } else x) } })))) ∧
      (primary = s.ownFid → s.paired = true → d = s.graft.partner → (s.graft.role = .primary ∨ s.graft.role = .held) → s.graft.waits ≠ [] →
        s.graft.epoch.toNat ≤ epoch.toNat →
        exec (.takeoverRequest o m) s = .next (s.afterRound o m (fun y => { y with graft := { s.graft with draining := true } })))) ∧
    (∀ a b r x, s.graft.witnessed.find? (fun r => r.of a b) = some r → r.request = some x → r.holdUntil = none → r.expiry ≤ s.now →
      ∃ t, exec (.witnessLeaseExpiry a b) s = .next t ∧ Only [.graft, .spetar, .isl] s t ∧
        t.graft = { s.graft with witnessed := s.graft.witnessed.map (fun y => if y.of r.a r.b then
          { y with epoch := nextEpoch r.epoch, holder := x, expiry := s.now + 150000, request := none, force := false } else y) }) ∧
    (∀ a b r x, s.graft.witnessed.find? (fun r => r.of a b) = some r → r.holdUntil = some x → x ≤ s.now → exec (.witnessHoldEnd a b) s =
      .next { s with graft := { s.graft with witnessed := s.graft.witnessed.map (fun y => if y.of a b then { y with holdUntil := none } else y) } }) ∧
    (s.paired = true → exec (.witnessFailover s.time.masterId) s = .next { s with graft := { s.graft with
      witness := s.time.masterId, requested := false, leaseUntil := 0, role := if s.graft.role = .primary then .held else s.graft.role } }) ∧
    (∀ o epoch, s.Hears o (.grant epoch) → s.paired = true → s.graft.role = .secondary → s.graft.epoch.toNat < epoch.toNat → s.shadows = [] →
      s.q.cmds = [] →
      ∃ t, exec (.grant o (.grant epoch)) s = .next t ∧ Only [.graft, .hif, .spetar, .isl] s t ∧
        t.hif.intStatus = s.hif.intStatus ||| BitVec.ofNat 32 (2 ^ 23) ∧ t.graft = { s.graft with
          state := .degraded, role := .primary, epoch := epoch, leaseUntil := s.now + 150000, lastRenewal := s.now, requested := false
          nextSeq := 0, waits := [], mirrorRounds := [] }) ∧
    (∀ o, s.Hears o .refuse → s.graft.role = .secondary → s.graft.requested = true → s.shadows = [] → (∀ c ∈ s.q.cmds, c.mirrored = none) →
      exec (.refuse o .refuse) s = .next (s.afterRound o .refuse (fun y => { y with graft := { s.graft with requested := false, state := .degraded } }))) ∧
    (∀ o old new epoch, let m : RoundMsg := .substitution old new epoch
      s.Hears o m →
      (o.h.src ≠ new → exec (.substitution o m) s = .next (s.afterRound o m (fun y => y))) ∧
      (o.h.src = new →
        (s.paired = true → old = s.ownFid → new = s.graft.partner → s.graft.epoch.toNat < epoch.toNat →
          (s.graft.role = .primary ∨ s.graft.role = .held) → s.graft.mirrorRounds = [] → s.graft.waits = [] → s.q.cmds = [] →
          exec (.substitution o m) s = .next (s.afterRound o m (fun y => { y with graft := { s.graft with
            role := .deposed, draining := false, deferred := [], acked := [], epoch := epoch } }))) ∧
        (∀ e r q, s.paired = false → s.rounds.table = [(e, r)] → Tab.find? r.partners old = some (new, q) → q.toNat < epoch.toNat →
          r.participants.contains old = true → r.state.isAborted = false → s.formed? (tkey r.part r.policy.trellis) = none →
          ∃ t, exec (.substitution o m) s = .next t ∧ Only [.rounds, .spetar, .isl, .graft] s t ∧ RoundIs s t e
            { r.moveToken old with partners := Tab.insert r.partners old (new, epoch), replaced := Tab.insert r.replaced old new }))) ∧
    (∀ a h seq epoch item, let f : FabOut := .mirror h seq epoch item
      let y := s.tookFrame a f
      (s.takes a f = true → s.paired = false ∨ s.graft.port ≠ a.port.val → exec (.mirrorItem a h seq epoch item) s = .next y) ∧
      (s.PartnerSends a f → s.graft.role ≠ .secondary ∨ epoch.toNat < s.graft.epoch.toNat ∨ seq ≠ s.graft.appliedSeq →
        exec (.mirrorItem a h seq epoch item) s = .next y) ∧
      (∀ p id seg e r, s.PartnerSends a f → s.graft.role = .secondary → s.graft.epoch.toNat ≤ epoch.toNat → seq = s.graft.appliedSeq →
        item = .mark p id seg → s.shadowEntry (Fin.ofNat 64 p) id.toNat = some e → s.round? e = some r →
        ∃ t, exec (.mirrorItem a h seq epoch item) s = .next t ∧ Only [.graft, .rounds, .spetar, .isl] s t ∧ RoundIs s t e (r.mirrorMark seg) ∧
          t.graft = { s.graft with appliedSeq := seq + 1 } ∧
          t.spetar = (y.toPartner s.graft.partner (.mirrorAck seq s.graft.epoch Status.ok.code s.now)).spetar)) ∧
    (∀ a h seq epoch status commit, let m : RoundMsg := .mirrorAck seq epoch status commit
      let y := s.tookFrame a (.graft h m)
      s.PartnerSends a (.graft h m) → s.graft.draining = false →
      (Tab.find? s.graft.waits seq = none ∨ epoch.toNat < s.graft.epoch.toNat → exec (.mirrorAck a h m) s = .next y) ∧
      (∀ k, s.graft.epoch.toNat ≤ epoch.toNat →
        (Tab.find? s.graft.waits seq = some .nothing ∨ (Tab.find? s.graft.waits seq = some (.mark k) ∧ s.gate? k = none)) →
        exec (.mirrorAck a h m) s =
          .next { y with graft := { s.graft with waits := Tab.erase s.graft.waits seq, acked := Tab.erase s.graft.acked seq } }))
end

