-- ==== Sys2Proof/Laws/Tab.lean ====
section
/-!
SUPPORT. Laws of sparse tables: a read after a write to the same key gives the value written, every other key reads as
before, and every operation keeps the canonical form.
-/

namespace Sys2Proof

variable {α : Type}

theorem Tab.find?_insert_same (t : Tab α) (k : Nat) (v : α) : Tab.find? (Tab.insert t k v) k = some v := by
  induction t with
  | nil => simp [Tab.insert, Tab.find?]
  | cons e t ih =>
    obtain ⟨j, w⟩ := e
    simp only [Tab.insert]
    split
    · simp [Tab.find?]
    · split
      · simp [Tab.find?]
      · rename_i h
        simp [Tab.find?, h, ih]

theorem Tab.find?_insert_other (t : Tab α) {k n : Nat} (v : α) (h : n ≠ k) : Tab.find? (Tab.insert t k v) n = Tab.find? t n := by
  induction t with
  | nil => simp [Tab.insert, Tab.find?, h]
  | cons e t ih =>
    obtain ⟨j, w⟩ := e
    simp only [Tab.insert]
    split
    · simp [Tab.find?, h]
    · split
      · rename_i hk
        subst hk
        simp [Tab.find?, h]
      · simp [Tab.find?, ih]

@[simp] theorem Tab.get_insert_same (t : Tab α) (d : α) (k : Nat) (v : α) : Tab.get (Tab.insert t k v) d k = v := by
  simp [Tab.get, Tab.find?_insert_same]

@[simp] theorem Tab.get_insert_other (t : Tab α) (d : α) {k n : Nat} (v : α) (h : n ≠ k) :
    Tab.get (Tab.insert t k v) d n = Tab.get t d n := by
  simp [Tab.get, Tab.find?_insert_other t v h]

/-- A table whose keys rise lists nothing at a key below its first. -/
theorem Tab.find?_lt_head {j k : Nat} {w : α} {t : Tab α} (h : Tab.sorted ((j, w) :: t) = true) (hk : k ≤ j) : Tab.find? t k = none := by
  induction t generalizing j w with
  | nil => rfl
  | cons e t ih =>
    obtain ⟨i, x⟩ := e
    simp only [Tab.sorted, Bool.and_eq_true, decide_eq_true_eq] at h
    simp only [Tab.find?]
    rw [if_neg (by omega)]
    exact ih h.2 (by omega)

theorem Tab.sorted_tail {e : Nat × α} {t : Tab α} (h : Tab.sorted (e :: t) = true) : Tab.sorted t = true := by
  cases t with
  | nil => rfl
  | cons f t => simp only [Tab.sorted, Bool.and_eq_true] at h; exact h.2

theorem Tab.find?_erase_same (t : Tab α) (k : Nat) (h : Tab.sorted t = true) : Tab.find? (Tab.erase t k) k = none := by
  induction t with
  | nil => rfl
  | cons e t ih =>
    obtain ⟨j, w⟩ := e
    simp only [Tab.erase]
    split
    · rename_i hk
      subst hk
      exact Tab.find?_lt_head h (Nat.le_refl _)
    · rename_i hk
      simp only [Tab.find?, hk, if_false]
      exact ih (Tab.sorted_tail h)

theorem Tab.find?_erase_other (t : Tab α) {k n : Nat} (h : n ≠ k) : Tab.find? (Tab.erase t k) n = Tab.find? t n := by
  induction t with
  | nil => rfl
  | cons e t ih =>
    obtain ⟨j, w⟩ := e
    simp only [Tab.erase]
    split
    · rename_i hk
      subst hk
      simp [Tab.find?, h]
    · simp [Tab.find?, ih]

theorem Tab.get_set_same [DecidableEq α] (t : Tab α) (d : α) (k : Nat) (v : α) (h : Tab.sorted t = true) :
    Tab.get (Tab.set t d k v) d k = v := by
  unfold Tab.set
  split
  · simp [Tab.get, Tab.find?_erase_same t k h, *]
  · simp

theorem Tab.get_set_other [DecidableEq α] (t : Tab α) (d : α) {k n : Nat} (v : α) (h : n ≠ k) :
    Tab.get (Tab.set t d k v) d n = Tab.get t d n := by
  unfold Tab.set
  split
  · simp [Tab.get, Tab.find?_erase_other t h]
  · simp [h]

theorem Tab.sorted_cons {j : Nat} {w : α} {t : Tab α} (ht : Tab.sorted t = true) (h : ∀ e ∈ t, j < e.1) : Tab.sorted ((j, w) :: t) = true := by
  cases t with
  | nil => rfl
  | cons f t =>
    obtain ⟨i, x⟩ := f
    simp only [Tab.sorted, Bool.and_eq_true, decide_eq_true_eq]
    exact ⟨h (i, x) (by simp), ht⟩

theorem Tab.sorted_head_lt {j : Nat} {w : α} {t : Tab α} (h : Tab.sorted ((j, w) :: t) = true) : ∀ e ∈ t, j < e.1 := by
  induction t generalizing j w with
  | nil => simp
  | cons f t ih =>
    obtain ⟨i, x⟩ := f
    simp only [Tab.sorted, Bool.and_eq_true, decide_eq_true_eq] at h
    intro e he
    rcases List.mem_cons.1 he with rfl | he
    · exact h.1
    · exact Nat.lt_trans h.1 (ih h.2 e he)

theorem Tab.mem_erase {t : Tab α} {k : Nat} {e : Nat × α} (h : e ∈ Tab.erase t k) : e ∈ t := by
  induction t with
  | nil => simp [Tab.erase] at h
  | cons f t ih =>
    obtain ⟨j, w⟩ := f
    simp only [Tab.erase] at h
    split at h
    · exact List.mem_cons_of_mem _ h
    · rcases List.mem_cons.1 h with rfl | h
      · simp
      · exact List.mem_cons_of_mem _ (ih h)

theorem Tab.mem_insert {t : Tab α} {k : Nat} {v : α} {e : Nat × α} (h : e ∈ Tab.insert t k v) : e = (k, v) ∨ e ∈ t := by
  induction t with
  | nil => simp only [Tab.insert, List.mem_singleton] at h; exact Or.inl h
  | cons f t ih =>
    obtain ⟨j, w⟩ := f
    simp only [Tab.insert] at h
    split at h
    · rcases List.mem_cons.1 h with rfl | h
      · exact Or.inl rfl
      · exact Or.inr h
    · split at h
      · rcases List.mem_cons.1 h with rfl | h
        · exact Or.inl rfl
        · exact Or.inr (List.mem_cons_of_mem _ h)
      · rcases List.mem_cons.1 h with rfl | h
        · exact Or.inr (by simp)
        · rcases ih h with rfl | h
          · exact Or.inl rfl
          · exact Or.inr (List.mem_cons_of_mem _ h)

theorem Tab.sorted_erase {t : Tab α} (k : Nat) (h : Tab.sorted t = true) : Tab.sorted (Tab.erase t k) = true := by
  induction t with
  | nil => rfl
  | cons f t ih =>
    obtain ⟨j, w⟩ := f
    simp only [Tab.erase]
    split
    · exact Tab.sorted_tail h
    · exact Tab.sorted_cons (ih (Tab.sorted_tail h)) (fun e he => Tab.sorted_head_lt h e (Tab.mem_erase he))

theorem Tab.sorted_insert {t : Tab α} (k : Nat) (v : α) (h : Tab.sorted t = true) : Tab.sorted (Tab.insert t k v) = true := by
  induction t with
  | nil => rfl
  | cons f t ih =>
    obtain ⟨j, w⟩ := f
    simp only [Tab.insert]
    split
    · rename_i hk
      exact Tab.sorted_cons h (fun e he => by
        rcases List.mem_cons.1 he with rfl | he
        · exact hk
        · exact Nat.lt_trans hk (Tab.sorted_head_lt h e he))
    · split
      · rename_i hk
        subst hk
        exact Tab.sorted_cons (Tab.sorted_tail h) (Tab.sorted_head_lt h)
      · exact Tab.sorted_cons (ih (Tab.sorted_tail h)) (fun e he => by
          rcases Tab.mem_insert he with rfl | he
          · simp only; omega
          · exact Tab.sorted_head_lt h e he)

theorem Tab.wf_iff [DecidableEq α] {d : α} {t : Tab α} : Tab.wf d t = true ↔ Tab.sorted t = true ∧ ∀ e ∈ t, e.2 ≠ d := by
  simp [Tab.wf]

theorem Tab.wf_set [DecidableEq α] {d : α} {t : Tab α} (k : Nat) (v : α) (h : Tab.wf d t = true) : Tab.wf d (Tab.set t d k v) = true := by
  rw [Tab.wf_iff] at h ⊢
  unfold Tab.set
  split
  · exact ⟨Tab.sorted_erase k h.1, fun e he => h.2 e (Tab.mem_erase he)⟩
  · rename_i hv
    exact ⟨Tab.sorted_insert k v h.1, fun e he => by
      rcases Tab.mem_insert he with rfl | he
      · exact hv
      · exact h.2 e he⟩

theorem Tab.sorted_filter {t : Tab α} (p : Nat → α → Bool) (h : Tab.sorted t = true) : Tab.sorted (Tab.filter p t) = true := by
  induction t with
  | nil => rfl
  | cons f t ih =>
    obtain ⟨j, w⟩ := f
    have ht := ih (Tab.sorted_tail h)
    unfold Tab.filter at ht ⊢
    by_cases hp : p j w = true
    · rw [List.filter_cons_of_pos (by simpa using hp)]
      exact Tab.sorted_cons ht (fun e he => Tab.sorted_head_lt h e (List.mem_filter.1 he).1)
    · rw [List.filter_cons_of_neg (by simpa using hp)]
      exact ht

theorem Tab.wf_filter [DecidableEq α] {d : α} {t : Tab α} (p : Nat → α → Bool) (h : Tab.wf d t = true) : Tab.wf d (Tab.filter p t) = true := by
  rw [Tab.wf_iff] at h ⊢
  exact ⟨Tab.sorted_filter p h.1, fun e he => h.2 e (List.mem_filter.1 he).1⟩

/-- Equal tables read equal: two canonical tables that read the same at every key are the same list. -/
theorem Tab.find?_eq_none_of_lt {t : Tab α} {k : Nat} (h : ∀ e ∈ t, k < e.1) : Tab.find? t k = none := by
  induction t with
  | nil => rfl
  | cons f t ih =>
    obtain ⟨j, w⟩ := f
    have : k < j := h (j, w) (by simp)
    simp only [Tab.find?]
    rw [if_neg (by omega)]
    exact ih (fun e he => h e (List.mem_cons_of_mem _ he))

theorem Tab.ext_of_wf [DecidableEq α] {d : α} : ∀ {t u : Tab α}, Tab.wf d t = true → Tab.wf d u = true →
    (∀ k, Tab.get t d k = Tab.get u d k) → t = u
  | [], [], _, _, _ => rfl
  | [], (j, w) :: u, _, hu, h => by
    have := h j
    simp only [Tab.get, Tab.find?, if_true, Option.getD_none, Option.getD_some] at this
    exact absurd this.symm ((Tab.wf_iff.1 hu).2 (j, w) (by simp))
  | (j, w) :: t, [], ht, _, h => by
    have := h j
    simp only [Tab.get, Tab.find?, if_true, Option.getD_none, Option.getD_some] at this
    exact absurd this ((Tab.wf_iff.1 ht).2 (j, w) (by simp))
  | (j, w) :: t, (i, x) :: u, ht, hu, h => by
    have ht' := Tab.wf_iff.1 ht
    have hu' := Tab.wf_iff.1 hu
    have hji : j = i := by
      rcases Nat.lt_trichotomy j i with hlt | heq | hgt
      · have := h j
        rw [show Tab.get ((i, x) :: u) d j = d by
          unfold Tab.get
          rw [Tab.find?_eq_none_of_lt (fun e he => by
            rcases List.mem_cons.1 he with rfl | he
            · exact hlt
            · exact Nat.lt_trans hlt (Tab.sorted_head_lt hu'.1 e he))]
          rfl] at this
        simp only [Tab.get, Tab.find?, if_true, Option.getD_some] at this
        exact absurd this (ht'.2 (j, w) (by simp))
      · exact heq
      · have := h i
        rw [show Tab.get ((j, w) :: t) d i = d by
          unfold Tab.get
          rw [Tab.find?_eq_none_of_lt (fun e he => by
            rcases List.mem_cons.1 he with rfl | he
            · exact hgt
            · exact Nat.lt_trans hgt (Tab.sorted_head_lt ht'.1 e he))]
          rfl] at this
        simp only [Tab.get, Tab.find?, if_true, Option.getD_some] at this
        exact absurd this.symm (hu'.2 (i, x) (by simp))
    subst hji
    have hwx : w = x := by
      have := h j
      simpa [Tab.get, Tab.find?] using this
    subst hwx
    have htu : t = u := Tab.ext_of_wf
      (Tab.wf_iff.2 ⟨Tab.sorted_tail ht'.1, fun e he => ht'.2 e (List.mem_cons_of_mem _ he)⟩)
      (Tab.wf_iff.2 ⟨Tab.sorted_tail hu'.1, fun e he => hu'.2 e (List.mem_cons_of_mem _ he)⟩)
      (fun k => by
        rcases Nat.lt_or_ge j k with hk | hk
        · have := h k
          simpa [Tab.get, Tab.find?, Nat.ne_of_gt hk] using this
        · simp [Tab.get, Tab.find?_lt_head ht'.1 hk, Tab.find?_lt_head hu'.1 hk])
    rw [htu]

@[simp] theorem Tab.find?_map {α β : Type} (f : Nat → α → β) (t : Tab α) (k : Nat) : Tab.find? (Tab.map f t) k = (Tab.find? t k).map (f k) := by
  induction t with
  | nil => rfl
  | cons e t ih =>
    obtain ⟨j, v⟩ := e
    show Tab.find? ((j, f j v) :: Tab.map f t) k = _
    unfold Tab.find?
    split
    · rename_i h; rw [h]; rfl
    · exact ih

@[simp] theorem Tab.insert_insert_same {α : Type} (t : Tab α) (k : Nat) (a b : α) : Tab.insert (Tab.insert t k a) k b = Tab.insert t k b := by
  induction t with
  | nil =>
    show Tab.insert [(k, a)] k b = [(k, b)]
    unfold Tab.insert
    rw [if_neg (Nat.lt_irrefl k), if_pos rfl]
  | cons e t ih =>
    obtain ⟨j, w⟩ := e
    by_cases h1 : k < j
    · have e1 : Tab.insert ((j, w) :: t) k a = (k, a) :: (j, w) :: t := by
        show (if k < j then _ else _) = _
        rw [if_pos h1]
      have e2 : Tab.insert ((j, w) :: t) k b = (k, b) :: (j, w) :: t := by
        show (if k < j then _ else _) = _
        rw [if_pos h1]
      rw [e1, e2]
      show (if k < k then _ else if k = k then _ else _) = _
      rw [if_neg (Nat.lt_irrefl k), if_pos rfl]
    · by_cases h2 : k = j
      · have e1 : Tab.insert ((j, w) :: t) k a = (k, a) :: t := by
          show (if k < j then _ else if k = j then _ else _) = _
          rw [if_neg h1, if_pos h2]
        have e2 : Tab.insert ((j, w) :: t) k b = (k, b) :: t := by
          show (if k < j then _ else if k = j then _ else _) = _
          rw [if_neg h1, if_pos h2]
        rw [e1, e2]
        show (if k < k then _ else if k = k then _ else _) = _
        rw [if_neg (Nat.lt_irrefl k), if_pos rfl]
      · have e1 : ∀ v, Tab.insert ((j, w) :: t) k v = (j, w) :: Tab.insert t k v := by
          intro v
          show (if k < j then _ else if k = j then _ else _) = _
          rw [if_neg h1, if_neg h2]
        rw [e1 a, e1 b]
        show (if k < j then _ else if k = j then _ else _) = _
        rw [if_neg h1, if_neg h2, ih]

end Sys2Proof
end

