-- ==== Sys2Proof/Laws/State.lean ====
section
/-!
SUPPORT. One lemma for each unit of State and each of its named updates: what the update leaves, and what a read after it gives.
-/

namespace Sys2Proof.Machine
open Sys2Proof

@[simp] theorem setIsland_kelri (s : State) (d : Island) (r : IslandRec) : (s.setIsland d r).kelri = s.kelri := rfl
@[simp] theorem setIsland_q (s : State) (d : Island) (r : IslandRec) : (s.setIsland d r).q = s.q := rfl
@[simp] theorem setIsland_hif (s : State) (d : Island) (r : IslandRec) : (s.setIsland d r).hif = s.hif := rfl
@[simp] theorem setIsland_rounds (s : State) (d : Island) (r : IslandRec) : (s.setIsland d r).rounds = s.rounds := rfl
@[simp] theorem setIsland_time (s : State) (d : Island) (r : IslandRec) : (s.setIsland d r).time = s.time := rfl
@[simp] theorem setIsland_plot (s : State) (d : Island) (r : IslandRec) : (s.setIsland d r).plot = s.plot := rfl
@[simp] theorem setIsland_trellis (s : State) (d : Island) (r : IslandRec) : (s.setIsland d r).trellis = s.trellis := rfl
@[simp] theorem setIsland_spetar (s : State) (d : Island) (r : IslandRec) : (s.setIsland d r).spetar = s.spetar := rfl
@[simp] theorem setIsland_graft (s : State) (d : Island) (r : IslandRec) : (s.setIsland d r).graft = s.graft := rfl
@[simp] theorem setIsland_part (s : State) (d : Island) (r : IslandRec) : (s.setIsland d r).part = s.part := rfl
@[simp] theorem setIsland_shed (s : State) (d : Island) (r : IslandRec) : (s.setIsland d r).shed = s.shed := rfl
@[simp] theorem setIsland_attest (s : State) (d : Island) (r : IslandRec) : (s.setIsland d r).attest = s.attest := rfl
@[simp] theorem setIsland_random (s : State) (d : Island) (r : IslandRec) : (s.setIsland d r).random = s.random := rfl
@[simp] theorem setIsland_mgmt (s : State) (d : Island) (r : IslandRec) : (s.setIsland d r).mgmt = s.mgmt := rfl
@[simp] theorem setIsland_power (s : State) (d : Island) (r : IslandRec) : (s.setIsland d r).power = s.power := rfl
@[simp] theorem setIsland_err (s : State) (d : Island) (r : IslandRec) : (s.setIsland d r).err = s.err := rfl
@[simp] theorem setIsland_reg (s : State) (d : Island) (r : IslandRec) : (s.setIsland d r).reg = s.reg := rfl
@[simp] theorem setIsland_freeCtr (s : State) (d : Island) (r : IslandRec) : (s.setIsland d r).freeCtr = s.freeCtr := rfl
@[simp] theorem setIsland_pending (s : State) (d : Island) (r : IslandRec) : (s.setIsland d r).pending = s.pending := rfl

@[simp] theorem setQueue_isl (s : State) (src : Source) (r : Queue) : (s.setQueue src r).isl = s.isl := rfl
@[simp] theorem setQueue_kelri (s : State) (src : Source) (r : Queue) : (s.setQueue src r).kelri = s.kelri := rfl
@[simp] theorem setQueue_hif (s : State) (src : Source) (r : Queue) : (s.setQueue src r).hif = s.hif := rfl
@[simp] theorem setQueue_rounds (s : State) (src : Source) (r : Queue) : (s.setQueue src r).rounds = s.rounds := rfl
@[simp] theorem setQueue_time (s : State) (src : Source) (r : Queue) : (s.setQueue src r).time = s.time := rfl
@[simp] theorem setQueue_plot (s : State) (src : Source) (r : Queue) : (s.setQueue src r).plot = s.plot := rfl
@[simp] theorem setQueue_trellis (s : State) (src : Source) (r : Queue) : (s.setQueue src r).trellis = s.trellis := rfl
@[simp] theorem setQueue_spetar (s : State) (src : Source) (r : Queue) : (s.setQueue src r).spetar = s.spetar := rfl
@[simp] theorem setQueue_graft (s : State) (src : Source) (r : Queue) : (s.setQueue src r).graft = s.graft := rfl
@[simp] theorem setQueue_part (s : State) (src : Source) (r : Queue) : (s.setQueue src r).part = s.part := rfl
@[simp] theorem setQueue_shed (s : State) (src : Source) (r : Queue) : (s.setQueue src r).shed = s.shed := rfl
@[simp] theorem setQueue_attest (s : State) (src : Source) (r : Queue) : (s.setQueue src r).attest = s.attest := rfl
@[simp] theorem setQueue_random (s : State) (src : Source) (r : Queue) : (s.setQueue src r).random = s.random := rfl
@[simp] theorem setQueue_mgmt (s : State) (src : Source) (r : Queue) : (s.setQueue src r).mgmt = s.mgmt := rfl
@[simp] theorem setQueue_power (s : State) (src : Source) (r : Queue) : (s.setQueue src r).power = s.power := rfl
@[simp] theorem setQueue_err (s : State) (src : Source) (r : Queue) : (s.setQueue src r).err = s.err := rfl
@[simp] theorem setQueue_reg (s : State) (src : Source) (r : Queue) : (s.setQueue src r).reg = s.reg := rfl
@[simp] theorem setQueue_freeCtr (s : State) (src : Source) (r : Queue) : (s.setQueue src r).freeCtr = s.freeCtr := rfl
@[simp] theorem setQueue_pending (s : State) (src : Source) (r : Queue) : (s.setQueue src r).pending = s.pending := rfl

@[simp] theorem setCmds_isl (s : State) (l : List Cmd) : (s.setCmds l).isl = s.isl := rfl
@[simp] theorem setCmds_kelri (s : State) (l : List Cmd) : (s.setCmds l).kelri = s.kelri := rfl
@[simp] theorem setCmds_hif (s : State) (l : List Cmd) : (s.setCmds l).hif = s.hif := rfl
@[simp] theorem setCmds_rounds (s : State) (l : List Cmd) : (s.setCmds l).rounds = s.rounds := rfl
@[simp] theorem setCmds_time (s : State) (l : List Cmd) : (s.setCmds l).time = s.time := rfl
@[simp] theorem setCmds_plot (s : State) (l : List Cmd) : (s.setCmds l).plot = s.plot := rfl
@[simp] theorem setCmds_trellis (s : State) (l : List Cmd) : (s.setCmds l).trellis = s.trellis := rfl
@[simp] theorem setCmds_spetar (s : State) (l : List Cmd) : (s.setCmds l).spetar = s.spetar := rfl
@[simp] theorem setCmds_graft (s : State) (l : List Cmd) : (s.setCmds l).graft = s.graft := rfl
@[simp] theorem setCmds_part (s : State) (l : List Cmd) : (s.setCmds l).part = s.part := rfl
@[simp] theorem setCmds_shed (s : State) (l : List Cmd) : (s.setCmds l).shed = s.shed := rfl
@[simp] theorem setCmds_attest (s : State) (l : List Cmd) : (s.setCmds l).attest = s.attest := rfl
@[simp] theorem setCmds_random (s : State) (l : List Cmd) : (s.setCmds l).random = s.random := rfl
@[simp] theorem setCmds_mgmt (s : State) (l : List Cmd) : (s.setCmds l).mgmt = s.mgmt := rfl
@[simp] theorem setCmds_power (s : State) (l : List Cmd) : (s.setCmds l).power = s.power := rfl
@[simp] theorem setCmds_err (s : State) (l : List Cmd) : (s.setCmds l).err = s.err := rfl
@[simp] theorem setCmds_reg (s : State) (l : List Cmd) : (s.setCmds l).reg = s.reg := rfl
@[simp] theorem setCmds_freeCtr (s : State) (l : List Cmd) : (s.setCmds l).freeCtr = s.freeCtr := rfl
@[simp] theorem setCmds_pending (s : State) (l : List Cmd) : (s.setCmds l).pending = s.pending := rfl

@[simp] theorem setLease_isl (s : State) (c i : Nat) (l : Lease) : (s.setLease c i l).isl = s.isl := rfl
@[simp] theorem setLease_kelri (s : State) (c i : Nat) (l : Lease) : (s.setLease c i l).kelri = s.kelri := rfl
@[simp] theorem setLease_hif (s : State) (c i : Nat) (l : Lease) : (s.setLease c i l).hif = s.hif := rfl
@[simp] theorem setLease_rounds (s : State) (c i : Nat) (l : Lease) : (s.setLease c i l).rounds = s.rounds := rfl
@[simp] theorem setLease_time (s : State) (c i : Nat) (l : Lease) : (s.setLease c i l).time = s.time := rfl
@[simp] theorem setLease_plot (s : State) (c i : Nat) (l : Lease) : (s.setLease c i l).plot = s.plot := rfl
@[simp] theorem setLease_trellis (s : State) (c i : Nat) (l : Lease) : (s.setLease c i l).trellis = s.trellis := rfl
@[simp] theorem setLease_spetar (s : State) (c i : Nat) (l : Lease) : (s.setLease c i l).spetar = s.spetar := rfl
@[simp] theorem setLease_graft (s : State) (c i : Nat) (l : Lease) : (s.setLease c i l).graft = s.graft := rfl
@[simp] theorem setLease_part (s : State) (c i : Nat) (l : Lease) : (s.setLease c i l).part = s.part := rfl
@[simp] theorem setLease_shed (s : State) (c i : Nat) (l : Lease) : (s.setLease c i l).shed = s.shed := rfl
@[simp] theorem setLease_attest (s : State) (c i : Nat) (l : Lease) : (s.setLease c i l).attest = s.attest := rfl
@[simp] theorem setLease_random (s : State) (c i : Nat) (l : Lease) : (s.setLease c i l).random = s.random := rfl
@[simp] theorem setLease_mgmt (s : State) (c i : Nat) (l : Lease) : (s.setLease c i l).mgmt = s.mgmt := rfl
@[simp] theorem setLease_power (s : State) (c i : Nat) (l : Lease) : (s.setLease c i l).power = s.power := rfl
@[simp] theorem setLease_err (s : State) (c i : Nat) (l : Lease) : (s.setLease c i l).err = s.err := rfl
@[simp] theorem setLease_reg (s : State) (c i : Nat) (l : Lease) : (s.setLease c i l).reg = s.reg := rfl
@[simp] theorem setLease_freeCtr (s : State) (c i : Nat) (l : Lease) : (s.setLease c i l).freeCtr = s.freeCtr := rfl
@[simp] theorem setLease_pending (s : State) (c i : Nat) (l : Lease) : (s.setLease c i l).pending = s.pending := rfl

@[simp] theorem dropLease_isl (s : State) (c i : Nat) : (s.dropLease c i).isl = s.isl := rfl
@[simp] theorem dropLease_kelri (s : State) (c i : Nat) : (s.dropLease c i).kelri = s.kelri := rfl
@[simp] theorem dropLease_hif (s : State) (c i : Nat) : (s.dropLease c i).hif = s.hif := rfl
@[simp] theorem dropLease_rounds (s : State) (c i : Nat) : (s.dropLease c i).rounds = s.rounds := rfl
@[simp] theorem dropLease_time (s : State) (c i : Nat) : (s.dropLease c i).time = s.time := rfl
@[simp] theorem dropLease_plot (s : State) (c i : Nat) : (s.dropLease c i).plot = s.plot := rfl
@[simp] theorem dropLease_trellis (s : State) (c i : Nat) : (s.dropLease c i).trellis = s.trellis := rfl
@[simp] theorem dropLease_spetar (s : State) (c i : Nat) : (s.dropLease c i).spetar = s.spetar := rfl
@[simp] theorem dropLease_graft (s : State) (c i : Nat) : (s.dropLease c i).graft = s.graft := rfl
@[simp] theorem dropLease_part (s : State) (c i : Nat) : (s.dropLease c i).part = s.part := rfl
@[simp] theorem dropLease_shed (s : State) (c i : Nat) : (s.dropLease c i).shed = s.shed := rfl
@[simp] theorem dropLease_attest (s : State) (c i : Nat) : (s.dropLease c i).attest = s.attest := rfl
@[simp] theorem dropLease_random (s : State) (c i : Nat) : (s.dropLease c i).random = s.random := rfl
@[simp] theorem dropLease_mgmt (s : State) (c i : Nat) : (s.dropLease c i).mgmt = s.mgmt := rfl
@[simp] theorem dropLease_power (s : State) (c i : Nat) : (s.dropLease c i).power = s.power := rfl
@[simp] theorem dropLease_err (s : State) (c i : Nat) : (s.dropLease c i).err = s.err := rfl
@[simp] theorem dropLease_reg (s : State) (c i : Nat) : (s.dropLease c i).reg = s.reg := rfl
@[simp] theorem dropLease_freeCtr (s : State) (c i : Nat) : (s.dropLease c i).freeCtr = s.freeCtr := rfl
@[simp] theorem dropLease_pending (s : State) (c i : Nat) : (s.dropLease c i).pending = s.pending := rfl

@[simp] theorem setTask_isl (s : State) (t : TaskId) (r : Task) : (s.setTask t r).isl = s.isl := rfl
@[simp] theorem setTask_kelri (s : State) (t : TaskId) (r : Task) : (s.setTask t r).kelri = s.kelri := rfl
@[simp] theorem setTask_hif (s : State) (t : TaskId) (r : Task) : (s.setTask t r).hif = s.hif := rfl
@[simp] theorem setTask_rounds (s : State) (t : TaskId) (r : Task) : (s.setTask t r).rounds = s.rounds := rfl
@[simp] theorem setTask_time (s : State) (t : TaskId) (r : Task) : (s.setTask t r).time = s.time := rfl
@[simp] theorem setTask_plot (s : State) (t : TaskId) (r : Task) : (s.setTask t r).plot = s.plot := rfl
@[simp] theorem setTask_trellis (s : State) (t : TaskId) (r : Task) : (s.setTask t r).trellis = s.trellis := rfl
@[simp] theorem setTask_spetar (s : State) (t : TaskId) (r : Task) : (s.setTask t r).spetar = s.spetar := rfl
@[simp] theorem setTask_graft (s : State) (t : TaskId) (r : Task) : (s.setTask t r).graft = s.graft := rfl
@[simp] theorem setTask_part (s : State) (t : TaskId) (r : Task) : (s.setTask t r).part = s.part := rfl
@[simp] theorem setTask_shed (s : State) (t : TaskId) (r : Task) : (s.setTask t r).shed = s.shed := rfl
@[simp] theorem setTask_attest (s : State) (t : TaskId) (r : Task) : (s.setTask t r).attest = s.attest := rfl
@[simp] theorem setTask_random (s : State) (t : TaskId) (r : Task) : (s.setTask t r).random = s.random := rfl
@[simp] theorem setTask_mgmt (s : State) (t : TaskId) (r : Task) : (s.setTask t r).mgmt = s.mgmt := rfl
@[simp] theorem setTask_power (s : State) (t : TaskId) (r : Task) : (s.setTask t r).power = s.power := rfl
@[simp] theorem setTask_err (s : State) (t : TaskId) (r : Task) : (s.setTask t r).err = s.err := rfl
@[simp] theorem setTask_reg (s : State) (t : TaskId) (r : Task) : (s.setTask t r).reg = s.reg := rfl
@[simp] theorem setTask_freeCtr (s : State) (t : TaskId) (r : Task) : (s.setTask t r).freeCtr = s.freeCtr := rfl
@[simp] theorem setTask_pending (s : State) (t : TaskId) (r : Task) : (s.setTask t r).pending = s.pending := rfl

@[simp] theorem wakeTasks_isl (s : State) (f : Nat → Task → Task) : (s.wakeTasks f).isl = s.isl := rfl
@[simp] theorem wakeTasks_kelri (s : State) (f : Nat → Task → Task) : (s.wakeTasks f).kelri = s.kelri := rfl
@[simp] theorem wakeTasks_hif (s : State) (f : Nat → Task → Task) : (s.wakeTasks f).hif = s.hif := rfl
@[simp] theorem wakeTasks_rounds (s : State) (f : Nat → Task → Task) : (s.wakeTasks f).rounds = s.rounds := rfl
@[simp] theorem wakeTasks_time (s : State) (f : Nat → Task → Task) : (s.wakeTasks f).time = s.time := rfl
@[simp] theorem wakeTasks_plot (s : State) (f : Nat → Task → Task) : (s.wakeTasks f).plot = s.plot := rfl
@[simp] theorem wakeTasks_trellis (s : State) (f : Nat → Task → Task) : (s.wakeTasks f).trellis = s.trellis := rfl
@[simp] theorem wakeTasks_spetar (s : State) (f : Nat → Task → Task) : (s.wakeTasks f).spetar = s.spetar := rfl
@[simp] theorem wakeTasks_graft (s : State) (f : Nat → Task → Task) : (s.wakeTasks f).graft = s.graft := rfl
@[simp] theorem wakeTasks_part (s : State) (f : Nat → Task → Task) : (s.wakeTasks f).part = s.part := rfl
@[simp] theorem wakeTasks_shed (s : State) (f : Nat → Task → Task) : (s.wakeTasks f).shed = s.shed := rfl
@[simp] theorem wakeTasks_attest (s : State) (f : Nat → Task → Task) : (s.wakeTasks f).attest = s.attest := rfl
@[simp] theorem wakeTasks_random (s : State) (f : Nat → Task → Task) : (s.wakeTasks f).random = s.random := rfl
@[simp] theorem wakeTasks_mgmt (s : State) (f : Nat → Task → Task) : (s.wakeTasks f).mgmt = s.mgmt := rfl
@[simp] theorem wakeTasks_power (s : State) (f : Nat → Task → Task) : (s.wakeTasks f).power = s.power := rfl
@[simp] theorem wakeTasks_err (s : State) (f : Nat → Task → Task) : (s.wakeTasks f).err = s.err := rfl
@[simp] theorem wakeTasks_reg (s : State) (f : Nat → Task → Task) : (s.wakeTasks f).reg = s.reg := rfl
@[simp] theorem wakeTasks_pending (s : State) (f : Nat → Task → Task) : (s.wakeTasks f).pending = s.pending := rfl
@[simp] theorem wakeTasks_tasks (s : State) (f : Nat → Task → Task) : (s.wakeTasks f).q.tasks = Tab.map f s.q.tasks := rfl
@[simp] theorem wakeTasks_queues (s : State) (f : Nat → Task → Task) : (s.wakeTasks f).q.queues = s.q.queues := rfl
@[simp] theorem wakeTasks_cmds (s : State) (f : Nat → Task → Task) : (s.wakeTasks f).q.cmds = s.q.cmds := rfl
@[simp] theorem wakeTasks_fences (s : State) (f : Nat → Task → Task) : (s.wakeTasks f).q.fences = s.q.fences := rfl

@[simp] theorem setFence_isl (s : State) (k : Nat) (v : W64) : (s.setFence k v).isl = s.isl := rfl
@[simp] theorem setFence_kelri (s : State) (k : Nat) (v : W64) : (s.setFence k v).kelri = s.kelri := rfl
@[simp] theorem setFence_hif (s : State) (k : Nat) (v : W64) : (s.setFence k v).hif = s.hif := rfl
@[simp] theorem setFence_rounds (s : State) (k : Nat) (v : W64) : (s.setFence k v).rounds = s.rounds := rfl
@[simp] theorem setFence_time (s : State) (k : Nat) (v : W64) : (s.setFence k v).time = s.time := rfl
@[simp] theorem setFence_plot (s : State) (k : Nat) (v : W64) : (s.setFence k v).plot = s.plot := rfl
@[simp] theorem setFence_trellis (s : State) (k : Nat) (v : W64) : (s.setFence k v).trellis = s.trellis := rfl
@[simp] theorem setFence_spetar (s : State) (k : Nat) (v : W64) : (s.setFence k v).spetar = s.spetar := rfl
@[simp] theorem setFence_graft (s : State) (k : Nat) (v : W64) : (s.setFence k v).graft = s.graft := rfl
@[simp] theorem setFence_part (s : State) (k : Nat) (v : W64) : (s.setFence k v).part = s.part := rfl
@[simp] theorem setFence_shed (s : State) (k : Nat) (v : W64) : (s.setFence k v).shed = s.shed := rfl
@[simp] theorem setFence_attest (s : State) (k : Nat) (v : W64) : (s.setFence k v).attest = s.attest := rfl
@[simp] theorem setFence_random (s : State) (k : Nat) (v : W64) : (s.setFence k v).random = s.random := rfl
@[simp] theorem setFence_mgmt (s : State) (k : Nat) (v : W64) : (s.setFence k v).mgmt = s.mgmt := rfl
@[simp] theorem setFence_power (s : State) (k : Nat) (v : W64) : (s.setFence k v).power = s.power := rfl
@[simp] theorem setFence_err (s : State) (k : Nat) (v : W64) : (s.setFence k v).err = s.err := rfl
@[simp] theorem setFence_reg (s : State) (k : Nat) (v : W64) : (s.setFence k v).reg = s.reg := rfl
@[simp] theorem setFence_pending (s : State) (k : Nat) (v : W64) : (s.setFence k v).pending = s.pending := rfl

@[simp] theorem setPartition_isl (s : State) (p : Fin 64) (r : Partition) : (s.setPartition p r).isl = s.isl := rfl
@[simp] theorem setPartition_kelri (s : State) (p : Fin 64) (r : Partition) : (s.setPartition p r).kelri = s.kelri := rfl
@[simp] theorem setPartition_q (s : State) (p : Fin 64) (r : Partition) : (s.setPartition p r).q = s.q := rfl
@[simp] theorem setPartition_hif (s : State) (p : Fin 64) (r : Partition) : (s.setPartition p r).hif = s.hif := rfl
@[simp] theorem setPartition_rounds (s : State) (p : Fin 64) (r : Partition) : (s.setPartition p r).rounds = s.rounds := rfl
@[simp] theorem setPartition_time (s : State) (p : Fin 64) (r : Partition) : (s.setPartition p r).time = s.time := rfl
@[simp] theorem setPartition_plot (s : State) (p : Fin 64) (r : Partition) : (s.setPartition p r).plot = s.plot := rfl
@[simp] theorem setPartition_trellis (s : State) (p : Fin 64) (r : Partition) : (s.setPartition p r).trellis = s.trellis := rfl
@[simp] theorem setPartition_spetar (s : State) (p : Fin 64) (r : Partition) : (s.setPartition p r).spetar = s.spetar := rfl
@[simp] theorem setPartition_graft (s : State) (p : Fin 64) (r : Partition) : (s.setPartition p r).graft = s.graft := rfl
@[simp] theorem setPartition_shed (s : State) (p : Fin 64) (r : Partition) : (s.setPartition p r).shed = s.shed := rfl
@[simp] theorem setPartition_attest (s : State) (p : Fin 64) (r : Partition) : (s.setPartition p r).attest = s.attest := rfl
@[simp] theorem setPartition_random (s : State) (p : Fin 64) (r : Partition) : (s.setPartition p r).random = s.random := rfl
@[simp] theorem setPartition_mgmt (s : State) (p : Fin 64) (r : Partition) : (s.setPartition p r).mgmt = s.mgmt := rfl
@[simp] theorem setPartition_power (s : State) (p : Fin 64) (r : Partition) : (s.setPartition p r).power = s.power := rfl
@[simp] theorem setPartition_err (s : State) (p : Fin 64) (r : Partition) : (s.setPartition p r).err = s.err := rfl
@[simp] theorem setPartition_reg (s : State) (p : Fin 64) (r : Partition) : (s.setPartition p r).reg = s.reg := rfl
@[simp] theorem setPartition_freeCtr (s : State) (p : Fin 64) (r : Partition) : (s.setPartition p r).freeCtr = s.freeCtr := rfl
@[simp] theorem setPartition_pending (s : State) (p : Fin 64) (r : Partition) : (s.setPartition p r).pending = s.pending := rfl

@[simp] theorem setPort_isl (s : State) (n : Nat) (p : Port) : (s.setPort n p).isl = s.isl := rfl
@[simp] theorem setPort_kelri (s : State) (n : Nat) (p : Port) : (s.setPort n p).kelri = s.kelri := rfl
@[simp] theorem setPort_q (s : State) (n : Nat) (p : Port) : (s.setPort n p).q = s.q := rfl
@[simp] theorem setPort_hif (s : State) (n : Nat) (p : Port) : (s.setPort n p).hif = s.hif := rfl
@[simp] theorem setPort_rounds (s : State) (n : Nat) (p : Port) : (s.setPort n p).rounds = s.rounds := rfl
@[simp] theorem setPort_time (s : State) (n : Nat) (p : Port) : (s.setPort n p).time = s.time := rfl
@[simp] theorem setPort_plot (s : State) (n : Nat) (p : Port) : (s.setPort n p).plot = s.plot := rfl
@[simp] theorem setPort_trellis (s : State) (n : Nat) (p : Port) : (s.setPort n p).trellis = s.trellis := rfl
@[simp] theorem setPort_graft (s : State) (n : Nat) (p : Port) : (s.setPort n p).graft = s.graft := rfl
@[simp] theorem setPort_part (s : State) (n : Nat) (p : Port) : (s.setPort n p).part = s.part := rfl
@[simp] theorem setPort_shed (s : State) (n : Nat) (p : Port) : (s.setPort n p).shed = s.shed := rfl
@[simp] theorem setPort_attest (s : State) (n : Nat) (p : Port) : (s.setPort n p).attest = s.attest := rfl
@[simp] theorem setPort_random (s : State) (n : Nat) (p : Port) : (s.setPort n p).random = s.random := rfl
@[simp] theorem setPort_mgmt (s : State) (n : Nat) (p : Port) : (s.setPort n p).mgmt = s.mgmt := rfl
@[simp] theorem setPort_power (s : State) (n : Nat) (p : Port) : (s.setPort n p).power = s.power := rfl
@[simp] theorem setPort_err (s : State) (n : Nat) (p : Port) : (s.setPort n p).err = s.err := rfl
@[simp] theorem setPort_reg (s : State) (n : Nat) (p : Port) : (s.setPort n p).reg = s.reg := rfl
@[simp] theorem setPort_freeCtr (s : State) (n : Nat) (p : Port) : (s.setPort n p).freeCtr = s.freeCtr := rfl
@[simp] theorem setPort_pending (s : State) (n : Nat) (p : Port) : (s.setPort n p).pending = s.pending := rfl

@[simp] theorem setDest_isl (s : State) (d : Nat) (r : Dest) : (s.setDest d r).isl = s.isl := rfl
@[simp] theorem setDest_kelri (s : State) (d : Nat) (r : Dest) : (s.setDest d r).kelri = s.kelri := rfl
@[simp] theorem setDest_q (s : State) (d : Nat) (r : Dest) : (s.setDest d r).q = s.q := rfl
@[simp] theorem setDest_hif (s : State) (d : Nat) (r : Dest) : (s.setDest d r).hif = s.hif := rfl
@[simp] theorem setDest_rounds (s : State) (d : Nat) (r : Dest) : (s.setDest d r).rounds = s.rounds := rfl
@[simp] theorem setDest_time (s : State) (d : Nat) (r : Dest) : (s.setDest d r).time = s.time := rfl
@[simp] theorem setDest_plot (s : State) (d : Nat) (r : Dest) : (s.setDest d r).plot = s.plot := rfl
@[simp] theorem setDest_trellis (s : State) (d : Nat) (r : Dest) : (s.setDest d r).trellis = s.trellis := rfl
@[simp] theorem setDest_graft (s : State) (d : Nat) (r : Dest) : (s.setDest d r).graft = s.graft := rfl
@[simp] theorem setDest_part (s : State) (d : Nat) (r : Dest) : (s.setDest d r).part = s.part := rfl
@[simp] theorem setDest_shed (s : State) (d : Nat) (r : Dest) : (s.setDest d r).shed = s.shed := rfl
@[simp] theorem setDest_attest (s : State) (d : Nat) (r : Dest) : (s.setDest d r).attest = s.attest := rfl
@[simp] theorem setDest_random (s : State) (d : Nat) (r : Dest) : (s.setDest d r).random = s.random := rfl
@[simp] theorem setDest_mgmt (s : State) (d : Nat) (r : Dest) : (s.setDest d r).mgmt = s.mgmt := rfl
@[simp] theorem setDest_power (s : State) (d : Nat) (r : Dest) : (s.setDest d r).power = s.power := rfl
@[simp] theorem setDest_err (s : State) (d : Nat) (r : Dest) : (s.setDest d r).err = s.err := rfl
@[simp] theorem setDest_reg (s : State) (d : Nat) (r : Dest) : (s.setDest d r).reg = s.reg := rfl
@[simp] theorem setDest_freeCtr (s : State) (d : Nat) (r : Dest) : (s.setDest d r).freeCtr = s.freeCtr := rfl
@[simp] theorem setDest_pending (s : State) (d : Nat) (r : Dest) : (s.setDest d r).pending = s.pending := rfl

@[simp] theorem setOe_isl (s : State) (e : Nat) (o : Oe) : (s.setOe e o).isl = s.isl := rfl
@[simp] theorem setOe_kelri (s : State) (e : Nat) (o : Oe) : (s.setOe e o).kelri = s.kelri := rfl
@[simp] theorem setOe_q (s : State) (e : Nat) (o : Oe) : (s.setOe e o).q = s.q := rfl
@[simp] theorem setOe_hif (s : State) (e : Nat) (o : Oe) : (s.setOe e o).hif = s.hif := rfl
@[simp] theorem setOe_rounds (s : State) (e : Nat) (o : Oe) : (s.setOe e o).rounds = s.rounds := rfl
@[simp] theorem setOe_time (s : State) (e : Nat) (o : Oe) : (s.setOe e o).time = s.time := rfl
@[simp] theorem setOe_plot (s : State) (e : Nat) (o : Oe) : (s.setOe e o).plot = s.plot := rfl
@[simp] theorem setOe_trellis (s : State) (e : Nat) (o : Oe) : (s.setOe e o).trellis = s.trellis := rfl
@[simp] theorem setOe_graft (s : State) (e : Nat) (o : Oe) : (s.setOe e o).graft = s.graft := rfl
@[simp] theorem setOe_part (s : State) (e : Nat) (o : Oe) : (s.setOe e o).part = s.part := rfl
@[simp] theorem setOe_shed (s : State) (e : Nat) (o : Oe) : (s.setOe e o).shed = s.shed := rfl
@[simp] theorem setOe_attest (s : State) (e : Nat) (o : Oe) : (s.setOe e o).attest = s.attest := rfl
@[simp] theorem setOe_random (s : State) (e : Nat) (o : Oe) : (s.setOe e o).random = s.random := rfl
@[simp] theorem setOe_mgmt (s : State) (e : Nat) (o : Oe) : (s.setOe e o).mgmt = s.mgmt := rfl
@[simp] theorem setOe_power (s : State) (e : Nat) (o : Oe) : (s.setOe e o).power = s.power := rfl
@[simp] theorem setOe_err (s : State) (e : Nat) (o : Oe) : (s.setOe e o).err = s.err := rfl
@[simp] theorem setOe_reg (s : State) (e : Nat) (o : Oe) : (s.setOe e o).reg = s.reg := rfl
@[simp] theorem setOe_freeCtr (s : State) (e : Nat) (o : Oe) : (s.setOe e o).freeCtr = s.freeCtr := rfl
@[simp] theorem setOe_pending (s : State) (e : Nat) (o : Oe) : (s.setOe e o).pending = s.pending := rfl

@[simp] theorem setGate_isl (s : State) (k : Nat) (g : GateSlot) : (s.setGate k g).isl = s.isl := rfl
@[simp] theorem setGate_kelri (s : State) (k : Nat) (g : GateSlot) : (s.setGate k g).kelri = s.kelri := rfl
@[simp] theorem setGate_q (s : State) (k : Nat) (g : GateSlot) : (s.setGate k g).q = s.q := rfl
@[simp] theorem setGate_hif (s : State) (k : Nat) (g : GateSlot) : (s.setGate k g).hif = s.hif := rfl
@[simp] theorem setGate_time (s : State) (k : Nat) (g : GateSlot) : (s.setGate k g).time = s.time := rfl
@[simp] theorem setGate_plot (s : State) (k : Nat) (g : GateSlot) : (s.setGate k g).plot = s.plot := rfl
@[simp] theorem setGate_trellis (s : State) (k : Nat) (g : GateSlot) : (s.setGate k g).trellis = s.trellis := rfl
@[simp] theorem setGate_spetar (s : State) (k : Nat) (g : GateSlot) : (s.setGate k g).spetar = s.spetar := rfl
@[simp] theorem setGate_graft (s : State) (k : Nat) (g : GateSlot) : (s.setGate k g).graft = s.graft := rfl
@[simp] theorem setGate_part (s : State) (k : Nat) (g : GateSlot) : (s.setGate k g).part = s.part := rfl
@[simp] theorem setGate_shed (s : State) (k : Nat) (g : GateSlot) : (s.setGate k g).shed = s.shed := rfl
@[simp] theorem setGate_attest (s : State) (k : Nat) (g : GateSlot) : (s.setGate k g).attest = s.attest := rfl
@[simp] theorem setGate_random (s : State) (k : Nat) (g : GateSlot) : (s.setGate k g).random = s.random := rfl
@[simp] theorem setGate_mgmt (s : State) (k : Nat) (g : GateSlot) : (s.setGate k g).mgmt = s.mgmt := rfl
@[simp] theorem setGate_power (s : State) (k : Nat) (g : GateSlot) : (s.setGate k g).power = s.power := rfl
@[simp] theorem setGate_err (s : State) (k : Nat) (g : GateSlot) : (s.setGate k g).err = s.err := rfl
@[simp] theorem setGate_reg (s : State) (k : Nat) (g : GateSlot) : (s.setGate k g).reg = s.reg := rfl
@[simp] theorem setGate_freeCtr (s : State) (k : Nat) (g : GateSlot) : (s.setGate k g).freeCtr = s.freeCtr := rfl
@[simp] theorem setGate_pending (s : State) (k : Nat) (g : GateSlot) : (s.setGate k g).pending = s.pending := rfl

/-- A numbered bit of a word is its bit. -/
theorem bit_toNat {w : Nat} (v : BitVec w) (n : Nat) : bit v.toNat n = v.getLsbD n := by
  show decide (v.toNat / 2 ^ n % 2 = 1) = v.getLsbD n
  rw [← BitVec.testBit_toNat, Nat.testBit_eq_decide_div_mod_eq]

@[simp] theorem State.queue_setQueue (s : State) (src : Source) (r : Queue) : (s.setQueue src r).queue src = r := by
  unfold State.queue State.setQueue
  simp

@[simp] theorem State.cmdsOf_setQueue (s : State) (src x : Source) (r : Queue) : (s.setQueue src r).cmdsOf x = s.cmdsOf x := rfl

@[simp] theorem State.setQueue_setQueue (s : State) (src : Source) (a b : Queue) : (s.setQueue src a).setQueue src b = s.setQueue src b := by
  unfold State.setQueue
  simp only [Tab.insert_insert_same]

@[simp] theorem State.setPartition_setPartition (s : State) (p : Fin 64) (a b : Partition) :
    (s.setPartition p a).setPartition p b = s.setPartition p b := by
  unfold State.setPartition
  simp only [Tab.insert_insert_same]

@[simp] theorem State.partition?_setPartition (s : State) (p : Fin 64) (r : Partition) : (s.setPartition p r).partition? p = some r :=
  Tab.find?_insert_same _ _ _

theorem State.modPartition_some {s : State} {p : Fin 64} {r : Partition} (h : s.partition? p = some r) (f : Partition → Partition) :
    s.modPartition p f = s.setPartition p (f r) := by
  unfold State.modPartition
  rw [h]

@[simp] theorem State.setCmds_cmds (s : State) (l : List Cmd) : (s.setCmds l).q.cmds = l := rfl

@[simp] theorem State.lease?_setLease (s : State) (c i : Nat) (l : Lease) : (s.setLease c i l).lease? c i = some l :=
  Tab.find?_insert_same _ _ _

/-! ### Source tags (R65), views, tasks, Beds and gate slots -/

/-- An island's ID names it. -/
@[simp] theorem islandOfId_islandId (d : Island) : islandOfId (islandId d) = some d := by
  cases d with
  | plot k => revert k; decide +kernel
  | sow k => revert k; decide +kernel
  | memc k => revert k; decide +kernel
  | oe k => revert k; decide +kernel
  | _ => rfl

theorem islandId_lt (d : Island) : islandId d < 256 := by
  cases d <;> simp only [islandId] <;> omega

/-- A request tagged now is not stale. -/
@[simp] theorem State.staleTag_sourceTag (s : State) (d : Island) : s.staleTag (s.sourceTag d) = false := by
  unfold State.staleTag State.sourceTag
  simp [Nat.mod_eq_of_lt (islandId_lt d)]

/-- A request tagged before its source's epoch moved on is stale. -/
theorem State.staleTag_epoch {s : State} {d : Island} {e : W16} (h : (s.island d).epoch ≠ e) :
    s.staleTag { island := BitVec.ofNat 8 (islandId d), epoch := e } = true := by
  unfold State.staleTag
  simp [Nat.mod_eq_of_lt (islandId_lt d), h]

@[simp] theorem KelriView.step_valid (v : KelriView) : v.step.valid = v.valid := by
  unfold KelriView.step
  split <;> rfl

@[simp] theorem KelriView.step_fw (v : KelriView) : v.step.fw = v.fw := by
  unfold KelriView.step
  split <;> rfl

@[simp] theorem State.gate?_setGate (s : State) (k : Nat) (g : GateSlot) : (s.setGate k g).gate? k = some g :=
  Tab.find?_insert_same _ _ _

theorem State.bed_setBed {s : State} (h : Tab.sorted s.rounds.beds = true) (k : Nat) (b : BedSower) : (s.setBed k b).bed k = b :=
  Tab.get_set_same _ _ _ _ h

@[simp] theorem State.setTask_tasks (s : State) (t : TaskId) (r : Task) : (s.setTask t r).q.tasks = Tab.set s.q.tasks {} (taskKey t) r := rfl

end Sys2Proof.Machine
end

