-- ==== Sys2Proof/Laws/Arrivals.lean ====
section
/-!
SUPPORT. What an arriving frame does before its own effect: handed on, or dropped; a ROUND packet acted on, refused, or met a second
time; a message of a Trellis or a round brought to its effect.
-/

namespace Sys2Proof.Machine
open Sys2Proof

theorem receive_taken {s : State} {a : Arrival} {o : FabOut} (h : s.takes a o = true) (act : State → State) :
    s.receive a o act = act (s.tookFrame a o) := by
  simp only [State.takes, Bool.and_eq_true, beq_iff_eq] at h
  obtain ⟨⟨h1, h2⟩, h3⟩ := h
  simp only [State.receive, h1, h2, bne_self_eq_false, Bool.or_self, Bool.false_eq_true, if_false]
  rw [if_pos h3]
  rfl

/-- Of a port that is not ACTIVE nothing is handed on (R538), nor a frame out of LSEQ order (R531). -/
theorem receive_dropped {s : State} {a : Arrival} (h : (s.port a.port.val).state ≠ .active ∨ a.lseq ≠ (s.port a.port.val).expected) (o : FabOut)
    (act : State → State) : s.receive a o act = s := by
  unfold State.receive
  rw [if_pos]
  rcases h with h | h <;> simp [h]

/-- A ROUND packet that comes in is acted on, or refused where its cold frame differs (R504). -/
theorem takeRound_comes {s : State} {o : RoundIn} {m : RoundMsg} (h : s.Comes o m) (act : State → State) :
    s.takeRound o m act =
      if s.sameFrame o m then (act (s.atMessage o m)).responded o .ok else (s.atMessage o m).responded o .notPermitted := by
  unfold State.takeRound
  rw [receive_taken h.takes]
  have h1 : (s.tookFrame o.via (.message 0 o.h m)).inTransit o.h = false := by
    change (s.running .fab && s.spetar.fid.any (· != o.h.dst)) = false
    rw [h.here]; simp
  have h2 : (s.tookFrame o.via (.message 0 o.h m)).accepts = true := h.accepts
  have h3 : (s.tookFrame o.via (.message 0 o.h m)).expired o.h = false := h.inTime
  have h4 : (s.tookFrame o.via (.message 0 o.h m)).seen o.h = .new := h.fresh
  have h5 : (s.tookFrame o.via (.message 0 o.h m)).spetar.fid = some o.h.dst := h.here
  simp only [h1, Bool.false_eq_true, if_false, State.arrive, h5, bne_self_eq_false, h2, Bool.not_true, Bool.false_or, h3, h4]
  change (match (if (RoundMsg.part m).any (fun p => s.isCold (Fin.ofNat 64 p) != o.h.cold) then
      (Status.notPermitted, s.tookFrame o.via (.message 0 o.h m)) else (.ok, act (s.tookFrame o.via (.message 0 o.h m)))) with
    | (st, s) => (s.noteApplied o.h st).acknowledge o.h st) = _
  unfold State.sameFrame
  by_cases c : (RoundMsg.part m).any (fun p => s.isCold (Fin.ofNat 64 p) != o.h.cold) = true
  · rw [if_pos c, if_neg (by rw [c]; decide)]; rfl
  · rw [if_neg c, if_pos (by rw [Bool.not_eq_true] at c; rw [c]; rfl)]; rfl

theorem takeRound_heard {s : State} {o : RoundIn} {m : RoundMsg} (h : s.Hears o m) (act : State → State) :
    s.takeRound o m act = s.afterRound o m act := by
  rw [takeRound_comes h.1, if_pos h.2]; rfl

theorem onTree_agreed {s : State} {x : TreeId} (h : s.agreesTree x = true) (n : Nat) (key : Option SumKey) (act : State → State) :
    s.onTree n x key act = act s := by
  simp only [State.agreesTree, Bool.and_eq_true, Bool.not_eq_true'] at h
  unfold State.onTree
  simp only [h.1, h.2, Bool.false_eq_true, if_false]

theorem onNamed_found {s : State} {part : Nat} {id : W32} {n e o : Nat} {r : Round} (h : s.Finds part id n e r o) (m : RoundMsg) (act : Nat → Nat → State) :
    s.onNamed part id (fun e => s.onMessage e n m (act e)) = act e o := by
  unfold State.onNamed State.onMessage
  simp only [h.entry, h.round, h.origin, h.plain, Bool.false_eq_true, if_false]

end Sys2Proof.Machine
end

