-- ==== Sys2Proof/Laws/Cipher.lean ====
section
/-!
SUPPORT. AES-256 and the key wrap: decryption undoes encryption under every key, and a wrapped key unwraps. The S-box and the field
products are checked on all 256 bytes, on numbers.
-/

namespace Sys2Proof.Machine
open Sys2Proof

/-- `f` of `n`, evaluated first. -/
def forced {α : Type} (n : Nat) (f : Nat → α) : α :=
  match n with
  | 0 => f 0
  | k + 1 => f (k + 1)

theorem forced_eq {α : Type} (n : Nat) (f : Nat → α) : forced n f = f n := by cases n <;> rfl

def xtimeNat (a : Nat) : Nat := (2 * a % 256) ^^^ (27 * (a / 128))

/-- `gmulAux` on numbers, with an accumulator. -/
def mulNat : Nat → Nat → Nat → Nat → Nat
  | 0, _, _, acc => acc
  | n + 1, a, b, acc => forced (acc ^^^ (a * (b % 2))) (fun acc => forced (xtimeNat a) (fun a => forced (b / 2) (fun b => mulNat n a b acc)))

theorem xtime_toNat : ∀ a : Byte, (xtime a).toNat = xtimeNat a.toNat := by decide +kernel

theorem mulNat_eq (n : Nat) : ∀ (a b : Byte) (acc : Nat), mulNat n a.toNat b.toNat acc = acc ^^^ (gmulAux n a b).toNat := by
  induction n with
  | zero => exact fun _ _ acc => (Nat.xor_zero acc).symm
  | succ n ih =>
    intro a b acc
    have hb : b.toNat / 2 = (b >>> 1).toNat := by simp [Nat.shiftRight_eq_div_pow]
    unfold mulNat gmulAux
    rw [forced_eq, forced_eq, forced_eq, ← xtime_toNat, hb, ih, BitVec.toNat_xor, Nat.xor_assoc]
    congr 2
    have h := BitVec.getLsbD_eq_getElem (x := b) (i := 0) (by decide)
    by_cases k : b.toNat % 2 = 1
    · have : b.getLsbD 0 = true := by simp [BitVec.getLsbD, Nat.testBit_zero, k]
      rw [this, k]
      simp
    · have : b.getLsbD 0 = false := by simp [BitVec.getLsbD, Nat.testBit_zero, k]
      rw [this, show b.toNat % 2 = 0 by omega]
      simp

def mul8 (a b : Nat) : Nat := mulNat 8 a b 0

theorem gmul_toNat (a b : Byte) : (gmul a b).toNat = mul8 a.toNat b.toNat := by
  unfold mul8
  rw [mulNat_eq, Nat.zero_xor]
  rfl

def invNat (b : Nat) : Nat :=
  forced (mul8 b b) (fun b2 => forced (mul8 b2 b2) (fun b4 => forced (mul8 b4 b4) (fun b8 => forced (mul8 b8 b8) (fun b16 =>
    forced (mul8 b16 b16) (fun b32 => forced (mul8 b32 b32) (fun b64 => forced (mul8 b64 b64) (fun b128 =>
      forced (mul8 b4 b2) (fun x => forced (mul8 b8 x) (fun x => forced (mul8 b16 x) (fun x => forced (mul8 b32 x) (fun x =>
        forced (mul8 b64 x) (fun x => mul8 b128 x))))))))))))

theorem ginv_toNat (b : Byte) : (ginv b).toNat = invNat b.toNat := by
  unfold ginv invNat
  simp only [forced_eq, gmul_toNat]

theorem invNat_involutive : (List.range 256).all (fun n => forced (invNat n) (fun m => invNat m == n)) = true := by decide +kernel

theorem ginv_involutive (b : Byte) : ginv (ginv b) = b := by
  apply BitVec.eq_of_toNat_eq
  have h := List.all_eq_true.mp invNat_involutive b.toNat (List.mem_range.mpr b.isLt)
  rw [forced_eq, beq_iff_eq] at h
  rw [ginv_toNat, ginv_toNat, h]

def rotNat (k x : Nat) : Nat := (x <<< k) % 256 ||| x >>> (8 - k)

theorem affine_numbers : (List.range 256).all (fun x =>
    forced (x ^^^ rotNat 1 x ^^^ rotNat 2 x ^^^ rotNat 3 x ^^^ rotNat 4 x ^^^ 0x63) (fun y =>
      rotNat 1 y ^^^ rotNat 3 y ^^^ rotNat 6 y ^^^ 0x05 == x)) = true := by decide +kernel

/-- The affine map of the S-box undone. -/
theorem affine_inverts (x : Byte) :
    (let y := x ^^^ x.rotateLeft 1 ^^^ x.rotateLeft 2 ^^^ x.rotateLeft 3 ^^^ x.rotateLeft 4 ^^^ 0x63
     y.rotateLeft 1 ^^^ y.rotateLeft 3 ^^^ y.rotateLeft 6 ^^^ 0x05) = x := by
  have h := List.all_eq_true.mp affine_numbers x.toNat (List.mem_range.mpr x.isLt)
  rw [forced_eq, beq_iff_eq] at h
  apply BitVec.eq_of_toNat_eq
  simp only [BitVec.toNat_xor, BitVec.toNat_rotateLeft]
  exact h

theorem sbox_injective {a b : Byte} (h : sbox a = sbox b) : a = b := by
  have e : ginv a = ginv b := by
    rw [← affine_inverts (ginv a), ← affine_inverts (ginv b)]
    exact congrArg (fun y : Byte => y.rotateLeft 1 ^^^ y.rotateLeft 3 ^^^ y.rotateLeft 6 ^^^ 0x05) h
  rw [← ginv_involutive a, ← ginv_involutive b, e]

theorem sboxTable_toList : sboxTable.toList = (List.range 256).map (fun n => sbox (BitVec.ofNat 8 n)) := by simp [sboxTable]

theorem subByte_eq (b : Byte) : subByte b = sbox b := by
  unfold subByte
  have h : b.toNat < 256 := b.isLt
  simp [sboxTable, Array.getD, h]

theorem invSbox_subByte (b : Byte) : invSbox (subByte b) = b := by
  unfold invSbox
  rw [subByte_eq, sboxTable_toList]
  have h : ((List.range 256).map (fun n => sbox (BitVec.ofNat 8 n))).findIdx? (· == sbox b) = some b.toNat := by
    rw [List.findIdx?_eq_some_iff_getElem]
    have hb : b.toNat < 256 := b.isLt
    refine ⟨by simpa using hb, by simp, fun j hj => ?_⟩
    have hj' : j < b.toNat := hj
    simp only [List.getElem_map, List.getElem_range, Bool.not_eq_true, beq_eq_false_iff_ne]
    intro e
    have := congrArg BitVec.toNat (sbox_injective e)
    rw [BitVec.toNat_ofNat] at this
    omega
  rw [h]
  simp

theorem gmulAux_xor (n : Nat) : ∀ a x y : Byte, gmulAux n a (x ^^^ y) = gmulAux n a x ^^^ gmulAux n a y := by
  induction n with
  | zero => exact fun _ _ _ => (BitVec.xor_self (x := (0 : Byte))).symm
  | succ n ih =>
    intro a x y
    unfold gmulAux
    rw [BitVec.getLsbD_xor, BitVec.ushiftRight_xor_distrib, ih]
    generalize gmulAux n (xtime a) (x >>> 1) = u
    generalize gmulAux n (xtime a) (y >>> 1) = v
    have z (t : Byte) : (0 : Byte) ^^^ t = t := BitVec.zero_xor
    cases x.getLsbD 0 <;> cases y.getLsbD 0 <;>
      simp only [Bool.xor_false, Bool.xor_true, Bool.not_false, Bool.not_true, if_true, if_false, Bool.false_eq_true, z]
    · ac_rfl
    · ac_rfl
    · rw [show a ^^^ u ^^^ (a ^^^ v) = a ^^^ a ^^^ (u ^^^ v) by ac_rfl, BitVec.xor_self]
      exact (z _).symm

theorem gmul_xor (c x y : Byte) : gmul c (x ^^^ y) = gmul c x ^^^ gmul c y := gmulAux_xor 8 c x y

theorem mix_numbers : (List.range 256).all (fun x =>
    (mul8 14 (xtimeNat x) ^^^ mul8 11 x ^^^ mul8 13 x ^^^ (mul8 9 (xtimeNat x) ^^^ mul8 9 x) == x) &&
    ((mul8 14 (xtimeNat x) ^^^ mul8 14 x) ^^^ mul8 11 (xtimeNat x) ^^^ mul8 13 x ^^^ mul8 9 x == 0) &&
    (mul8 14 x ^^^ (mul8 11 (xtimeNat x) ^^^ mul8 11 x) ^^^ mul8 13 (xtimeNat x) ^^^ mul8 9 x == 0) &&
    (mul8 14 x ^^^ mul8 11 x ^^^ (mul8 13 (xtimeNat x) ^^^ mul8 13 x) ^^^ mul8 9 (xtimeNat x) == 0)) = true := by decide +kernel

/-- The inverse column matrix times the column matrix, coefficient by coefficient. -/
theorem mix_coefficients (x : Byte) :
    gmul 14 (xtime x) ^^^ gmul 11 x ^^^ gmul 13 x ^^^ (gmul 9 (xtime x) ^^^ gmul 9 x) = x ∧
    (gmul 14 (xtime x) ^^^ gmul 14 x) ^^^ gmul 11 (xtime x) ^^^ gmul 13 x ^^^ gmul 9 x = 0 ∧
    gmul 14 x ^^^ (gmul 11 (xtime x) ^^^ gmul 11 x) ^^^ gmul 13 (xtime x) ^^^ gmul 9 x = 0 ∧
    gmul 14 x ^^^ gmul 11 x ^^^ (gmul 13 (xtime x) ^^^ gmul 13 x) ^^^ gmul 9 (xtime x) = 0 := by
  have h := List.all_eq_true.mp mix_numbers x.toNat (List.mem_range.mpr x.isLt)
  simp only [Bool.and_eq_true, beq_iff_eq] at h
  obtain ⟨⟨⟨h1, h2⟩, h3⟩, h4⟩ := h
  refine ⟨BitVec.eq_of_toNat_eq ?_, BitVec.eq_of_toNat_eq ?_, BitVec.eq_of_toNat_eq ?_, BitVec.eq_of_toNat_eq ?_⟩ <;>
    simp only [BitVec.toNat_xor, gmul_toNat, xtime_toNat]
  · exact h1
  · exact h2
  · exact h3
  · exact h4

theorem xor4 {p v w x y z : Byte} (e : p = w ^^^ x ^^^ y ^^^ z) (hw : w = v) (hx : x = 0) (hy : y = 0) (hz : z = 0) : p = v := by
  have h (t : Byte) : t ^^^ 0 = t := BitVec.xor_zero
  rw [e, hw, hx, hy, hz, h, h, h]

/-- One row of the product. -/
theorem mix_row (a b c d : Byte) :
    gmul 14 (xtime a ^^^ (xtime b ^^^ b) ^^^ c ^^^ d) ^^^ gmul 11 (a ^^^ xtime b ^^^ (xtime c ^^^ c) ^^^ d) ^^^
      gmul 13 (a ^^^ b ^^^ xtime c ^^^ (xtime d ^^^ d)) ^^^ gmul 9 ((xtime a ^^^ a) ^^^ b ^^^ c ^^^ xtime d) = a := by
  obtain ⟨ha, _⟩ := mix_coefficients a
  obtain ⟨_, hb, _⟩ := mix_coefficients b
  obtain ⟨_, _, hc, _⟩ := mix_coefficients c
  obtain ⟨_, _, _, hd⟩ := mix_coefficients d
  exact xor4 (by simp only [gmul_xor]; ac_rfl) ha hb hc hd

theorem congr_cons {a b : Byte} {s t : Bytes} (h : a = b) (k : s = t) : a :: s = b :: t := by rw [h, k]

theorem mix_inverts (a b c d : Byte) : invMixColumn (mixColumn [a, b, c, d]) = [a, b, c, d] := by
  have h1 := mix_row a b c d
  have h2 := mix_row b c d a
  have h3 := mix_row c d a b
  have h4 := mix_row d a b c
  refine congr_cons (Eq.trans ?_ h1) (congr_cons (Eq.trans ?_ h2) (congr_cons (Eq.trans ?_ h3) (congr_cons (Eq.trans ?_ h4) rfl)))
  · rfl
  · show gmul 14 _ ^^^ gmul 11 _ ^^^ gmul 13 _ ^^^ gmul 9 _ = _
    congr 1; congr 1; congr 1
    all_goals (congr 1; ac_rfl)
  · show gmul 14 _ ^^^ gmul 11 _ ^^^ gmul 13 _ ^^^ gmul 9 _ = _
    congr 1; congr 1; congr 1
    all_goals (congr 1; ac_rfl)
  · show gmul 14 _ ^^^ gmul 11 _ ^^^ gmul 13 _ ^^^ gmul 9 _ = _
    congr 1; congr 1; congr 1
    all_goals (congr 1; ac_rfl)


/-! ### One block of AES -/

theorem getD_of_lt {l : List Bytes} {i : Nat} (h : i < l.length) : l.getD i [] = l[i] := by simp [List.getD, h]

theorem xorBytes_length {a b : Bytes} (h : b.length = a.length) : (xorBytes a b).length = a.length := by simp [xorBytes, h]

theorem xorBytes_cancel : ∀ {a b : Bytes}, b.length = a.length → xorBytes (xorBytes a b) b = a
  | [], _, _ => rfl
  | x :: a, [], h => by simp at h
  | x :: a, y :: b, h => by
    have e : x ^^^ y ^^^ y = x := by rw [BitVec.xor_assoc, BitVec.xor_self]; exact BitVec.xor_zero
    show (x ^^^ y ^^^ y) :: xorBytes (xorBytes a b) b = _
    rw [e, xorBytes_cancel (by simpa using h)]

/-- SubBytes and ShiftRows. -/
def subShift (b : Bytes) : Bytes := shiftRows (b.map subByte)

def mixColumns (b : Bytes) : Bytes := (pieces 4 b).flatMap mixColumn

theorem subShift_length (b : Bytes) : (subShift b).length = 16 := by simp [subShift, shiftRows]

theorem subShift_inverts : ∀ {b : Bytes}, b.length = 16 → (invShiftRows (subShift b)).map invSbox = b
  | [a0, a1, a2, a3, a4, a5, a6, a7, a8, a9, a10, a11, a12, a13, a14, a15], _ => by
    show [invSbox (subByte a0), invSbox (subByte a1), invSbox (subByte a2), invSbox (subByte a3), invSbox (subByte a4), invSbox (subByte a5),
      invSbox (subByte a6), invSbox (subByte a7), invSbox (subByte a8), invSbox (subByte a9), invSbox (subByte a10), invSbox (subByte a11),
      invSbox (subByte a12), invSbox (subByte a13), invSbox (subByte a14), invSbox (subByte a15)] = _
    simp only [invSbox_subByte]

theorem mixColumns_inverts : ∀ {b : Bytes}, b.length = 16 → (mixColumns b).length = 16 ∧ (pieces 4 (mixColumns b)).flatMap invMixColumn = b
  | [a0, a1, a2, a3, a4, a5, a6, a7, a8, a9, a10, a11, a12, a13, a14, a15], _ => by
    refine ⟨rfl, ?_⟩
    show invMixColumn (mixColumn [a0, a1, a2, a3]) ++ (invMixColumn (mixColumn [a4, a5, a6, a7]) ++
      (invMixColumn (mixColumn [a8, a9, a10, a11]) ++ (invMixColumn (mixColumn [a12, a13, a14, a15]) ++ []))) = _
    simp only [mix_inverts]
    rfl

/-- The rounds undone, last key first: what is left is the input of the first, before its key. -/
theorem aesRounds_inverts : ∀ (ks : List Bytes) (k : Bytes) (x : Bytes) (pre : List Bytes), (∀ c ∈ k :: ks, c.length = 16) → x.length = 16 → pre ≠ [] →
    ∃ last t, (k :: ks).reverse = last :: t ∧ (aesRounds (k :: ks) x).length = 16 ∧
      aesInvRounds (t ++ pre) (xorBytes (aesRounds (k :: ks) x) last) = aesInvRounds pre (subShift x)
  | [], k, x, pre, hk, hx, _ => by
    have h : k.length = (subShift x).length := by rw [subShift_length, hk k (List.mem_singleton.mpr rfl)]
    refine ⟨k, [], rfl, (xorBytes_length h).trans (subShift_length x), ?_⟩
    show aesInvRounds pre (xorBytes (xorBytes (subShift x) k) k) = _
    rw [xorBytes_cancel h]
  | k' :: ks, k, x, pre, hk, hx, hp => by
    have m := mixColumns_inverts (subShift_length x)
    have h : k.length = (mixColumns (subShift x)).length := by rw [m.1, hk k (List.mem_cons_self ..)]
    obtain ⟨last, t, e, l, i⟩ := aesRounds_inverts ks k' (xorBytes (mixColumns (subShift x)) k) (k :: pre) (fun c hc => hk c (List.mem_cons_of_mem _ hc))
      ((xorBytes_length h).trans m.1) (List.cons_ne_nil _ _)
    refine ⟨last, t ++ [k], by rw [List.reverse_cons, e]; rfl, l, ?_⟩
    obtain ⟨p, ps, rfl⟩ := List.exists_cons_of_ne_nil hp
    rw [List.append_assoc]
    show aesInvRounds (t ++ k :: p :: ps) (xorBytes (aesRounds (k' :: ks) (xorBytes (mixColumns (subShift x)) k)) last) = _
    rw [i]
    show aesInvRounds (p :: ps) ((pieces 4 (xorBytes ((invShiftRows (subShift (xorBytes (mixColumns (subShift x)) k))).map invSbox) k)).flatMap invMixColumn) = _
    rw [subShift_inverts ((xorBytes_length h).trans m.1), xorBytes_cancel h, m.2]

/-- Decryption under the reversed keys undoes encryption. -/
theorem aesWith_inverts {ks : List Bytes} (h2 : 2 ≤ ks.length) (hk : ∀ c ∈ ks, c.length = 16) {b : Bytes} (hb : b.length = 16) :
    (aesWith ks b).length = 16 ∧ (match ks.reverse with
      | [] => aesWith ks b
      | k :: t => aesInvRounds t (xorBytes (aesWith ks b) k)) = b := by
  obtain ⟨k0, k1, t, rfl⟩ : ∃ k0 k1 t, ks = k0 :: k1 :: t := by
    match ks, h2 with
    | k0 :: k1 :: t, _ => exact ⟨k0, k1, t, rfl⟩
  have h0 : k0.length = b.length := by rw [hb, hk k0 (List.mem_cons_self ..)]
  obtain ⟨last, u, e, l, i⟩ := aesRounds_inverts t k1 (xorBytes b k0) [k0] (fun c hc => hk c (List.mem_cons_of_mem _ hc))
    ((xorBytes_length h0).trans hb) (List.cons_ne_nil _ _)
  refine ⟨l, ?_⟩
  rw [List.reverse_cons, e]
  show aesInvRounds (u ++ [k0]) (xorBytes (aesRounds (k1 :: t) (xorBytes b k0)) last) = b
  rw [i]
  show xorBytes ((invShiftRows (subShift (xorBytes b k0))).map invSbox) k0 = b
  rw [subShift_inverts ((xorBytes_length h0).trans hb), xorBytes_cancel h0]

/-! ### The key schedule -/

theorem aesExpand_words (n : Nat) : ∀ (k : Nat) (rc : Byte) (w : List Bytes), 8 ≤ w.length → (∀ c ∈ w, c.length = 4) →
    (aesExpand n k rc w).length = n + w.length ∧ ∀ c ∈ aesExpand n k rc w, c.length = 4 := by
  induction n with
  | zero => exact fun _ _ w _ h => ⟨(Nat.zero_add _).symm, h⟩
  | succ n ih =>
    intro k rc w hw h
    have g (i : Nat) (hi : i < 8) : (w.getD i []).length = 4 := by
      rw [getD_of_lt (by omega)]
      exact h _ (List.getElem_mem _)
    have rot (t : Bytes) (ht : t.length = 4) : (rotWord t).length = 4 := by
      match t, ht with
      | _ :: _, ht => simpa [rotWord] using ht
    unfold aesExpand
    dsimp only
    generalize ht : (if k % 8 = 0 then xorBytes (subWord (rotWord (w.getD 0 []))) [rc, 0, 0, 0]
      else if k % 8 = 4 then subWord (w.getD 0 []) else w.getD 0 []) = t
    have l : t.length = 4 := by
      rw [← ht]
      have g0 := g 0 (by omega)
      split
      · have r := rot _ g0
        have e : (subWord (rotWord (w.getD 0 []))).length = 4 := (List.length_map ..).trans r
        rw [xorBytes_length (by rw [e]; rfl), e]
      · split
        · simpa [subWord] using g0
        · exact g0
    have x : (xorBytes (w.getD 7 []) t).length = 4 := by
      rw [xorBytes_length (by rw [l, g 7 (by omega)]), g 7 (by omega)]
    have r := ih (k + 1) (if k % 8 = 0 then xtime rc else rc) (xorBytes (w.getD 7 []) t :: w) (by simp only [List.length_cons]; omega)
      (fun c hc => (List.mem_cons.mp hc).elim (fun e => e ▸ x) (h c))
    refine ⟨?_, r.2⟩
    rw [r.1, List.length_cons]
    omega

theorem flatten_length {n : Nat} {l : List Bytes} (h : ∀ c ∈ l, c.length = n) : l.flatten.length = l.length * n := by
  induction l with
  | nil => simp
  | cons a t ih =>
    rw [List.flatten_cons, List.length_append, ih (fun c hc => h c (List.mem_cons_of_mem _ hc)), h a (List.mem_cons_self ..), List.length_cons]
    rw [Nat.add_mul]
    omega

/-- A list of whole pieces, cut. -/
theorem piecesAux_flatten {n : Nat} (hn : 0 < n) : ∀ (l : List Bytes) (fuel : Nat), (∀ c ∈ l, c.length = n) → l.flatten.length ≤ fuel →
    piecesAux n fuel l.flatten = l
  | [], 0, _, _ => rfl
  | [], _ + 1, _, _ => rfl
  | a :: t, fuel, h, hf => by
    have ha := h a (List.mem_cons_self ..)
    obtain ⟨x, a', rfl⟩ := List.exists_cons_of_ne_nil (show a ≠ [] by rintro rfl; simp at ha; omega)
    rw [List.flatten_cons, List.length_append] at hf
    simp only [List.length_cons] at hf
    obtain ⟨f, rfl⟩ : ∃ f, fuel = f + 1 := ⟨fuel - 1, by omega⟩
    show ((x :: a') ++ t.flatten).take n :: piecesAux n f (((x :: a') ++ t.flatten).drop n) = _
    rw [← ha, List.take_left, List.drop_left, ha, piecesAux_flatten hn t f (fun c hc => h c (List.mem_cons_of_mem _ hc)) (by omega)]

theorem pieces_flatten {n : Nat} (hn : 0 < n) {l : List Bytes} (h : ∀ c ∈ l, c.length = n) : pieces n l.flatten = l :=
  piecesAux_flatten hn l _ h (Nat.le_refl _)

theorem piecesAux_whole {n : Nat} (hn : 0 < n) (k : Nat) : ∀ (b : Bytes) (fuel : Nat), b.length = k * n → b.length ≤ fuel →
    (piecesAux n fuel b).length = k ∧ (∀ c ∈ piecesAux n fuel b, c.length = n) ∧ (piecesAux n fuel b).flatten = b := by
  induction k with
  | zero =>
    intro b fuel h _
    have : b = [] := List.length_eq_zero_iff.mp (by simpa using h)
    subst this
    cases fuel <;> exact ⟨rfl, fun c (hc : c ∈ ([] : List Bytes)) => absurd hc List.not_mem_nil, rfl⟩
  | succ k ih =>
    intro b fuel h hf
    rw [Nat.add_mul, Nat.one_mul] at h
    obtain ⟨x, b', rfl⟩ := List.exists_cons_of_ne_nil (show b ≠ [] by rintro rfl; simp at h; omega)
    obtain ⟨f, rfl⟩ : ∃ f, fuel = f + 1 := ⟨fuel - 1, by simp only [List.length_cons] at hf; omega⟩
    have r := ih ((x :: b').drop n) f (by rw [List.length_drop]; omega) (by rw [List.length_drop]; omega)
    show (List.length (_ :: piecesAux n f ((x :: b').drop n)) = _) ∧ (∀ c ∈ (x :: b').take n :: piecesAux n f ((x :: b').drop n), _) ∧
      List.flatten ((x :: b').take n :: piecesAux n f ((x :: b').drop n)) = _
    refine ⟨by rw [List.length_cons, r.1], fun c hc => ?_, by rw [List.flatten_cons, r.2.2, List.take_append_drop]⟩
    rcases List.mem_cons.mp hc with rfl | hc
    · rw [List.length_take]
      omega
    · exact r.2.1 c hc

/-- A byte string of `k` whole pieces. -/
theorem pieces_whole {n k : Nat} (hn : 0 < n) {b : Bytes} (h : b.length = k * n) :
    (pieces n b).length = k ∧ (∀ c ∈ pieces n b, c.length = n) ∧ (pieces n b).flatten = b := piecesAux_whole hn k b _ h (Nat.le_refl _)

theorem fit_len (n : Nat) (b : Bytes) : (fit n b).length = n := by
  simp only [fit, zeros, List.length_append, List.length_take, List.length_replicate]
  omega

/-- The key schedule gives 15 keys of 16 bytes. -/
theorem aesKeys_lengths (key : Bytes) : (aesKeys key).length = 15 ∧ ∀ c ∈ aesKeys key, c.length = 16 := by
  have p := pieces_whole (n := 4) (k := 8) (by omega) (fit_len 32 key)
  have w := aesExpand_words 52 8 1 (pieces 4 (fit 32 key)).reverse (Nat.le_of_eq (by rw [List.length_reverse, p.1])) (fun c hc => p.2.1 c (List.mem_reverse.mp hc))
  rw [List.length_reverse, p.1] at w
  have f : ((aesExpand 52 8 1 (pieces 4 (fit 32 key)).reverse).reverse.flatten).length = 15 * 16 := by
    rw [flatten_length (fun c hc => w.2 c (List.mem_reverse.mp hc)), List.length_reverse, w.1]
  have r := pieces_whole (n := 16) (k := 15) (by omega) f
  exact ⟨r.1, r.2.1⟩

/-- AES-256: decryption undoes encryption. -/
theorem aes256Inv_aes256 (key : Bytes) {b : Bytes} (h : b.length = 16) :
    (aesWith (aesKeys key) b).length = 16 ∧ aes256Inv key (aesWith (aesKeys key) b) = b := by
  have k := aesKeys_lengths key
  exact aesWith_inverts (by rw [k.1]; omega) k.2 h

/-! ### Key wrap -/

/-- What RFC 3394 works on: the integrity register and `n` half blocks. -/
def Halves (n : Nat) (st : Bytes × List Bytes) : Prop := st.1.length = 8 ∧ st.2.length = n ∧ ∀ c ∈ st.2, c.length = 8

theorem leBytes_length (n : Nat) : ∀ v, (leBytes n v).length = n := by
  induction n with
  | zero => exact fun _ => rfl
  | succ n ih => exact fun v => congrArg Nat.succ (ih _)

theorem beBytes_length (n v : Nat) : (beBytes n v).length = n := (List.length_reverse ..).trans (leBytes_length n v)

theorem wrapStep_inverts (kek : Bytes) {n : Nat} (hn : 0 < n) {st : Bytes × List Bytes} (h : Halves n st) (t : Nat) :
    Halves n (wrapStep (aesKeys kek) n st t) ∧ unwrapStep kek n (wrapStep (aesKeys kek) n st t) t = st := by
  obtain ⟨a, r⟩ := st
  obtain ⟨ha, hr, hc⟩ := h
  have hj : (t - 1) % n < r.length := by rw [hr]; exact Nat.mod_lt _ hn
  have g : (r.getD ((t - 1) % n) []) = r[(t - 1) % n] := getD_of_lt hj
  have hg : (r[(t - 1) % n]).length = 8 := hc _ (List.getElem_mem _)
  have l : (a ++ r[(t - 1) % n]).length = 16 := by rw [List.length_append, hg]; simp at ha; omega
  obtain ⟨bl, bi⟩ := aes256Inv_aes256 kek l
  have ha : a.length = 8 := ha
  have hw : wrapStep (aesKeys kek) n (a, r) t = (xorBytes ((aesWith (aesKeys kek) (a ++ r[(t - 1) % n])).take 8) (beBytes 8 t),
      r.set ((t - 1) % n) ((aesWith (aesKeys kek) (a ++ r[(t - 1) % n])).drop 8)) := by
    unfold wrapStep
    dsimp only
    rw [g]
  generalize aesWith (aesKeys kek) (a ++ r[(t - 1) % n]) = b at hw bl bi
  have ht : (beBytes 8 t).length = (b.take 8).length := by rw [beBytes_length, List.length_take]; omega
  rw [hw]
  refine ⟨⟨(xorBytes_length ht).trans (by rw [List.length_take]; omega), by simpa using hr, fun c hm => ?_⟩, ?_⟩
  · rcases List.mem_or_eq_of_mem_set hm with hm | rfl
    · exact hc c hm
    · rw [List.length_drop]
      omega
  · have gs : (r.set ((t - 1) % n) (b.drop 8)).getD ((t - 1) % n) [] = b.drop 8 := by
      rw [getD_of_lt (by rw [List.length_set]; exact hj), List.getElem_set_self]
    unfold unwrapStep
    dsimp only
    rw [gs, xorBytes_cancel ht, List.take_append_drop, bi, List.set_set]
    refine Prod.ext ?_ ?_
    · exact List.take_left' ha
    · show r.set _ ((a ++ r[(t - 1) % n]).drop 8) = r
      rw [List.drop_left' ha, List.set_getElem_self]

/-- The steps of the unwrap undo those of the wrap, last first. -/
theorem wrapSteps_invert (kek : Bytes) {n : Nat} (hn : 0 < n) (m : Nat) : ∀ {st : Bytes × List Bytes}, Halves n st →
    Halves n ((List.range m).foldl (fun st k => wrapStep (aesKeys kek) n st (k + 1)) st) ∧
    (List.range m).foldl (fun st k => unwrapStep kek n st (m - k)) ((List.range m).foldl (fun st k => wrapStep (aesKeys kek) n st (k + 1)) st) = st := by
  induction m with
  | zero => exact fun h => ⟨h, rfl⟩
  | succ m ih =>
    intro st h
    obtain ⟨h1, i1⟩ := ih h
    obtain ⟨h2, i2⟩ := wrapStep_inverts kek hn h1 (m + 1)
    have e : (List.range (m + 1)).foldl (fun st k => wrapStep (aesKeys kek) n st (k + 1)) st =
        wrapStep (aesKeys kek) n ((List.range m).foldl (fun st k => wrapStep (aesKeys kek) n st (k + 1)) st) (m + 1) := by
      rw [List.range_succ, List.foldl_append]
      rfl
    rw [e]
    refine ⟨h2, ?_⟩
    rw [List.range_succ_eq_map, List.foldl_cons, List.foldl_map]
    show List.foldl (fun st k => unwrapStep kek n st (m + 1 - (k + 1))) (unwrapStep kek n (wrapStep (aesKeys kek) n _ (m + 1)) (m + 1)) _ = _
    rw [i2]
    simp only [Nat.add_sub_add_right]
    exact i1

/-- A key wrapped is unwrapped (RFC 3394): any whole number of 8-byte halves, under any key. -/
theorem aesUnwrap_aesWrap (kek : Bytes) {data : Bytes} {n : Nat} (hn : 0 < n) (h : data.length = n * 8) :
    (aesWrap kek data).length = (n + 1) * 8 ∧ aesUnwrap kek (aesWrap kek data) = some data := by
  have p := pieces_whole (n := 8) (by omega) h
  have s : Halves n (List.replicate 8 (0xA6 : Byte), pieces 8 data) := ⟨rfl, p.1, p.2.1⟩
  obtain ⟨⟨h1, h2, h3⟩, i⟩ := wrapSteps_invert kek hn (6 * n) s
  unfold aesWrap
  dsimp only
  rw [p.1]
  generalize hst : (List.range (6 * n)).foldl (fun st k => wrapStep (aesKeys kek) n st (k + 1)) (List.replicate 8 (0xA6 : Byte), pieces 8 data) = st
  rw [hst] at h1 h2 h3 i
  have c : ∀ c ∈ st.1 :: st.2, c.length = 8 := fun c hc => (List.mem_cons.mp hc).elim (fun e => e ▸ h1) (h3 c)
  have f : st.1 ++ st.2.flatten = (st.1 :: st.2).flatten := rfl
  refine ⟨by rw [f, flatten_length c, List.length_cons, h2], ?_⟩
  unfold aesUnwrap
  rw [f, pieces_flatten (by omega) c]
  dsimp only
  rw [h2, i, if_pos rfl, p.2.2]

end Sys2Proof.Machine
end

