-- ==== Sys2Proof/Laws/Memory.lean ====
section
/-!
SUPPORT. Device memory: every operation keeps the canonical form, a read after a write gives what was written, every
other byte reads as before, and the form that `State.conclude` answers with.
-/

namespace Sys2Proof.Machine
open Sys2Proof

theorem Memory.sorted_of_wf {m : List Host.Cell} (h : Memory.wf m = true) : Tab.sorted m = true := (Tab.wf_iff.1 h).1

theorem memByte_set_same {m : List Host.Cell} (a : Nat) (b : Byte) (h : Memory.wf m = true) : memByte (Tab.set m 0 a b) a = b :=
  Tab.get_set_same m 0 a b (Memory.sorted_of_wf h)

theorem memByte_set_other (m : List Host.Cell) {a n : Nat} (b : Byte) (h : n ≠ a) : memByte (Tab.set m 0 a b) n = memByte m n :=
  Tab.get_set_other m 0 b h

theorem Memory.wf_set {m : List Host.Cell} (a : Nat) (b : Byte) (h : Memory.wf m = true) : Memory.wf (Tab.set m 0 a b) = true :=
  Tab.wf_set a b h

theorem Memory.wf_memWrite {m : List Host.Cell} (a : Nat) (d : Bytes) (h : Memory.wf m = true) : Memory.wf (memWrite m a d) = true := by
  induction d generalizing m a with
  | nil => exact h
  | cons b t ih => exact ih (a + 1) (Memory.wf_set a b h)

theorem Memory.wf_memZero {m : List Host.Cell} (a len : Nat) (h : Memory.wf m = true) : Memory.wf (memZero m a len) = true :=
  Tab.wf_filter (fun k _ => decide (k < a) || decide (a + len ≤ k)) h

theorem Memory.wf_canon (m : List Host.Cell) : Memory.wf (Memory.canon m) = true := by
  unfold Memory.canon
  split
  · assumption
  · induction m with
    | nil => rfl
    | cons c t ih =>
      rw [List.foldr_cons]
      by_cases ht : Memory.wf t = true
      · rename_i hw
        exact Memory.wf_set _ _ (by
          clear ih hw
          induction t with
          | nil => rfl
          | cons c t ih' =>
            rw [List.foldr_cons]
            exact Memory.wf_set _ _ (ih' (Tab.wf_iff.2 ⟨Tab.sorted_tail (Tab.wf_iff.1 ht).1,
              fun e he => (Tab.wf_iff.1 ht).2 e (List.mem_cons_of_mem _ he)⟩)))
      · exact Memory.wf_set _ _ (ih ht)

@[simp] theorem Memory.canon_of_wf {m : List Host.Cell} (h : Memory.wf m = true) : Memory.canon m = m := by
  simp [Memory.canon, h]

/-- A byte outside a write reads as before. -/
theorem memByte_memWrite_outside (m : List Host.Cell) (a n : Nat) (d : Bytes) (h : n < a ∨ a + d.length ≤ n) :
    memByte (memWrite m a d) n = memByte m n := by
  induction d generalizing m a with
  | nil => rfl
  | cons b t ih =>
    simp only [List.length_cons] at h
    simp only [memWrite]
    rw [ih _ _ (by omega)]
    exact memByte_set_other m b (by omega)

/-- Byte `k` of a write is read back at its address. -/
theorem memByte_memWrite_inside {m : List Host.Cell} (a k : Nat) (d : Bytes) (hm : Memory.wf m = true) (h : k < d.length) :
    memByte (memWrite m a d) (a + k) = d.getD k 0 := by
  induction d generalizing m a k with
  | nil => simp at h
  | cons b t ih =>
    simp only [memWrite]
    cases k with
    | zero =>
      rw [memByte_memWrite_outside _ _ _ _ (Or.inl (by omega))]
      simpa using memByte_set_same a b hm
    | succ k =>
      have := ih (a + 1) k (Memory.wf_set a b hm) (by simpa using h)
      rw [show a + (k + 1) = a + 1 + k by omega, this]
      simp

theorem memRead_memWrite {m : List Host.Cell} (a : Nat) (d : Bytes) (hm : Memory.wf m = true) : memRead (memWrite m a d) a d.length = d := by
  induction d generalizing m a with
  | nil => rfl
  | cons b t ih =>
    simp only [memWrite, List.length_cons, memRead]
    rw [ih (a + 1) (Memory.wf_set a b hm), memByte_memWrite_outside _ _ _ _ (Or.inl (by omega)), memByte_set_same a b hm]

theorem Tab.find?_filter_keys {α : Type} (t : Tab α) (p : Nat → Bool) (n : Nat) :
    Tab.find? (Tab.filter (fun k _ => p k) t) n = if p n then Tab.find? t n else none := by
  induction t with
  | nil => simp [Tab.filter, Tab.find?]
  | cons e t ih =>
    obtain ⟨j, w⟩ := e
    unfold Tab.filter at ih ⊢
    by_cases hj : p j = true
    · rw [List.filter_cons_of_pos (by simpa using hj)]
      simp only [Tab.find?, ih]
      split
      · rename_i h
        subst h
        simp [hj]
      · rfl
    · rw [List.filter_cons_of_neg (by simpa using hj), ih]
      simp only [Tab.find?]
      split
      · split
        · rename_i h1 h2
          subst h2
          exact absurd h1 hj
        · rfl
      · rfl

theorem memByte_memZero (m : List Host.Cell) (a len n : Nat) :
    memByte (memZero m a len) n = if n < a ∨ a + len ≤ n then memByte m n else 0 := by
  have h := Tab.find?_filter_keys m (fun k => decide (k < a) || decide (a + len ≤ k)) n
  have e : memZero m a len = Tab.filter (fun k _ => decide (k < a) || decide (a + len ≤ k)) m := rfl
  unfold memByte Tab.get
  rw [e, h]
  by_cases hc : n < a ∨ a + len ≤ n
  · simp [hc]
  · simp [hc]

/-- Two canonical memories that read the same are the same list. -/
theorem Memory.ext {m n : List Host.Cell} (hm : Memory.wf m = true) (hn : Memory.wf n = true) (h : ∀ a, memByte m a = memByte n a) : m = n :=
  Tab.ext_of_wf hm hn h

/-! ### What a command's outcome is -/

theorem State.conclude_mem_wf {s t u : State} (h : s.conclude t = .next u) : Memory.wf u.part.mem = true := by
  unfold State.conclude at h
  injection h with h
  subst h
  exact Memory.wf_canon _

/-- Where the effect keeps the queue of waiting commands and leaves canonical memory, the outcome is the effect itself. -/
theorem State.conclude_eq {s t : State} (hp : t.pending = s.pending) (hm : Memory.wf t.part.mem = true) : s.conclude t = .next t := by
  unfold State.conclude
  rw [Memory.canon_of_wf hm, ← hp]

end Sys2Proof.Machine
end

