-- ==== Sys2Proof/Laws/Frames.lean ====
section
/-!
SUPPORT. What the shared operations can change: interrupts, error logs, translation, and reads and writes of device memory.
-/

namespace Sys2Proof.Machine
open Sys2Proof

/-! ### Frames as lists of units -/

theorem Only.refl (l : List Field) (s : State) : Only l s s := by
  intro f _
  cases f <;> rfl

theorem Only.trans {l : List Field} {s t u : State} (h : Only l s t) (k : Only l t u) : Only l s u := by
  intro f hf
  have a := h f hf
  have b := k f hf
  cases f <;> exact Eq.trans b a

theorem Only.mono {l m : List Field} {s t : State} (h : Only l s t) (hl : ∀ f ∈ l, f ∈ m) : Only m s t :=
  fun f hf => h f (fun hm => hf (hl f hm))

theorem Only.of_isl (s : State) (x : Islands) : Only [.isl] s { s with isl := x } := by
  intro f hf
  cases f <;> first | rfl | exact absurd (List.mem_singleton.2 rfl) hf

theorem Only.of_kelri (s : State) (x : Kelri) : Only [.kelri] s { s with kelri := x } := by
  intro f hf
  cases f <;> first | rfl | exact absurd (List.mem_singleton.2 rfl) hf

theorem Only.of_q (s : State) (x : Queues) : Only [.q] s { s with q := x } := by
  intro f hf
  cases f <;> first | rfl | exact absurd (List.mem_singleton.2 rfl) hf

theorem Only.of_hif (s : State) (x : Hif) : Only [.hif] s { s with hif := x } := by
  intro f hf
  cases f <;> first | rfl | exact absurd (List.mem_singleton.2 rfl) hf

theorem Only.of_rounds (s : State) (x : Rounds) : Only [.rounds] s { s with rounds := x } := by
  intro f hf
  cases f <;> first | rfl | exact absurd (List.mem_singleton.2 rfl) hf

theorem Only.of_time (s : State) (x : TimeUnit) : Only [.time] s { s with time := x } := by
  intro f hf
  cases f <;> first | rfl | exact absurd (List.mem_singleton.2 rfl) hf

theorem Only.of_plot (s : State) (x : PlotUnit) : Only [.plot] s { s with plot := x } := by
  intro f hf
  cases f <;> first | rfl | exact absurd (List.mem_singleton.2 rfl) hf

theorem Only.of_trellis (s : State) (x : TrellisUnit) : Only [.trellis] s { s with trellis := x } := by
  intro f hf
  cases f <;> first | rfl | exact absurd (List.mem_singleton.2 rfl) hf

theorem Only.of_spetar (s : State) (x : Spetar) : Only [.spetar] s { s with spetar := x } := by
  intro f hf
  cases f <;> first | rfl | exact absurd (List.mem_singleton.2 rfl) hf

theorem Only.of_graft (s : State) (x : Graft) : Only [.graft] s { s with graft := x } := by
  intro f hf
  cases f <;> first | rfl | exact absurd (List.mem_singleton.2 rfl) hf

theorem Only.of_part (s : State) (x : Partitions) : Only [.part] s { s with part := x } := by
  intro f hf
  cases f <;> first | rfl | exact absurd (List.mem_singleton.2 rfl) hf

theorem Only.of_shed (s : State) (x : Shed) : Only [.shed] s { s with shed := x } := by
  intro f hf
  cases f <;> first | rfl | exact absurd (List.mem_singleton.2 rfl) hf

theorem Only.of_attest (s : State) (x : AttestUnit) : Only [.attest] s { s with attest := x } := by
  intro f hf
  cases f <;> first | rfl | exact absurd (List.mem_singleton.2 rfl) hf

theorem Only.of_random (s : State) (x : RandomUnit) : Only [.random] s { s with random := x } := by
  intro f hf
  cases f <;> first | rfl | exact absurd (List.mem_singleton.2 rfl) hf

theorem Only.of_mgmt (s : State) (x : Mgmt) : Only [.mgmt] s { s with mgmt := x } := by
  intro f hf
  cases f <;> first | rfl | exact absurd (List.mem_singleton.2 rfl) hf

theorem Only.of_power (s : State) (x : Power) : Only [.power] s { s with power := x } := by
  intro f hf
  cases f <;> first | rfl | exact absurd (List.mem_singleton.2 rfl) hf

theorem Only.of_err (s : State) (x : ErrLogs) : Only [.err] s { s with err := x } := by
  intro f hf
  cases f <;> first | rfl | exact absurd (List.mem_singleton.2 rfl) hf

theorem Only.of_reg (s : State) (x : RegUnit) : Only [.reg] s { s with reg := x } := by
  intro f hf
  cases f <;> first | rfl | exact absurd (List.mem_singleton.2 rfl) hf

theorem Only.of_freeCtr (s : State) (x : Nat) : Only [.freeCtr] s { s with freeCtr := x } := by
  intro f hf
  cases f <;> first | rfl | exact absurd (List.mem_singleton.2 rfl) hf

theorem Within.refl (s : State) : Within s s := ⟨rfl, rfl, rfl, rfl, rfl, rfl, rfl, rfl, rfl, rfl, rfl, rfl, rfl, rfl, rfl, rfl, rfl⟩

theorem Within.trans {s t u : State} (h : Within s t) (k : Within t u) : Within s u :=
  ⟨k.isl.trans h.isl, k.kelri.trans h.kelri, k.q.trans h.q, k.rounds.trans h.rounds, k.time.trans h.time,
    k.plot.trans h.plot, k.trellis.trans h.trellis, k.spetar.trans h.spetar, k.graft.trans h.graft, k.shed.trans h.shed,
    k.attest.trans h.attest, k.random.trans h.random, k.mgmt.trans h.mgmt, k.power.trans h.power, k.reg.trans h.reg,
    k.freeCtr.trans h.freeCtr, k.pending.trans h.pending⟩

theorem Within.only {s t : State} (h : Within s t) : Only [.part, .err, .hif] s t := by
  intro f hf
  cases f <;> first
    | exact absurd (by decide) hf
    | exact h.isl | exact h.kelri | exact h.q | exact h.rounds | exact h.time | exact h.plot | exact h.trellis | exact h.spetar
    | exact h.graft | exact h.shed | exact h.attest | exact h.random | exact h.mgmt | exact h.power | exact h.reg
    | exact h.freeCtr | exact h.pending

/-- A step that leaves memory as it was, within what translating and reading may change. -/
def Reads (s t : State) : Prop := Within s t ∧ t.part.mem = s.part.mem

theorem Reads.refl (s : State) : Reads s s := ⟨Within.refl s, rfl⟩
theorem Reads.trans {s t u : State} (h : Reads s t) (k : Reads t u) : Reads s u := ⟨h.1.trans k.1, k.2.trans h.2⟩
theorem Reads.ofHif (s : State) (x : Hif) : Reads s { s with hif := x } := ⟨⟨rfl, rfl, rfl, rfl, rfl, rfl, rfl, rfl, rfl, rfl, rfl, rfl, rfl, rfl, rfl, rfl, rfl⟩, rfl⟩
theorem Reads.ofErr (s : State) (x : ErrLogs) : Reads s { s with err := x } := ⟨⟨rfl, rfl, rfl, rfl, rfl, rfl, rfl, rfl, rfl, rfl, rfl, rfl, rfl, rfl, rfl, rfl, rfl⟩, rfl⟩
theorem Within.ofPart (s : State) (x : Partitions) : Within s { s with part := x } := ⟨rfl, rfl, rfl, rfl, rfl, rfl, rfl, rfl, rfl, rfl, rfl, rfl, rfl, rfl, rfl, rfl, rfl⟩
theorem Reads.ofPart (s : State) (x : Partitions) (h : x.mem = s.part.mem) : Reads s { s with part := x } := ⟨⟨rfl, rfl, rfl, rfl, rfl, rfl, rfl, rfl, rfl, rfl, rfl, rfl, rfl, rfl, rfl, rfl, rfl⟩, h⟩

theorem toHost_reads (s : State) (o : HostOut) : Reads s (s.toHost o) := by
  unfold State.toHost
  split <;> exact Reads.ofHif s _

theorem raiseVector_reads (s : State) (f : Fn) (v : Nat) : Reads s (s.raiseVector f v) := by
  unfold State.raiseVector
  extract_lets quiet e
  split
  · exact Reads.refl s
  · split
    · exact Reads.ofHif s _
    · exact (Reads.ofHif s _).trans (toHost_reads _ _)

theorem Reads.raiseVector {s t : State} (h : Reads s t) (f : Fn) (v : Nat) : Reads s (t.raiseVector f v) := h.trans (raiseVector_reads t f v)

theorem raisePf_reads (s : State) (c : PfCause) : Reads s (s.raisePf c) := by
  unfold State.raisePf
  exact (Reads.ofHif s _).raiseVector _ _

theorem Reads.raisePf {s t : State} (h : Reads s t) (c : PfCause) : Reads s (t.raisePf c) := h.trans (raisePf_reads t c)

theorem raiseVf_reads (s : State) (p : Fin 64) (n v : Nat) : Reads s (s.raiseVf p n v) := by
  unfold State.raiseVf
  extract_lets old
  exact (Reads.ofHif s _).raiseVector _ _

theorem logErr_reads (s : State) (n : Nat) (d : Island) (pb : Byte) (cls : ErrClass) (cause : ErrCause) (addr : Nat) (syn : W32)
    (st : Status) : Reads s (s.logErr n d pb cls cause addr syn st) := by
  unfold State.logErr
  extract_lets cold c2 e l l' s'
  have h : Reads s s' := Reads.ofErr s _
  split
  · split
    · exact h.raisePf _
    · exact h
  · split
    · exact h
    · exact h.raisePf _

theorem Reads.logErr {s t : State} (h : Reads s t) (n : Nat) (d : Island) (pb : Byte) (cls : ErrClass) (cause : ErrCause) (addr : Nat) (syn : W32)
    (st : Status) : Reads s (t.logErr n d pb cls cause addr syn st) := h.trans (logErr_reads t n d pb cls cause addr syn st)

theorem correctedLines_reads (pb : Nat → Byte) (ls : List Nat) : ∀ s : State, Reads s (s.correctedLines pb ls) := by
  unfold State.correctedLines
  induction ls with
  | nil => exact Reads.refl
  | cons l t ih => intro s; exact Reads.trans (logErr_reads s _ _ _ _ _ _ _ _) (ih _)

theorem toHost_part (s : State) (o : HostOut) : (s.toHost o).part = s.part := by
  unfold State.toHost
  split <;> rfl

theorem raiseVector_part (s : State) (f : Fn) (v : Nat) : (s.raiseVector f v).part = s.part := by
  unfold State.raiseVector
  extract_lets quiet e
  split
  · rfl
  · split
    · rfl
    · exact toHost_part _ _

theorem raisePf_part (s : State) (c : PfCause) : (s.raisePf c).part = s.part := raiseVector_part _ _ _

/-- An error entry changes nothing of the partitions or their memory. -/
theorem logErr_part (s : State) (n : Nat) (d : Island) (pb : Byte) (cls : ErrClass) (cause : ErrCause) (addr : Nat) (syn : W32)
    (st : Status) : (s.logErr n d pb cls cause addr syn st).part = s.part := by
  unfold State.logErr
  extract_lets cold c2 e l l' s'
  have h : s'.part = s.part := rfl
  split
  · split
    · exact (raisePf_part s' _).trans h
    · exact h
  · split
    · exact h
    · exact (raisePf_part s' _).trans h

theorem correctedLines_part (pb : Nat → Byte) (ls : List Nat) : ∀ s : State, (s.correctedLines pb ls).part = s.part := by
  unfold State.correctedLines
  induction ls with
  | nil => exact fun _ => rfl
  | cons l t ih => exact fun s => (ih _).trans (logErr_part s _ _ _ _ _ _ _ _)

theorem setPartition_reads (s : State) (p : Fin 64) (r : Partition) : Reads s (s.setPartition p r) := Reads.ofPart s _ rfl

theorem modPartition_reads (s : State) (p : Fin 64) (f : Partition → Partition) : Reads s (s.modPartition p f) := by
  unfold State.modPartition
  split
  · exact Reads.refl s
  · exact setPartition_reads s p _

theorem mendLines_reads (s : State) (a len : Nat) : Reads s (s.mendLines a len) := by
  unfold State.mendLines
  extract_lets touched whole s'
  have h : Reads s s' := correctedLines_reads _ _ s
  exact h.trans (Reads.ofPart s' _ rfl)

theorem countUce_reads (s : State) (c : Nat) : Reads s (s.countUce c) := Reads.ofPart s _ rfl

theorem consumeLines_reads (s : State) (pb : Byte) (ls : List Nat) : Reads s (s.consumeLines pb ls).2 := by
  unfold State.consumeLines
  rcases firstBad s.part.poisonLines s.part.uncorrectable ls with ⟨before, bad⟩
  dsimp -zeta only
  extract_lets s0
  have h0 : Reads s s0 := by
    unfold s0
    split
    · exact Reads.refl s
    · exact correctedLines_reads _ _ s
  clear_value s0
  split
  · exact h0
  · extract_lets s1
    have h1 : Reads s s1 := h0.trans (Reads.ofPart s0 _ rfl)
    dsimp -zeta only
    exact (h1.trans (countUce_reads s1 _)).logErr ..
  · dsimp -zeta only
    exact h0.logErr ..

theorem entryRead_reads (p : Fin 64) (ph c : Nat) {s : State} {x : Option Status × State} (h : Reads s x.2) :
    Reads s (entryRead p ph c x).2 := by
  rcases x with ⟨_ | st, s'⟩
  · exact h.trans (modPartition_reads s' _ _)
  · exact h

theorem readEntry_reads (s : State) (p : Fin 64) (r : Partition) (a : Nat) : Reads s (s.readEntry p r a).2 :=
  entryRead_reads _ _ _ (consumeLines_reads _ _ _)

theorem leafTo_reads (s : State) (p : Fin 64) (a : Nat) (w write : Bool) : Reads s (leafTo s p a w write).2 := by
  unfold leafTo
  split
  · exact Reads.refl s
  · exact modPartition_reads _ _ _

theorem walkLow_reads (r : Partition) (p : Fin 64) (v : Nat) (write : Bool) {s : State} {x : Except (FaultCause × Status) Nat × State}
    (h : Reads s x.2) : Reads s (walkLow r p v write x).2 := by
  rcases x with ⟨e | e, s'⟩
  · exact h
  · unfold walkLow
    dsimp only
    generalize entryTest r 2 e = y
    rcases y with c | a | ⟨a, w⟩
    · exact h
    · exact h
    · exact h.trans (leafTo_reads _ _ _ _ _)

theorem walkMid_reads (r : Partition) (p : Fin 64) (v : Nat) (write : Bool) {s : State} {x : Except (FaultCause × Status) Nat × State}
    (h : Reads s x.2) : Reads s (walkMid r p v write x).2 := by
  rcases x with ⟨e | e, s'⟩
  · exact h
  · unfold walkMid
    dsimp only
    generalize entryTest r 1 e = y
    rcases y with c | a | ⟨a, w⟩
    · exact h
    · exact walkLow_reads _ _ _ _ (Reads.trans h (readEntry_reads _ _ _ _))
    · exact h.trans (leafTo_reads _ _ _ _ _)

theorem walkTop_reads (r : Partition) (p : Fin 64) (v : Nat) (write : Bool) {s : State} {x : Except (FaultCause × Status) Nat × State}
    (h : Reads s x.2) : Reads s (walkTop r p v write x).2 := by
  rcases x with ⟨e | e, s'⟩
  · exact h
  · unfold walkTop
    dsimp only
    generalize entryTest r 0 e = y
    rcases y with c | a | ⟨a, w⟩
    · exact h
    · exact walkMid_reads _ _ _ _ (Reads.trans h (readEntry_reads _ _ _ _))
    · exact h

theorem ifPlaced_reads {s : State} {ok : Except (FaultCause × Status) Nat × State} (h : Reads s ok.2) (x : Option FaultCause) :
    Reads s (ifPlaced s ok x).2 := by
  rcases x with _ | c
  · exact h
  · exact Reads.refl s

theorem walk_reads (s : State) (p : Fin 64) (v : Nat) (write : Bool) : Reads s (s.walk p v write).2 := by
  unfold State.walk
  rcases s.partition? p with _ | r
  · exact Reads.refl s
  · dsimp only
    split
    · exact ifPlaced_reads (modPartition_reads s _ _) _
    · exact ifPlaced_reads (walkTop_reads _ _ _ _ (readEntry_reads _ _ _ _)) _

theorem walkPages_reads (p : Fin 64) (v : Nat) (write : Bool) (l : List Nat) : ∀ s : State, Reads s (s.walkPages p v write l).2 := by
  induction l with
  | nil => exact Reads.refl
  | cons n t ih =>
    intro s
    unfold State.walkPages
    generalize max v (n * pageBytes) = a
    dsimp only
    have h0 := walk_reads s p a write
    generalize s.walk p a write = x at h0 ⊢
    rcases x with ⟨e | q, s'⟩
    · exact h0
    · have h1 := ih s'
      dsimp only
      generalize s'.walkPages p v write t = y at h1 ⊢
      rcases y with ⟨e | q, s''⟩
      · exact Reads.trans h0 h1
      · exact Reads.trans h0 h1

theorem recordFault_reads (s : State) (p : Fin 64) (agent addr : Nat) (c : FaultCause) : Reads s (s.recordFault p agent addr c) :=
  Reads.trans (modPartition_reads _ _ _) (raiseVf_reads _ _ _ _)

theorem translate_reads (s : State) (p : Fin 64) (agent v len : Nat) (write : Bool) : Reads s (s.translate p agent v len write).2 := by
  unfold State.translate
  have h0 := walkPages_reads p v write (pagesOf v len) s
  split
  · exact Reads.refl s
  split
  · rename_i heq; rw [heq] at h0; exact h0
  · rename_i a c st s' heq
    rw [heq] at h0
    refine Reads.trans (t := { s with err := s'.err, hif := s'.hif, part := { s.part with
      poisonLines := s'.part.poisonLines, uncorrectable := s'.part.uncorrectable, memUce := s'.part.memUce,
      retirePending := s'.part.retirePending } }) ?_ (recordFault_reads _ _ _ _ _)
    exact ⟨⟨rfl, rfl, rfl, rfl, rfl, rfl, rfl, rfl, rfl, rfl, rfl, rfl, rfl, rfl, rfl, rfl, rfl⟩, rfl⟩

/-- Stage 4 on a range changes no byte of memory and nothing outside what translating may change. -/
theorem claim_reads (s : State) (src : Source) (v len : Nat) (write : Bool) : Reads s (s.claim src v len write).2 := by
  unfold State.claim
  split
  · exact translate_reads _ _ _ _ _ _
  · split <;> exact Reads.refl s

theorem claim_ok_reads {s u : State} {src : Source} {v len : Nat} {write : Bool} {ps : Pages} (h : s.claim src v len write = (.ok ps, u)) :
    Reads s u := by
  have := claim_reads s src v len write
  rw [h] at this
  exact this

/-- Reading a range as a consumer changes no byte of memory. -/
theorem readRange_reads (s : State) (pb : Byte) (ps : Pages) (v len : Nat) : Reads s (s.readRange pb ps v len).2 := by
  unfold State.readRange
  have := consumeLines_reads s pb ((segments ps v len).flatMap (fun (a, n) => linesOf a n))
  split
  · rename_i heq; rw [heq] at this; exact this
  · rename_i heq; rw [heq] at this; exact this

theorem readRange_ok_reads {s u : State} {pb : Byte} {ps : Pages} {v len : Nat} {b : Bytes} (h : s.readRange pb ps v len = (.ok b, u)) :
    Reads s u ∧ b = u.peek ps v len := by
  have := readRange_reads s pb ps v len
  rw [h] at this
  refine ⟨this, ?_⟩
  unfold State.readRange at h
  split at h
  · cases h
  · cases h; rfl

/-! ### Writes -/

theorem writePhys_within (s : State) (a : Nat) (d : Bytes) : Within s (s.writePhys a d) :=
  (mendLines_reads s a d.length).1.trans (Within.ofPart _ _)

theorem writePhys_mem (s : State) (a : Nat) (d : Bytes) : (s.writePhys a d).part.mem = memWrite s.part.mem a d := by
  show memWrite (s.mendLines a d.length).part.mem a d = _
  rw [(mendLines_reads s a d.length).2]

theorem mendLines_parts (s : State) (a len : Nat) : (s.mendLines a len).part.parts = s.part.parts := by
  unfold State.mendLines
  extract_lets touched whole s'
  have h : s'.part = s.part := correctedLines_part _ _ s
  show s'.part.parts = s.part.parts
  rw [h]

theorem writePhys_parts (s : State) (a : Nat) (d : Bytes) : (s.writePhys a d).part.parts = s.part.parts := mendLines_parts s a d.length

theorem zeroPhys_parts (s : State) (a len : Nat) : (s.zeroPhys a len).part.parts = s.part.parts := mendLines_parts s a len

theorem zeroPhys_within (s : State) (a len : Nat) : Within s (s.zeroPhys a len) := (mendLines_reads s a len).1.trans (Within.ofPart _ _)

theorem zeroPhys_mem (s : State) (a len : Nat) : (s.zeroPhys a len).part.mem = memZero s.part.mem a len := by
  show memZero (s.mendLines a len).part.mem a len = _
  rw [(mendLines_reads s a len).2]

theorem writeSegs_within (l : List (Nat × Nat)) : ∀ (s : State) (d : Bytes), Within s (s.writeSegs l d) := by
  induction l with
  | nil => exact fun s _ => Within.refl s
  | cons x t ih => exact fun s d => (writePhys_within s _ _).trans (ih _ _)

theorem writeRange_within (s : State) (ps : Pages) (v : Nat) (d : Bytes) : Within s (s.writeRange ps v d) := writeSegs_within _ s d

theorem writeSegs_wf (l : List (Nat × Nat)) : ∀ (s : State) (d : Bytes), s.memOk → (s.writeSegs l d).memOk := by
  induction l with
  | nil => exact fun s _ h => h
  | cons x t ih =>
    intro s d h
    refine ih _ _ ?_
    show Memory.wf (s.writePhys _ _).part.mem = true
    rw [writePhys_mem]
    exact Memory.wf_memWrite _ _ h

theorem writeRange_wf (s : State) (ps : Pages) (v : Nat) (d : Bytes) (h : s.memOk) : (s.writeRange ps v d).memOk := writeSegs_wf _ s d h

/-- Bytes outside the stretches a write covers read as before. -/
theorem writeSegs_outside (l : List (Nat × Nat)) : ∀ (s : State) (d : Bytes) (a : Nat), (∀ x ∈ l, a < x.1 ∨ x.1 + x.2 ≤ a) →
    memByte (s.writeSegs l d).part.mem a = memByte s.part.mem a := by
  induction l with
  | nil => exact fun _ _ _ _ => rfl
  | cons x t ih =>
    intro s d a h
    have h1 := ih (s.writePhys x.1 (d.take x.2)) (d.drop x.2) a (fun y hy => h y (List.mem_cons_of_mem _ hy))
    have hx := h x (List.mem_cons_self ..)
    refine h1.trans ?_
    rw [writePhys_mem]
    apply memByte_memWrite_outside
    rcases hx with hx | hx
    · exact Or.inl hx
    · refine Or.inr (Nat.le_trans ?_ hx)
      rw [List.length_take]
      omega

theorem zeroRange_within (s : State) (ps : Pages) (v len : Nat) : Within s (s.zeroRange ps v len) := by
  unfold State.zeroRange
  generalize segments ps v len = l
  induction l generalizing s with
  | nil => exact Within.refl s
  | cons x t ih => exact (zeroPhys_within s _ _).trans (ih _)

theorem zeroRange_wf (s : State) (ps : Pages) (v len : Nat) (h : s.memOk) : (s.zeroRange ps v len).memOk := by
  unfold State.zeroRange
  generalize segments ps v len = l
  induction l generalizing s with
  | nil => exact h
  | cons x t ih =>
    refine ih _ ?_
    show Memory.wf (s.zeroPhys _ _).part.mem = true
    rw [zeroPhys_mem]
    exact Memory.wf_memZero _ _ h

theorem inSegs_false {l : List (Nat × Nat)} {a : Nat} (h : inSegs l a = false) : ∀ x ∈ l, a < x.1 ∨ x.1 + x.2 ≤ a := by
  intro x hx
  have := List.any_eq_false.1 h x hx
  simp at this
  omega

/-- A write's effect on memory depends on the memory alone. -/
theorem writeSegs_mem_congr (l : List (Nat × Nat)) : ∀ (a b : State) (d : Bytes), a.part.mem = b.part.mem →
    (a.writeSegs l d).part.mem = (b.writeSegs l d).part.mem := by
  induction l with
  | nil => exact fun _ _ _ h => h
  | cons x t ih => exact fun a b d h => ih _ _ _ (by rw [writePhys_mem, writePhys_mem, h])

theorem writeRange_mem_congr {a b : State} (h : a.part.mem = b.part.mem) (ps : Pages) (v : Nat) (d : Bytes) :
    (a.writeRange ps v d).part.mem = (b.writeRange ps v d).part.mem := writeSegs_mem_congr _ _ _ _ h

theorem writeRange_outside (s : State) (ps : Pages) (v : Nat) (d : Bytes) {a : Nat} (h : inSegs (segments ps v d.length) a = false) :
    memByte (s.writeRange ps v d).part.mem a = memByte s.part.mem a := writeSegs_outside _ _ _ _ (inSegs_false h)

theorem zeroSegs_outside (l : List (Nat × Nat)) (a : Nat) (h : inSegs l a = false) : ∀ s : State,
    memByte (l.foldl (fun s x => s.zeroPhys x.1 x.2) s).part.mem a = memByte s.part.mem a := by
  induction l with
  | nil => exact fun _ => rfl
  | cons x t ih =>
    intro s
    have hx := inSegs_false h x (List.mem_cons_self ..)
    have ht : inSegs t a = false := by
      unfold inSegs at h ⊢
      rw [List.any_cons] at h
      exact (Bool.or_eq_false_iff.1 h).2
    refine (ih ht _).trans ?_
    rw [zeroPhys_mem, memByte_memZero, if_pos hx]

theorem zeroSegs_inside (l : List (Nat × Nat)) (a : Nat) : ∀ s : State, (inSegs l a = true ∨ memByte s.part.mem a = 0) →
    memByte (l.foldl (fun s x => s.zeroPhys x.1 x.2) s).part.mem a = 0 := by
  induction l with
  | nil =>
    intro s h
    rcases h with h | h
    · simp [inSegs] at h
    · exact h
  | cons x t ih =>
    intro s h
    refine ih _ ?_
    rw [zeroPhys_mem, memByte_memZero]
    unfold inSegs at h
    rw [List.any_cons, Bool.or_eq_true] at h
    rcases h with (h | h) | h
    · right
      simp at h
      rw [if_neg (by omega)]
    · exact Or.inl h
    · right
      split
      · exact h
      · rfl

theorem zeroRange_outside (s : State) (ps : Pages) (v len : Nat) {a : Nat} (h : inSegs (segments ps v len) a = false) :
    memByte (s.zeroRange ps v len).part.mem a = memByte s.part.mem a := zeroSegs_outside _ a h s

theorem zeroRange_inside (s : State) (ps : Pages) (v len : Nat) {a : Nat} (h : inSegs (segments ps v len) a = true) :
    memByte (s.zeroRange ps v len).part.mem a = 0 := zeroSegs_inside _ a s (Or.inl h)

/-! ### Host traffic -/

/-- Only the host interface has changed. -/
structure HifOnly (s t : State) : Prop where
  within : Within s t
  part : t.part = s.part
  err : t.err = s.err

theorem HifOnly.refl (s : State) : HifOnly s s := ⟨Within.refl s, rfl, rfl⟩
theorem HifOnly.trans {s t u : State} (h : HifOnly s t) (k : HifOnly t u) : HifOnly s u :=
  ⟨h.within.trans k.within, k.part.trans h.part, k.err.trans h.err⟩
theorem HifOnly.ofHif (s : State) (x : Hif) : HifOnly s { s with hif := x } := ⟨(Reads.ofHif s x).1, rfl, rfl⟩
theorem HifOnly.reads {s t : State} (h : HifOnly s t) : Reads s t := ⟨h.within, by rw [h.part]⟩

theorem toHost_hifOnly (s : State) (o : HostOut) : HifOnly s (s.toHost o) := by
  unfold State.toHost
  split <;> exact HifOnly.ofHif s _

theorem issueRead_hifOnly (s : State) (f : Fn) (a n : Nat) (why : ReadPurpose) : HifOnly s (s.issueRead f a n why) := by
  unfold State.issueRead
  exact (HifOnly.ofHif s _).trans (toHost_hifOnly _ _)

theorem pullIssue_hifOnly (src : Source) (id total : Nat) : ∀ (fuel host left out : Nat) (s : State),
    HifOnly s (pullIssue src id total fuel host left out s).2.2.2 := by
  intro fuel
  induction fuel with
  | zero => exact fun _ _ _ s => HifOnly.refl s
  | succ fuel ih =>
    intro host left out s
    unfold pullIssue
    split
    · exact HifOnly.refl s
    · exact (issueRead_hifOnly s _ _ _ _).trans (ih _ _ _ _)

theorem hostWriteAux_hifOnly (f : Fn) : ∀ (fuel a : Nat) (d : Bytes) (s : State), HifOnly s (s.hostWriteAux f fuel a d) := by
  intro fuel
  induction fuel with
  | zero => exact fun _ _ s => HifOnly.refl s
  | succ fuel ih =>
    intro a d s
    unfold State.hostWriteAux
    split
    · exact HifOnly.refl s
    · exact (toHost_hifOnly s _).trans (ih _ _ _)

theorem hostWrite_hifOnly (s : State) (f : Fn) (a : Nat) (d : Bytes) : HifOnly s (s.hostWrite f a d) := hostWriteAux_hifOnly f _ a d s

end Sys2Proof.Machine
end

