-- ==== Sys2Proof/Laws/Sends.lean ====
section
/-!
SUPPORT. Sending over Spetar changes the fabric unit and the counts of dropped items alone.
-/

namespace Sys2Proof.Machine
open Sys2Proof

theorem record_only (s : State) (o : FabOut) : Only [.spetar] s (s.record o) := Only.of_spetar s _

theorem setPort_only (s : State) (n : Nat) (p : Port) : Only [.spetar] s (s.setPort n p) := Only.of_spetar s _

theorem setDest_only (s : State) (d : Nat) (r : Dest) : Only [.spetar] s (s.setDest d r) := Only.of_spetar s _

theorem sendFrame_only (s : State) (n : Nat) (o : FabOut) : Only [.spetar] s (s.sendFrame n o) :=
  (setPort_only s n _).trans (record_only _ _)

theorem setEgress_only (s : State) (e : Nat) (l : List (Nat × FabOut)) : Only [.spetar] s (s.setEgress e l) := Only.of_spetar s _

theorem setIsland_only (s : State) (d : Island) (r : IslandRec) : Only [.isl] s (s.setIsland d r) := Only.of_isl s _

theorem enqueue_only (s : State) (n : Nat) (o : FabOut) : Only [.spetar, .isl] s (s.enqueue n o) := by
  unfold State.enqueue
  extract_lets d
  split
  · exact (setIsland_only s d _).mono (by decide)
  · split
    · exact (setPort_only s n _).mono (by decide)
    · exact (setEgress_only s _ _).mono (by decide)

theorem emit_only (s : State) (o : FabOut) : Only [.spetar, .isl] s (s.emit o) := by
  unfold State.emit
  split
  · exact (record_only s o).mono (by decide)
  · split
    · exact (sendFrame_only s _ o).mono (by decide)
    · split
      · exact (setPort_only s _ _).mono (by decide)
      · exact enqueue_only s _ o

theorem pickRoute_only (s : State) (d n : Nat) : Only [.spetar] s (s.pickRoute d n).2 := by
  unfold State.pickRoute
  split
  · exact Only.refl _ s
  · split
    · extract_lets rs
      clear_value rs
      split
      · exact Only.refl _ s
      · exact Only.of_spetar s _
    · exact Only.refl _ s

theorem transmit_only (s : State) (d : Nat) (o : Outstanding) : Only [.spetar, .isl] s (s.transmit d o) := by
  unfold State.transmit
  have h := pickRoute_only s d o.serial
  generalize s.pickRoute d o.serial = x at h ⊢
  rcases x with ⟨r?, s'⟩
  dsimp only at h ⊢
  split
  · exact ((h.trans (setDest_only s' d _)).mono (by decide)).trans (emit_only _ _)
  · exact (h.trans (setDest_only s' d _)).mono (by decide)

theorem pumpAux_only (d : Nat) : ∀ (fuel : Nat) (s : State), Only [.spetar, .isl] s (s.pumpAux d fuel) := by
  intro fuel
  induction fuel with
  | zero => exact fun s => Only.refl _ s
  | succ fuel ih =>
    intro s
    unfold State.pumpAux
    extract_lets q
    split
    · exact Only.refl _ s
    · split
      · exact (((setDest_only s d _).mono (by decide)).trans (transmit_only _ d _)).trans (ih _)
      · exact Only.refl _ s

theorem pump_only (s : State) (d : Nat) : Only [.spetar, .isl] s (s.pump d) := pumpAux_only d _ s

theorem transmitAll_only (d : Nat) (l : List Outstanding) : ∀ s : State, Only [.spetar, .isl] s (l.foldl (fun s o => s.transmit d o) s) := by
  induction l with
  | nil => exact fun s => Only.refl _ s
  | cons o t ih => exact fun s => (transmit_only s d o).trans (ih _)

/-- Requests handed to the fabric change nothing but the fabric unit. -/
theorem sendRequests_only (s : State) (d : Nat) (os : List Outstanding) : Only [.spetar, .isl] s (s.sendRequests d os) := by
  unfold State.sendRequests
  extract_lets s1 q
  exact ((transmitAll_only d _ s).trans ((setDest_only s1 d _).mono (by decide))).trans (pump_only _ d)

/-- A message between devices changes the fabric unit alone. -/
theorem sendMsgNow_only (s : State) (d : Nat) (why : ReqPurpose) : Only [.spetar, .isl] s (s.sendMsgNow d why) := by
  unfold State.sendMsgNow
  extract_lets o
  exact ((Only.of_spetar s _).mono (by decide)).trans (sendRequests_only _ _ _)

theorem sendMsg_only (s : State) (d : Nat) (why : ReqPurpose) : Only [.spetar, .isl, .graft] s (s.sendMsg d why) := by
  unfold State.sendMsg
  split
  · exact (Only.of_graft s _).mono (by decide)
  · exact (sendMsgNow_only s d why).mono (by decide)

theorem sendRound_only (s : State) (e : Nat) (ds : List Nat) (m : RoundMsg) : Only [.spetar, .isl, .graft] s (s.sendRound e ds m) := by
  unfold State.sendRound
  split
  · exact Only.refl _ s
  · split
    · exact Only.refl _ s
    · rename_i r _ _
      suffices h : ∀ s : State, Only [.spetar, .isl, .graft] s (ds.foldl (fun s d => s.sendMsg (Tab.get r.replaced d d) (.roundMsg e m)) s) from h s
      induction ds with
      | nil => exact fun s => Only.refl _ s
      | cons d t ih => exact fun s => (sendMsg_only s _ _).trans (ih _)

end Sys2Proof.Machine
end

