-- ==== Sys2Proof/Laws/Present.lean ====
section
/-!
SUPPORT. What presenting a ready command packet does: it is admitted, its stages 4 and 5 run in the same step, and a body
that ends completes it. Cited instead of unfolding `State.present`.
-/

namespace Sys2Proof.Machine
open Sys2Proof

/-! ### Headers -/

theorem withOp_op (p : Packet) (code : Nat) : (p.withOp code).header.op = BitVec.ofNat 16 code := by
  apply BitVec.eq_of_getLsbD_eq
  intro i hi
  have h16 : i < 16 := hi
  simp only [Packet.header, Packet.withOp, decodeHeader, BitVec.getLsbD_extractLsb', BitVec.getLsbD_or, BitVec.getLsbD_and,
    BitVec.getLsbD_not, BitVec.getLsbD_ofNat, Nat.zero_add, h16, decide_true, Bool.true_and]
  have : Nat.testBit 65535 i = true := by
    have := Nat.testBit_two_pow_sub_one 16 i
    simpa [h16] using this
  simp [this, show i < 128 by omega]

theorem withOp_opNat (p : Packet) {code : Nat} (h : code < 2 ^ 16) : (p.withOp code).header.op.toNat = code := by
  rw [withOp_op]
  simpa using h

theorem Header.plain_wait {h : Header} (hp : h.plain = true) : h.wait = false := by
  simp [Header.plain] at hp; exact hp.1.1.1
theorem Header.plain_signal {h : Header} (hp : h.plain = true) : h.signal = false := by
  simp [Header.plain] at hp; exact hp.1.1.2
theorem Header.plain_barrier {h : Header} (hp : h.plain = true) : h.barrier = false := by
  simp [Header.plain] at hp; exact hp.1.2
theorem Header.plain_marked {h : Header} (hp : h.plain = true) : h.marked = [] := by
  simp [Header.plain] at hp
  simp [Header.marked, hp.2]

theorem Header.plain_indWords {h : Header} (hp : h.plain = true) : h.indWords = [] := by
  simp [Header.indWords, Header.plain_marked hp]

theorem withPairs_nil (p : Packet) : withPairs p [] = p.word := by
  funext n; simp [withPairs]

/-! ### Commands in flight -/

theorem filter_src_nil {l : List Cmd} {src : Source} (h : l.all (fun c => c.src != src) = true) (f : Cmd → Bool) :
    l.filter (fun d => d.src == src && f d) = [] := by
  rw [List.filter_eq_nil_iff]
  intro d hd
  have := List.all_eq_true.1 h d hd
  simp at this
  simp [this]

theorem find_src_append {l : List Cmd} {c : Cmd} (h : l.all (fun d => d.src != c.src) = true) (f : Cmd → Bool) (hf : f c = true) :
    (l ++ [c]).find? (fun d => d.src == c.src && f d) = some c := by
  rw [List.find?_append]
  have : l.find? (fun d => d.src == c.src && f d) = none := by
    rw [List.find?_eq_none]
    intro d hd
    have := List.all_eq_true.1 h d hd
    simp at this
    simp [this]
  simp [this, hf]

theorem map_src_append {l : List Cmd} {c : Cmd} (h : l.all (fun d => d.src != c.src) = true) (f : Cmd → Cmd) :
    (l ++ [c]).map (fun d => if d.src == c.src && d.id == c.id then f d else d) = l ++ [f c] := by
  rw [List.map_append]
  congr 1
  · conv => rhs; rw [← List.map_id l]
    apply List.map_congr_left
    intro d hd
    have := List.all_eq_true.1 h d hd
    simp at this
    simp [this]
  · simp

/-- The newest command in flight is `c`, the only one of its caller. -/
def Newest (s : State) (l : List Cmd) (c : Cmd) : Prop := s.q.cmds = l ++ [c] ∧ l.all (fun d => d.src != c.src) = true

theorem Newest.cmd? {s : State} {l : List Cmd} {c : Cmd} (h : Newest s l c) : s.cmd? c.src c.id = some c := by
  unfold State.cmd?
  rw [h.1]
  exact find_src_append h.2 (fun d => d.id == c.id) (by simp)

theorem Newest.modCmd {s : State} {l : List Cmd} {c : Cmd} (h : Newest s l c) (f : Cmd → Cmd) (hs : (f c).src = c.src) :
    s.modCmd c.src c.id f = s.setCmds (l ++ [f c]) ∧ Newest (s.modCmd c.src c.id f) l (f c) := by
  have e : s.modCmd c.src c.id f = s.setCmds (l ++ [f c]) := by
    unfold State.modCmd
    rw [h.1, map_src_append h.2]
  exact ⟨e, by rw [e]; exact rfl, by rw [hs]; exact h.2⟩

/-! ### A body that ends -/

/-- A header without SIGNAL has no remote signal: a command with one ends with its own status. -/
theorem endSignal_none {s : State} {src : Source} {id : Nat} {c : Cmd} (h : s.cmd? src id = some c) (hs : c.pkt.header.signal = false)
    (st : Status) (res : List W32) : s.endSignal src id st res = (some st, s) := by
  have hform : (c.readable && c.pkt.header.signalForm && c.pkt.header.sigRemote) = false := by
    unfold Header.signalForm
    simp [hs]
  unfold State.endSignal
  rw [h]
  simp only [hform, Bool.false_eq_true, if_false]

/-- Nor a local one. -/
theorem signalMeets_none {s : State} {c : Cmd} (hs : c.pkt.header.signal = false) : s.signalMeets c = .ok := by
  have hsig : c.localSignal = none := by
    unfold Cmd.localSignal Header.signalForm
    simp [hs]
  unfold State.signalMeets
  rw [hsig]

theorem signalStatus_none {s : State} {c : Cmd} (hs : c.pkt.header.signal = false) (st : Status) : s.signalStatus c st = st := by
  unfold State.signalStatus
  rw [signalMeets_none hs]
  split
  · next h => exact h.symm
  · rfl

theorem signalRefused_none {s : State} {c : Cmd} (hs : c.pkt.header.signal = false) : s.signalRefused c = false := by
  unfold State.signalRefused
  rw [signalMeets_none hs]
  rfl

/-- Completing the only command of its caller settles it: nothing is chained to it, no signal and no mirror waits. -/
theorem complete_newest {s : State} {l : List Cmd} {c : Cmd} (h : Newest s l c) (hm : c.mirrored = none)
    (hs : c.pkt.header.signal = false) (hw : s.graft.waits = []) (st : Status) (res : List W32) :
    s.complete c.src c.id st res = s.settle c.src c.id st res := by
  have hmir : s.mirrorOf c.src c.id = none := by
    unfold State.mirrorOf
    rw [hw]
    rfl
  unfold State.complete
  rw [h.cmd?]
  simp only [hm, hmir]
  unfold State.completeNow
  rw [h.cmd?]
  simp only [endSignal_none h.cmd? hs]
  unfold State.finish
  have hlen : s.q.cmds.length = l.length + 1 := by rw [h.1]; simp
  rw [hlen]
  unfold State.finishAux
  have hq : (s.settle c.src c.id st res).q.cmds = l ++ [{ c with phase := .done s.q.doneOrd st res s.now }] := by
    unfold State.settle
    rw [h.cmd?]
    simp only [Option.map_some, Option.getD_some, signalStatus_none hs, signalRefused_none hs, Bool.or_false]
    have := (h.modCmd (fun d => { d with phase := .done s.q.doneOrd st res s.now }) rfl).1
    rw [this]
    rfl
  simp only [hq]
  have : (l ++ [({ c with phase := .done s.q.doneOrd st res s.now } : Cmd)]).find?
      (fun d => d.src == c.src && d.chain == .after c.id && d.phase.undispatched) = none := by
    rw [List.find?_eq_none]
    intro d hd
    rcases List.mem_append.1 hd with hd | hd
    · have := List.all_eq_true.1 h.2 d hd
      simp at this
      simp [this]
    · rw [List.mem_singleton] at hd
      subst hd
      simp [Phase.undispatched]
  rw [this]

/-- Completing a command that nothing is chained to, with no signal and no mirror, settles it. -/
theorem complete_plain {s : State} {src : Source} {id : Nat} {c : Cmd} (h : s.cmd? src id = some c) (hm : c.mirrored = none)
    (hs : c.pkt.header.signal = false) (hc : ∀ d ∈ s.q.cmds, d.src = src → d.chain ≠ .after id) (hw : s.graft.waits = [])
    (st : Status) (res : List W32) : s.complete src id st res = s.settle src id st res := by
  have hmir : s.mirrorOf src id = none := by
    unfold State.mirrorOf
    rw [hw]
    rfl
  unfold State.complete
  rw [h]
  simp only [hm, hmir]
  unfold State.completeNow
  rw [h]
  simp only [endSignal_none h hs]
  unfold State.finish
  cases hn : s.q.cmds.length with
  | zero => rfl
  | succ n =>
    unfold State.finishAux
    have hq : (s.settle src id st res).q.cmds.find? (fun d => d.src == src && d.chain == .after id && d.phase.undispatched) = none := by
      rw [List.find?_eq_none]
      intro d hd
      unfold State.settle State.modQueue State.setQueue State.modCmd State.setCmds at hd
      simp only [List.mem_map] at hd
      obtain ⟨e, he, hde⟩ := hd
      have hsrc : d.src = e.src ∧ d.chain = e.chain := by
        rw [← hde]
        split <;> exact ⟨rfl, rfl⟩
      rw [hsrc.1, hsrc.2]
      intro hx
      simp at hx
      exact hc e he hx.1.1 hx.1.2
    simp only [hq]

/-- What settling makes of the commands in flight: one moves to its completed phase. -/
theorem settle_cmds {s : State} {src : Source} {id : Nat} {c : Cmd} (h : s.cmd? src id = some c) (hs : c.pkt.header.signal = false)
    (st : Status) (res : List W32) : (s.settle src id st res).q.cmds =
      s.q.cmds.map (fun d => if d.src == src && d.id == id then { d with phase := .done s.q.doneOrd st res s.now } else d) := by
  unfold State.settle
  rw [h]
  simp only [Option.map_some, Option.getD_some, signalStatus_none hs, signalRefused_none hs, Bool.or_false]
  rfl

/-! ### A ready packet -/

theorem ready_iff {s : State} {sp : OpSpec} {src : Source} {p : Packet} : s.ready sp src p = true ↔
    s.fetchable src = true ∧ s.q.cmds.all (fun c => c.src != src) = true ∧ (inAux src (p.withOp sp.code) = true ∨ s.seqFree src = true) ∧ (s.queue src).last.any (fun l => l.chain) = false ∧
    stage1Of sp src (p.withOp sp.code) (s.queue src).jump.isSome = none ∧ (p.withOp sp.code).header.plain = true ∧
    s.recordRoom src = true ∧ s.served src (p.withOp sp.code) = true ∧
    s.graft.waits = [] ∧ (sp.code / 256 ≠ 2 ∨ (s.graft.state ≠ .mirroring ∧ s.graft.draining = false)) := by
  simp [State.ready, and_assoc]

/-- The state the body sees holds the packet as its newest command. -/
theorem atBody_newest {s : State} {sp : OpSpec} {src : Source} {p : Packet} (h : s.ready sp src p = true) :
    Newest (s.atBody sp src p) s.q.cmds (s.flying sp src p) :=
  ⟨rfl, (ready_iff.1 h).2.1⟩

@[simp] theorem fetchPairs_nil (s : State) (src : Source) (p : Packet) : s.fetchPairs src p [] = (.ok [], s) := rfl

theorem fetchedFails_plain {sp : OpSpec} {src : Source} {p : Packet} (w : Params) (h : p.header.plain = true) :
    fetchedFails sp src p w = none := by
  unfold fetchedFails
  rw [Header.plain_indWords h]
  have : (sp.checksFor src).filter (fun c => c.words.any ([] : List Nat).contains) = [] := by
    rw [List.filter_eq_nil_iff]
    intro c _
    simp
  simp only [this]
  rfl

theorem State.setCmds_setCmds (s : State) (l m : List Cmd) : (s.setCmds l).setCmds m = s.setCmds m := rfl

/-- The state after admitting a ready packet, and its command in flight. -/
def admitted (s : State) (src : Source) (p : Packet) : State :=
  (s.setQueue src { s.queue src with
    nextId := (s.queue src).nextId + 1
    last := some { id := (s.queue src).nextId, chain := p.header.chain, outcome := none } }).setCmds
      (s.q.cmds ++ [{ src := src, id := (s.queue src).nextId, pkt := p }])

theorem admit_ready {s : State} {src : Source} {p : Packet} (hl : (s.queue src).last.any (fun l => l.chain) = false) :
    s.accept src p true = ((s.queue src).nextId, admitted s src p) := by
  unfold State.accept admitted
  cases hq : (s.queue src).last with
  | none => simp only [if_true, Bool.true_and]; rw [hq]
  | some l =>
    have hl' : l.chain = false := by simpa [hq] using hl
    simp only [if_true, Bool.true_and]
    rw [hq]
    simp [hl']

theorem waitKind_newest {s : State} {l : List Cmd} {c : Cmd} (h : Newest s l c) (hc : c.chain = .none) (hp : c.pkt.header.plain = true) :
    s.waitKind c = none := by
  have hb : s.q.cmds.filter (fun d => d.src == c.src && decide (d.id < c.id) && !d.phase.isDone) = [] := by
    rw [h.1, List.filter_append]
    have : l.filter (fun d => d.src == c.src && decide (d.id < c.id) && !d.phase.isDone) = [] := by
      have := filter_src_nil h.2 (fun d => decide (d.id < c.id) && !d.phase.isDone)
      simpa [Bool.and_assoc] using this
    simp [this]
  unfold State.waitKind
  simp only [hb, hc, Header.plain_wait hp, Header.plain_barrier hp]
  simp

theorem queue_setQueue_same (s : State) (src : Source) (r : Queue) : (s.setQueue src r).queue src = r := by
  unfold State.queue State.setQueue
  simp

theorem mayDispatch_newest {s : State} {l : List Cmd} {c : Cmd} (h : Newest s l c) (hc : c.chain = .none) (hp : c.pkt.header.plain = true)
    (hh : c.held = none)
    (hph : c.phase = .waiting) (hr : s.recordRoom c.src = true) (hm : s.served c.src c.pkt = true)
    (hd : c.pkt.header.op.toNat / 256 ≠ 2 ∨ s.graft.draining = false) : s.mayDispatch c = true := by
  unfold State.mayDispatch
  rw [hph]
  simp only [waitKind_newest h hc hp]
  have h2 : (!(s.graft.draining && c.pkt.header.op.toNat / 256 == 2)) = true := by
    rcases hd with hd | hd <;> simp [hd]
  have h3 : s.handedOver c = true := by
    unfold State.handedOver
    rw [hh]
  rw [h2, h3]
  unfold State.recordRoom at hr
  unfold State.served State.mgmtServes at hm
  cases hs : c.src with
  | mgmt t => rw [hs] at hm; simp at hm ⊢; rcases hm with hm | hm <;> simp [hm]
  | cp k => rw [hs] at hr; simpa using hr
  | part p k => rw [hs] at hr; simpa using hr

theorem runCmd_served {s : State} {c : Cmd} (sp : OpSpec) (body : Body) (hm : s.served c.src c.pkt = true) :
    s.runCmd sp body c = s.dispatchCmd sp body c := by
  unfold State.runCmd
  unfold State.served State.mgmtServes at hm
  cases hs : c.src with
  | mgmt t =>
    rw [hs] at hm
    have : (s.mainInReset && !isAuxCmd c.pkt.header.op.toNat c.pkt.word) = false := by
      simp at hm ⊢; rcases hm with hm | hm <;> simp [hm]
    simp [this]
  | cp k => rfl
  | part p k => rfl

theorem mirrorBody_plain {s : State} {src : Source} {id : Nat} {p : Packet} {w : Params} (b : State → BodyOut × State)
    (h : p.header.op.toNat / 256 ≠ 2 ∨ s.graft.state ≠ .mirroring) : s.mirrorBody src id p w b = b s := by
  unfold State.mirrorBody
  cases srcPart src with
  | none => rfl
  | some q =>
    simp only []
    rw [if_pos]
    rcases h with h | h <;> simp [h]

/-- Stages 4 and 5 of a command of no mirrored round are its body, and its outcome goes into the command. -/
theorem runBody_plain {s : State} {c : Cmd} (body : Body) (w : Params) (h : c.pkt.header.op.toNat / 256 ≠ 2 ∨ s.graft.state ≠ .mirroring) :
    s.runBody body c w =
      (body { src := c.src, id := c.id, hdr := c.pkt.header, w := w } s).2.after c.src c.id
        (body { src := c.src, id := c.id, hdr := c.pkt.header, w := w } s).1 := by
  unfold State.runBody
  rw [mirrorBody_plain _ h]

/-- Dispatching the newest command, with a plain header, gives it its epoch, tag and serial number, and runs its body at once. -/
theorem dispatchCmd_newest {s : State} {l : List Cmd} {c : Cmd} (sp : OpSpec) (body : Body) (h : Newest s l c) (hh : c.held = none)
    (hp : c.pkt.header.plain = true) (hop : c.pkt.header.op.toNat / 256 ≠ 2 ∨ s.graft.state ≠ .mirroring) :
    s.dispatchCmd sp body c =
      let u : State := { s with q := { s.q with
        serials := s.q.nextSerials c.src
        cmds := l ++ [{ c with
          epoch := s.dispatchEpoch c.src, tag := s.sourceTag (srcIsland c.src), serial := s.q.serial c.src
          words := (List.range c.pkt.words).map c.pkt.word }] } }
      let ctx : Ctx := { src := c.src, id := c.id, hdr := c.pkt.header, w := c.pkt.word }
      (body ctx u).2.after c.src c.id (body ctx u).1 := by
  unfold State.dispatchCmd
  rw [if_neg (by rw [hh]; exact Bool.false_ne_true)]
  dsimp only
  rw [Header.plain_marked hp, fetchPairs_nil]
  dsimp only
  rw [withPairs_nil, fetchedFails_plain _ hp]
  dsimp only
  have h0 : Newest { s with q := { s.q with serials := s.q.nextSerials c.src } } l c := h
  have e1 := h0.modCmd (fun d => { d with epoch := s.dispatchEpoch c.src, tag := s.sourceTag (srcIsland c.src), serial := s.q.serial c.src }) rfl
  have e2 := e1.2.modCmd (fun d => { d with words := (List.range c.pkt.words).map c.pkt.word }) rfl
  have e3 : (({ s with q := { s.q with serials := s.q.nextSerials c.src } } : State).modCmd c.src c.id
      (fun d => { d with epoch := s.dispatchEpoch c.src, tag := s.sourceTag (srcIsland c.src), serial := s.q.serial c.src })).modCmd c.src c.id
        (fun d => { d with words := (List.range c.pkt.words).map c.pkt.word }) =
      { s with q := { s.q with
        serials := s.q.nextSerials c.src
        cmds := l ++ [{ c with
          epoch := s.dispatchEpoch c.src, tag := s.sourceTag (srcIsland c.src), serial := s.q.serial c.src
          words := (List.range c.pkt.words).map c.pkt.word }] } } := by
    rw [show _ = _ from e2.1]
    rw [show _ = _ from e1.1]
    rfl
  refine (congrArg (fun u => State.runBody u body c c.pkt.word) e3).trans ?_
  apply runBody_plain body c.pkt.word
  exact hop

/-- Of a queue's record a dispatch slot can change the class alone. -/
theorem passSlot_queue (s : State) (b : Queues) (hb : b.queues = s.q.queues) (csq rt cp : Nat) (x : Source) :
    ∃ r k, ({ s with q := b.passSlot csq rt cp } : State).queue x = { s.queue x with realtime := r, classNext := k } := by
  unfold State.queue Queues.passSlot
  dsimp only
  rw [hb]
  split
  · exact ⟨_, _, rfl⟩
  · unfold Tab.get
    rw [Tab.find?_map]
    cases Tab.find? s.q.queues (srcKey x) with
    | none => exact ⟨(freshQueue (srcKey x)).realtime, (freshQueue (srcKey x)).classNext, rfl⟩
    | some q =>
      simp only [Option.map_some, Option.getD_some]
      split
      · exact ⟨q.classNext.getD q.realtime, none, rfl⟩
      · exact ⟨q.realtime, q.classNext, rfl⟩

theorem giveSlot_queue (s : State) (csq part agent k : Nat) (x : Source) :
    ∃ r n, ({ s with q := s.q.giveSlot csq part agent k } : State).queue x = { s.queue x with realtime := r, classNext := n } := by
  unfold Queues.giveSlot
  apply passSlot_queue
  rfl

/-- A ready packet is admitted, takes its slot, and its stages 4 and 5 run at once on the state that holds it in flight. -/
theorem present_ready {s : State} {sp : OpSpec} {src : Source} {p : Packet} (body : Body) (h : s.ready sp src p = true)
    (hc : sp.code < 2 ^ 16) :
    s.present sp body src p =
      (body (s.ctxOf sp src p) (s.atBody sp src p)).2.after src (s.nextCmd src) (body (s.ctxOf sp src p) (s.atBody sp src p)).1 := by
  obtain ⟨hf, hq, hfree, hl, h1, hp, hr, hm, hw, hd⟩ := ready_iff.1 h
  have hop : (p.withOp sp.code).header.op.toNat = sp.code := withOp_opNat p hc
  have hn : Newest (admitted s src (p.withOp sp.code)) s.q.cmds { src := src, id := (s.queue src).nextId, pkt := p.withOp sp.code } :=
    ⟨rfl, hq⟩
  have he : (admitted s src (p.withOp sp.code)).queue src = { s.queue src with
      nextId := (s.queue src).nextId + 1
      last := some { id := (s.queue src).nextId, chain := (p.withOp sp.code).header.chain, outcome := none } } := by
    show (s.setQueue src _).queue src = _
    rw [queue_setQueue_same]
  have hmay : (admitted s src (p.withOp sp.code)).mayDispatch { src := src, id := (s.queue src).nextId, pkt := p.withOp sp.code } = true := by
    refine mayDispatch_newest hn rfl hp rfl rfl ?_ hm ?_
    · unfold State.recordRoom at hr ⊢
      rw [he]
      exact hr
    · rw [hop]; exact hd.imp id (·.2)
  unfold State.present
  simp only [hf, Bool.not_true, Bool.false_eq_true, if_false]
  unfold State.fetchPacket
  rw [admit_ready hl]
  simp only [hn.cmd?, Option.map_some, Option.getD_some, reduceCtorEq, if_false, h1, hmay, Bool.not_true, Bool.false_eq_true]
  have hg : (p.withOp sp.code).header.op.toNat / 256 ≠ 2 ∨ s.graft.state ≠ .mirroring := by rw [hop]; exact hd.imp id (·.1)
  by_cases ha : inAux src (p.withOp sp.code) = true
  · have ha' : Cmd.inAux { src := src, id := (s.queue src).nextId, pkt := p.withOp sp.code } = true := ha
    rw [if_pos ha', runCmd_served sp body hm, dispatchCmd_newest sp body hn rfl hp hg]
    have hep : (admitted s src (p.withOp sp.code)).dispatchEpoch src = s.dispatchEpoch src := by
      unfold State.dispatchEpoch
      rw [he]
    dsimp only
    rw [hep]
    have : s.slotted sp src p = (s.counted sp src p).q := if_pos ha
    unfold State.atBody
    rw [this]
    rfl
  · have ha' : ¬ Cmd.inAux { src := src, id := (s.queue src).nextId, pkt := p.withOp sp.code } = true := ha
    rw [if_neg ha', if_pos (hfree.resolve_left ha)]
    have hn' : Newest ((admitted s src (p.withOp sp.code)).takeDispatch src) s.q.cmds
        { src := src, id := (s.queue src).nextId, pkt := p.withOp sp.code } := hn
    rw [runCmd_served sp body hm, dispatchCmd_newest sp body hn' rfl hp hg]
    have hep : ((admitted s src (p.withOp sp.code)).takeDispatch src).dispatchEpoch src = s.dispatchEpoch src := by
      obtain ⟨r, k, hq⟩ := giveSlot_queue (admitted s src (p.withOp sp.code)) (csqOf src) (robinPart src) (robinAgent src)
        ((admitted s src (p.withOp sp.code)).slotClass src) src
      unfold State.dispatchEpoch State.takeDispatch
      rw [hq, he]
    dsimp only
    rw [hep]
    have : s.slotted sp src p = ((s.counted sp src p).takeDispatch src).q := if_neg ha
    unfold State.atBody
    rw [this]
    rfl

/-! ### Any command in flight -/

theorem find?_map_if {l : List Cmd} {src : Source} {id : Nat} {c : Cmd} (f : Cmd → Cmd) (hf : ∀ d, (f d).src = d.src ∧ (f d).id = d.id)
    (h : l.find? (fun d => d.src == src && d.id == id) = some c) :
    (l.map (fun d => if d.src == src && d.id == id then f d else d)).find? (fun d => d.src == src && d.id == id) = some (f c) := by
  induction l with
  | nil => cases h
  | cons d l ih =>
    rw [List.map_cons, List.find?_cons]
    rw [List.find?_cons] at h
    by_cases hd : (d.src == src && d.id == id) = true
    · rw [hd] at h
      rw [if_pos hd, (hf d).1, (hf d).2, hd]
      exact congrArg (fun x => some (f x)) (Option.some.inj h)
    · have hd' : (d.src == src && d.id == id) = false := by simpa using hd
      rw [hd'] at h
      simp only [hd', Bool.false_eq_true, if_false]
      exact ih h

theorem cmd?_modCmd {s : State} {src : Source} {id : Nat} {c : Cmd} (f : Cmd → Cmd) (hf : ∀ d, (f d).src = d.src ∧ (f d).id = d.id)
    (h : s.cmd? src id = some c) : (s.modCmd src id f).cmd? src id = some (f c) := find?_map_if f hf h

/-- The command found bears the caller and the number asked for, and is in flight. -/
theorem cmd?_some {s : State} {src : Source} {id : Nat} {c : Cmd} (h : s.cmd? src id = some c) : c.src = src ∧ c.id = id ∧ c ∈ s.q.cmds := by
  have h1 := List.find?_some h
  simp at h1
  exact ⟨h1.1, h1.2, List.mem_of_find?_eq_some h⟩

/-- Dispatching a command with a plain header runs its body at once. -/
theorem dispatchCmd_plain {s : State} {c : Cmd} (sp : OpSpec) (body : Body) (hh : c.held = none) (hp : c.pkt.header.plain = true)
    (hop : c.pkt.header.op.toNat / 256 ≠ 2 ∨ s.graft.state ≠ .mirroring) :
    ∃ u sr ep tag n, u = (({ s with q := { s.q with serials := sr } } : State).modCmd c.src c.id
        (fun d => { d with epoch := ep, tag := tag, serial := n })).modCmd c.src c.id
          (fun d => { d with words := (List.range c.pkt.words).map c.pkt.word }) ∧
      s.dispatchCmd sp body c =
        (body { src := c.src, id := c.id, hdr := c.pkt.header, w := c.pkt.word } u).2.after c.src c.id
          (body { src := c.src, id := c.id, hdr := c.pkt.header, w := c.pkt.word } u).1 := by
  unfold State.dispatchCmd
  rw [hh]
  simp only [Option.isSome_none, Bool.false_eq_true, if_false]
  refine ⟨_, s.q.nextSerials c.src, s.dispatchEpoch c.src, s.sourceTag (srcIsland c.src), s.q.serial c.src, rfl, ?_⟩
  rw [Header.plain_marked hp, fetchPairs_nil]
  dsimp only
  rw [withPairs_nil, fetchedFails_plain _ hp]
  dsimp only
  exact runBody_plain body c.pkt.word (by exact hop)

end Sys2Proof.Machine
end

