-- ==== Sys2Proof/Laws/Rows.lean ====
section
/-!
SUPPORT. The next state of a row whose packet is ready: what its completion, or its staying at stage 5, makes of the queue
block, from what its body answers. One lemma for a body that leaves the queue block alone, one for any body.
-/

namespace Sys2Proof.Machine
open Sys2Proof

/-! ### Settling the newest command -/

@[simp] theorem settle_with_q (u : State) (src : Source) (id : Nat) (st : Status) (res : List W32) :
    u.settle src id st res = { u with q := (u.settle src id st res).q } := rfl

theorem settle_newest_cmds {u : State} {l : List Cmd} {c : Cmd} (h : Newest u l c) (hs : c.pkt.header.signal = false) (st : Status) (res : List W32) :
    (u.settle c.src c.id st res).q.cmds = l ++ [{ c with phase := .done u.q.doneOrd st res u.now }] := by
  unfold State.settle
  rw [h.cmd?]
  simp only [Option.map_some, Option.getD_some, signalStatus_none hs, signalRefused_none hs, Bool.or_false]
  have := (h.modCmd (fun c => { c with phase := .done u.q.doneOrd st res u.now }) rfl).1
  rw [this]
  rfl

theorem settle_queues_other (u : State) (src : Source) (id : Nat) (st : Status) (res : List W32) {k : Nat} (hk : k ≠ srcKey src) :
    Tab.find? (u.settle src id st res).q.queues k = Tab.find? u.q.queues k := by
  unfold State.settle State.modQueue State.setQueue
  exact Tab.find?_insert_other _ _ hk

theorem settle_queue (u : State) (src : Source) (id : Nat) (st : Status) (res : List W32) :
    (u.settle src id st res).queue src = { u.queue src with last := ((u.settle src id st res).queue src).last } := by
  unfold State.settle State.modQueue
  rw [queue_setQueue_same]
  simp only [State.queue, State.modCmd, State.setCmds]
  split
  · split <;> rfl
  · rfl

theorem settle_rest (u : State) (src : Source) (id : Nat) (st : Status) (res : List W32) :
    (u.settle src id st res).q = { u.q with
      cmds := (u.settle src id st res).q.cmds, doneOrd := u.q.doneOrd + 1, queues := (u.settle src id st res).q.queues } := rfl

/-! ### The state that stages 4 and 5 see -/

theorem atBody_with_q (s : State) (sp : OpSpec) (src : Source) (p : Packet) : s.atBody sp src p = { s with q := (s.atBody sp src p).q } := rfl

/-- Fetching the packet changes neither the class of its slot nor what the sequencers hold. -/
theorem counted_slotClass (s : State) (sp : OpSpec) (src : Source) (p : Packet) : (s.counted sp src p).slotClass src = s.slotClass src := by
  unfold State.slotClass
  have h : (s.counted sp src p).queue src = _ := queue_setQueue_same _ _ _
  rw [h]
  rfl

/-- The slot of a fetched packet does to its caller's own record what it does before the fetch, and to the others' the same. -/
theorem counted_slot (s : State) (sp : OpSpec) (src : Source) (p : Packet) :
    (∀ k, k ≠ srcKey src → Tab.find? ((s.counted sp src p).takeDispatch src).q.queues k = Tab.find? (s.takeDispatch src).q.queues k) ∧
    ((s.counted sp src p).takeDispatch src).queue src = { (s.takeDispatch src).queue src with
      nextId := (s.queue src).nextId + 1
      last := some { id := (s.queue src).nextId, chain := (p.withOp sp.code).header.chain, outcome := none } } ∧
    ((s.counted sp src p).takeDispatch src).q =
      { (s.takeDispatch src).q with queues := ((s.counted sp src p).takeDispatch src).q.queues } := by
  refine ⟨?_, ?_, ?_⟩
  · intro k hk
    unfold State.takeDispatch Queues.giveSlot Queues.passSlot
    dsimp only
    show Tab.find? (if _ then (s.counted sp src p).q.queues else Tab.map _ (s.counted sp src p).q.queues) k = Tab.find? (if _ then s.q.queues else _) k
    have e : Tab.find? (s.counted sp src p).q.queues k = Tab.find? s.q.queues k := Tab.find?_insert_other _ _ hk
    have g : (s.counted sp src p).q.seqs = s.q.seqs := rfl
    rw [g, counted_slotClass]
    split
    · exact e
    · rw [Tab.find?_map, Tab.find?_map, e]
  · unfold State.queue State.takeDispatch Queues.giveSlot Queues.passSlot
    dsimp only
    have g : (s.counted sp src p).q.seqs = s.q.seqs := rfl
    have e : Tab.find? (s.counted sp src p).q.queues (srcKey src) = some { s.queue src with
      nextId := (s.queue src).nextId + 1
      last := some { id := (s.queue src).nextId, chain := (p.withOp sp.code).header.chain, outcome := none } } := Tab.find?_insert_same _ _ _
    rw [g, counted_slotClass]
    split
    · unfold Tab.get
      rw [e]
      rfl
    · unfold Tab.get
      rw [Tab.find?_map, Tab.find?_map, e]
      unfold State.queue Tab.get
      cases Tab.find? s.q.queues (srcKey src) with
      | none =>
        simp only [Option.map_some, Option.map_none, Option.getD_some, Option.getD_none]
        split <;> rfl
      | some q =>
        simp only [Option.map_some, Option.getD_some]
        split <;> rfl
  · unfold State.takeDispatch Queues.giveSlot Queues.passSlot
    dsimp only
    rw [counted_slotClass]
    rfl

/-- What stages 1 to 3 of a ready packet have changed in the queue block. -/
theorem atBody_moved (s : State) (sp : OpSpec) (src : Source) (p : Packet) : QueuesMoved s (s.atBody sp src p) src := by
  unfold QueuesMoved
  by_cases ha : inAux src (p.withOp sp.code) = true
  · have hs : ∃ k, src = .mgmt k := by
      cases src with
      | mgmt k => exact ⟨k, rfl⟩
      | cp k => exact absurd ha Bool.false_ne_true
      | part a b => exact absurd ha Bool.false_ne_true
    have e : s.slotted sp src p = (s.counted sp src p).q := if_pos ha
    have hb : (s.atBody sp src p).q = { (s.counted sp src p).q with
        serials := s.q.nextSerials src, cmds := s.q.cmds ++ [s.flying sp src p] } :=
      congrArg (fun b : Queues => { b with serials := b.nextSerials src, cmds := s.q.cmds ++ [s.flying sp src p] }) e
    have hq : (s.atBody sp src p).q.queues = (s.counted sp src p).q.queues := by rw [hb]
    refine ⟨s, .inr ⟨hs, rfl⟩, ?_, ?_, ?_⟩
    · intro k hk
      rw [hq]
      exact Tab.find?_insert_other _ _ hk
    · have : (s.atBody sp src p).queue src = (s.counted sp src p).queue src := by unfold State.queue; rw [hq]
      rw [this]
      unfold State.counted
      rw [queue_setQueue_same]
    · rw [hb]
      rfl
  · have e : s.slotted sp src p = ((s.counted sp src p).takeDispatch src).q := if_neg ha
    have hb : (s.atBody sp src p).q = { ((s.counted sp src p).takeDispatch src).q with
        serials := s.q.nextSerials src, cmds := s.q.cmds ++ [s.flying sp src p] } :=
      congrArg (fun b : Queues => { b with serials := b.nextSerials src, cmds := s.q.cmds ++ [s.flying sp src p] }) e
    have hq : (s.atBody sp src p).q.queues = ((s.counted sp src p).takeDispatch src).q.queues := by rw [hb]
    obtain ⟨h1, h2, h3⟩ := counted_slot s sp src p
    refine ⟨s.takeDispatch src, .inl rfl, ?_, ?_, ?_⟩
    · intro k hk
      rw [hq]
      exact h1 k hk
    · have : (s.atBody sp src p).queue src = ((s.counted sp src p).takeDispatch src).queue src := by unfold State.queue; rw [hq]
      rw [this, h2]
    · rw [hb]
      exact congrArg (fun b : Queues => { b with serials := s.q.nextSerials src, cmds := s.q.cmds ++ [s.flying sp src p] }) h3

@[simp] theorem atBody_doneOrd (s : State) (sp : OpSpec) (src : Source) (p : Packet) : (s.atBody sp src p).q.doneOrd = s.q.doneOrd := by
  show (s.slotted sp src p).doneOrd = _
  unfold State.slotted
  split <;> rfl

@[simp] theorem atBody_progress (s : State) (sp : OpSpec) (src : Source) (p : Packet) : (s.atBody sp src p).q.progress = s.q.progress := by
  show (s.slotted sp src p).progress = _
  unfold State.slotted
  split <;> rfl

/-- What changes only the commands in flight, the completions, the progress counters and the last outcome of the caller's own record keeps
to `QueuesMoved`. -/
theorem QueuesMoved.on {s u t : State} {src : Source} (h : QueuesMoved s u src)
    (hq : ∀ k, k ≠ srcKey src → Tab.find? t.q.queues k = Tab.find? u.q.queues k)
    (ho : t.queue src = { u.queue src with last := (t.queue src).last })
    (hr : t.q = { u.q with cmds := t.q.cmds, doneOrd := t.q.doneOrd, queues := t.q.queues, progress := t.q.progress }) :
    QueuesMoved s t src := by
  obtain ⟨v, hv, h1, h2, h3⟩ := h
  refine ⟨v, hv, fun k hk => (hq k hk).trans (h1 k hk), ?_, ?_⟩
  · refine ho.trans ?_
    exact congrArg (fun q : Queue => { q with last := (t.queue src).last }) h2
  · refine hr.trans ?_
    exact congrArg (fun q : Queues => { q with cmds := t.q.cmds, doneOrd := t.q.doneOrd, queues := t.q.queues, progress := t.q.progress }) h3

theorem flying_plain {s : State} {sp : OpSpec} {src : Source} {p : Packet} (h : s.ready sp src p = true) :
    (s.flying sp src p).pkt.header.signal = false := Header.plain_signal (ready_iff.1 h).2.2.2.2.2.1

/-! ### Rows -/

/-- The next state of a ready row whose body ends with `st`. -/
theorem row_done {s u : State} {sp : OpSpec} {body : Body} {src : Source} {p : Packet} {st : Status} {res : List W32} {c : Cmd}
    (h : s.ready sp src p = true) (hc : sp.code < 2 ^ 16)
    (hb : body (s.ctxOf sp src p) (s.atBody sp src p) = (.done st res, u))
    (hn : Newest u s.q.cmds c) (hsrc : c.src = src) (hid : c.id = s.nextCmd src) (hmi : c.mirrored = none)
    (hsig : c.pkt.header.signal = false) (hw : u.graft.waits = []) (hp : u.pending = s.pending) (hm : u.memOk) :
    runRow sp body src p s = .next (u.settle src (s.nextCmd src) st res) := by
  unfold runRow
  rw [present_ready body h hc, hb]
  subst hsrc
  have := complete_newest hn hmi hsig hw st res
  rw [hid] at this
  show s.conclude (u.complete c.src (s.nextCmd c.src) st res) = _
  rw [this]
  exact State.conclude_eq hp hm

/-- A ready row whose body ends, whatever the body changed of the queue block. -/
theorem row_answered {s u : State} {sp : OpSpec} {body : Body} {src : Source} {p : Packet} {st : Status} {res : List W32} {c : Cmd}
    (h : s.ready sp src p = true) (hc : sp.code < 2 ^ 16)
    (hb : body (s.ctxOf sp src p) (s.atBody sp src p) = (.done st res, u))
    (hn : Newest u s.q.cmds c) (hsrc : c.src = src) (hid : c.id = s.nextCmd src) (hmi : c.mirrored = none)
    (hsig : c.pkt.header.signal = false) (hw : u.graft.waits = []) (hp : u.pending = s.pending) (hm : u.memOk) (hnow : u.now = s.now)
    (hord : u.q.doneOrd = s.q.doneOrd) :
    ∃ t, runRow sp body src p s = .next t ∧ Completed s t src st res ∧ t = { u with q := t.q } ∧
      t.q = { u.q with cmds := t.q.cmds, doneOrd := s.q.doneOrd + 1, queues := t.q.queues } ∧
      (∀ k, k ≠ srcKey src → Tab.find? t.q.queues k = Tab.find? u.q.queues k) ∧
      t.queue src = { u.queue src with last := (t.queue src).last } := by
  refine ⟨_, row_done h hc hb hn hsrc hid hmi hsig hw hp hm, ?_, rfl, ?_, ?_, ?_⟩
  · have := settle_newest_cmds hn hsig st res
    rw [hsrc, hid] at this
    exact ⟨_, this, rfl, rfl, by rw [hord, hnow]⟩
  · rw [← hord]
    exact settle_rest _ _ _ _ _
  · exact fun k hk => settle_queues_other _ _ _ _ _ hk
  · exact settle_queue _ _ _ _ _

/-- A ready row whose body ends and has left the queue block alone but for its own command's record. -/
theorem row_completed {s u : State} {sp : OpSpec} {body : Body} {src : Source} {p : Packet} {st : Status} {res : List W32} {c : Cmd}
    (h : s.ready sp src p = true) (hc : sp.code < 2 ^ 16)
    (hb : body (s.ctxOf sp src p) (s.atBody sp src p) = (.done st res, u))
    (hn : Newest u s.q.cmds c) (hsrc : c.src = src) (hid : c.id = s.nextCmd src) (hmi : c.mirrored = none)
    (hsig : c.pkt.header.signal = false) (hw : u.graft.waits = []) (hp : u.pending = s.pending) (hm : u.memOk) (hnow : u.now = s.now)
    (hq : u.q = { (s.atBody sp src p).q with cmds := u.q.cmds, progress := u.q.progress }) :
    ∃ t, runRow sp body src p s = .next t ∧ Completed s t src st res ∧ QueuesMoved s t src ∧ t.q.progress = u.q.progress ∧
      t = { u with q := t.q } := by
  have hord : u.q.doneOrd = s.q.doneOrd := by rw [hq]; exact atBody_doneOrd s sp src p
  have hqs : u.q.queues = (s.atBody sp src p).q.queues := by rw [hq]
  have huq : u.queue src = (s.atBody sp src p).queue src := by unfold State.queue; rw [hqs]
  refine ⟨_, row_done h hc hb hn hsrc hid hmi hsig hw hp hm, ?_, (atBody_moved s sp src p).on ?_ ?_ ?_, rfl, rfl⟩
  · have := settle_newest_cmds hn hsig st res
    rw [hsrc, hid] at this
    exact ⟨_, this, rfl, rfl, by rw [hord, hnow]⟩
  · intro k hk
    rw [settle_queues_other _ _ _ _ _ hk, hqs]
  · rw [← huq]; exact settle_queue _ _ _ _ _
  · exact congrArg (fun x : Queues => { x with
      cmds := (u.settle src (s.nextCmd src) st res).q.cmds, doneOrd := u.q.doneOrd + 1,
      queues := (u.settle src (s.nextCmd src) st res).q.queues }) hq

/-- A ready row whose body ends and changes nothing of the queue block. -/
theorem row_simple {s u : State} {sp : OpSpec} {body : Body} {src : Source} {p : Packet} {st : Status} {res : List W32}
    (h : s.ready sp src p = true) (hc : sp.code < 2 ^ 16)
    (hb : body (s.ctxOf sp src p) (s.atBody sp src p) = (.done st res, u)) (hq : u.q = (s.atBody sp src p).q)
    (hw : u.graft.waits = s.graft.waits) (hp : u.pending = s.pending) (hm : u.memOk) (hnow : u.now = s.now) :
    ∃ t, runRow sp body src p s = .next t ∧ Completed s t src st res ∧ QueuesKept s t src ∧ t = { u with q := t.q } := by
  obtain ⟨t, h1, h2, h3, h4, h5⟩ := row_completed h hc hb (c := s.flying sp src p) ⟨by rw [hq]; rfl, (ready_iff.1 h).2.1⟩ rfl rfl rfl
    (flying_plain h) (by rw [hw]; exact (ready_iff.1 h).2.2.2.2.2.2.2.2.1) hp hm hnow (by rw [hq])
  exact ⟨t, h1, h2, ⟨h3, by rw [h4, hq]; exact atBody_progress s sp src p⟩, h5⟩

/-- A ready row that ends and changes nothing at all. -/
theorem row_still {s : State} {sp : OpSpec} {body : Body} {src : Source} {p : Packet} {st : Status} {res : List W32}
    (h : s.ready sp src p = true) (hc : sp.code < 2 ^ 16) (hm : s.memOk)
    (hb : body (s.ctxOf sp src p) (s.atBody sp src p) = (.done st res, s.atBody sp src p)) :
    ∃ t, runRow sp body src p s = .next t ∧ Completed s t src st res ∧ QueuesKept s t src ∧ UnitsKept s t :=
  row_simple (u := s.atBody sp src p) h hc hb rfl rfl rfl hm rfl

theorem after_run {u : State} {l : List Cmd} {c : Cmd} (hn : Newest u l c) (hph : c.phase = .waiting) (w : Work) (hw : ∀ d, w ≠ .held d) :
    u.after c.src c.id (.run w) = u.setCmds (l ++ [{ c with phase := .executing w }]) := by
  have e : Cmd.enter w c = { c with phase := .executing w } := by simp [Cmd.enter, hph]
  have e' : u.after c.src c.id (.run w) = u.modCmd c.src c.id (Cmd.enter w) := by
    unfold State.after
    split
    · cases ‹BodyOut.run w = BodyOut.done _ _›
    · rename_i d hd
      exact absurd (BodyOut.run.inj hd) (hw d)
    · rename_i x _ hx
      rw [BodyOut.run.inj hx]
  rw [e', (hn.modCmd (Cmd.enter w) (by rw [e])).1, e]

/-- The next state of a ready row whose body stays at stage 5. -/
theorem row_run {s u : State} {sp : OpSpec} {body : Body} {src : Source} {p : Packet} {w : Work} {c : Cmd}
    (h : s.ready sp src p = true) (hc : sp.code < 2 ^ 16)
    (hb : body (s.ctxOf sp src p) (s.atBody sp src p) = (.run w, u))
    (hn : Newest u s.q.cmds c) (hsrc : c.src = src) (hid : c.id = s.nextCmd src) (hph : c.phase = .waiting)
    (hw : ∀ d, w ≠ .held d) (hp : u.pending = s.pending) (hm : u.memOk) :
    runRow sp body src p s = .next (u.setCmds (s.q.cmds ++ [{ c with phase := .executing w }])) := by
  unfold runRow
  rw [present_ready body h hc, hb, ← hsrc, ← (show c.id = s.nextCmd c.src by rw [hsrc, hid])]
  show s.conclude (u.after c.src c.id (.run w)) = _
  rw [after_run hn hph w hw]
  exact State.conclude_eq hp hm

/-- A ready row that stays at stage 5 and has left the queue block alone but for its own command's record. -/
theorem row_executes {s u : State} {sp : OpSpec} {body : Body} {src : Source} {p : Packet} {w : Work} {c : Cmd}
    (h : s.ready sp src p = true) (hc : sp.code < 2 ^ 16)
    (hb : body (s.ctxOf sp src p) (s.atBody sp src p) = (.run w, u))
    (hn : Newest u s.q.cmds c) (hsrc : c.src = src) (hid : c.id = s.nextCmd src) (hph : c.phase = .waiting)
    (hw : ∀ d, w ≠ .held d) (hp : u.pending = s.pending) (hm : u.memOk) (hq : u.q = { (s.atBody sp src p).q with cmds := u.q.cmds }) :
    ∃ t, runRow sp body src p s = .next t ∧ Executes s t src w ∧ QueuesKept s t src ∧ t = { u with q := t.q } := by
  have hqs : u.q.queues = (s.atBody sp src p).q.queues := by rw [hq]
  have huq : u.queue src = (s.atBody sp src p).queue src := by unfold State.queue; rw [hqs]
  refine ⟨_, row_run h hc hb hn hsrc hid hph hw hp hm, ⟨_, rfl, hsrc, hid, rfl⟩, ⟨(atBody_moved s sp src p).on ?_ ?_ ?_, ?_⟩, rfl⟩
  · intro k hk
    show Tab.find? u.q.queues k = _
    rw [hqs]
  · have : (u.setCmds (s.q.cmds ++ [{ c with phase := .executing w }])).queue src = u.queue src := rfl
    rw [this, huq]
  · have hord : u.q.doneOrd = (s.atBody sp src p).q.doneOrd := by rw [hq]
    have hpr : u.q.progress = (s.atBody sp src p).q.progress := by rw [hq]
    refine Eq.trans (congrArg (fun x : Queues => { x with cmds := s.q.cmds ++ [{ c with phase := .executing w }] }) hq) ?_
    show _ = ({ (s.atBody sp src p).q with
      cmds := _, doneOrd := u.q.doneOrd, queues := u.q.queues, progress := u.q.progress } : Queues)
    rw [hord, hqs, hpr]
    rfl
  · show u.q.progress = _
    rw [hq]; exact atBody_progress s sp src p

/-- A ready row that stays at stage 5 and changes nothing of the queue block. -/
theorem row_waits {s u : State} {sp : OpSpec} {body : Body} {src : Source} {p : Packet} {w : Work}
    (h : s.ready sp src p = true) (hc : sp.code < 2 ^ 16)
    (hb : body (s.ctxOf sp src p) (s.atBody sp src p) = (.run w, u)) (hq : u.q = (s.atBody sp src p).q)
    (hw : ∀ d, w ≠ .held d) (hp : u.pending = s.pending) (hm : u.memOk) :
    ∃ t, runRow sp body src p s = .next t ∧ Executes s t src w ∧ QueuesKept s t src ∧ t = { u with q := t.q } :=
  row_executes h hc hb (c := s.flying sp src p) ⟨by rw [hq]; rfl, (ready_iff.1 h).2.1⟩ rfl rfl rfl hw hp hm (by rw [hq])

/-! ### The states on a body's path -/

/-- `u` is a state on the path of a ready packet's body: its command `c` is the newest in flight, and of the queue block only
that command and the progress counters have changed. -/
structure Stage (s : State) (sp : OpSpec) (src : Source) (p : Packet) (u : State) (c : Cmd) : Prop where
  newest : Newest u s.q.cmds c
  caller : c.src = src
  id : c.id = s.nextCmd src
  mirrored : c.mirrored = none
  plain : c.pkt.header.signal = false
  phase : c.phase = .waiting
  q : u.q = { (s.atBody sp src p).q with cmds := u.q.cmds, progress := u.q.progress }
  waits : u.graft.waits = []
  pending : u.pending = s.pending
  now : u.now = s.now
  mem : u.memOk

theorem Stage.start {s : State} {sp : OpSpec} {src : Source} {p : Packet} (hm : s.memOk) (h : s.ready sp src p = true) :
    Stage s sp src p (s.atBody sp src p) (s.flying sp src p) :=
  ⟨atBody_newest h, rfl, rfl, rfl, flying_plain h, rfl, rfl, (ready_iff.1 h).2.2.2.2.2.2.2.2.1, rfl, rfl, hm⟩

/-- A change outside the queue block. -/
theorem Stage.units {s u v : State} {sp : OpSpec} {src : Source} {p : Packet} {c : Cmd} (h : Stage s sp src p u c)
    (hq : v.q = u.q) (hw : v.graft.waits = u.graft.waits) (hp : v.pending = u.pending) (hn : v.now = u.now) (hm : v.memOk) :
    Stage s sp src p v c :=
  ⟨⟨by rw [hq]; exact h.newest.1, h.newest.2⟩, h.caller, h.id, h.mirrored, h.plain, h.phase, by rw [hq]; exact h.q,
    by rw [hw]; exact h.waits, by rw [hp]; exact h.pending, by rw [hn]; exact h.now, hm⟩

theorem Stage.within {s u v : State} {sp : OpSpec} {src : Source} {p : Packet} {c : Cmd} (h : Stage s sp src p u c)
    (hw : Within u v) (hm : v.memOk) : Stage s sp src p v c :=
  h.units hw.q (by rw [hw.graft]) hw.pending (by unfold State.now; rw [hw.time]) hm

theorem Stage.reads {s u v : State} {sp : OpSpec} {src : Source} {p : Packet} {c : Cmd} (h : Stage s sp src p u c)
    (hr : Reads u v) : Stage s sp src p v c :=
  h.within hr.1 (by show Memory.wf v.part.mem = true; rw [hr.2]; exact h.mem)

theorem Stage.holding {s u : State} {sp : OpSpec} {src : Source} {p : Packet} {c : Cmd} (h : Stage s sp src p u c) (ps : Pages) :
    Stage s sp src p (u.holding src (s.nextCmd src) ps) { c with pages := c.pages ++ ps } := by
  have e : Newest (u.holding src (s.nextCmd src) ps) s.q.cmds { c with pages := c.pages ++ ps } := by
    rw [← h.id, ← h.caller]
    exact (h.newest.modCmd (fun d => { d with pages := d.pages ++ ps }) rfl).2
  refine ⟨e, h.caller, h.id, h.mirrored, h.plain, h.phase, ?_, h.waits, h.pending, h.now, h.mem⟩
  exact congrArg (fun x : Queues => { x with cmds := (u.holding src (s.nextCmd src) ps).q.cmds }) h.q

theorem Stage.progressSrc {s u : State} {sp : OpSpec} {src : Source} {p : Packet} {c : Cmd} (h : Stage s sp src p u c) (a : Source) (n : Nat) :
    Stage s sp src p (u.progressSrc a n) c := by
  unfold State.progressSrc
  split
  · unfold State.progressBy
    split
    · exact h
    · rename_i a _ hn
      refine ⟨h.newest, h.caller, h.id, h.mirrored, h.plain, h.phase, ?_, h.waits, h.pending, h.now, h.mem⟩
      exact congrArg (fun x : Queues => { x with
        progress := Tab.set u.q.progress 0 (progressKey a) (satAdd64 (Tab.get u.q.progress 0 (progressKey a)) (n + (Config.freeNat u.freeCtr))) }) h.q
  · exact h

theorem Stage.done {s u : State} {sp : OpSpec} {body : Body} {src : Source} {p : Packet} {st : Status} {res : List W32} {c : Cmd}
    (h : s.ready sp src p = true) (hc : sp.code < 2 ^ 16) (hs : Stage s sp src p u c)
    (hb : body (s.ctxOf sp src p) (s.atBody sp src p) = (.done st res, u)) :
    ∃ t, runRow sp body src p s = .next t ∧ Completed s t src st res ∧ QueuesMoved s t src ∧ t.q.progress = u.q.progress ∧
      t = { u with q := t.q } :=
  row_completed h hc hb hs.newest hs.caller hs.id hs.mirrored hs.plain hs.waits hs.pending hs.mem hs.now hs.q

theorem Stage.runs {s u : State} {sp : OpSpec} {body : Body} {src : Source} {p : Packet} {w : Work} {c : Cmd}
    (h : s.ready sp src p = true) (hc : sp.code < 2 ^ 16) (hs : Stage s sp src p u c) (hpr : u.q.progress = s.q.progress)
    (hw : ∀ d, w ≠ .held d) (hb : body (s.ctxOf sp src p) (s.atBody sp src p) = (.run w, u)) :
    ∃ t, runRow sp body src p s = .next t ∧ Executes s t src w ∧ QueuesKept s t src ∧ t = { u with q := t.q } :=
  row_executes h hc hb hs.newest hs.caller hs.id hs.phase hw hs.pending hs.mem (by
    have e : u.q.progress = (s.atBody sp src p).q.progress := hpr.trans (atBody_progress s sp src p).symm
    refine hs.q.trans ?_
    rw [e])

theorem Ctx.claim_ok {c : Ctx} {s u : State} {n v len : Nat} {write : Bool} {ps : Pages} (h : s.claim c.src v len write = (.ok ps, u))
    (k : Pages → State → BodyOut × State) : c.claim s n v len write k = k ps (u.holding c.src c.id ps) := by
  unfold Ctx.claim
  rw [h]
  rfl

theorem Ctx.read_ok {c : Ctx} {s u : State} {v len : Nat} {ps : Pages} {b : Bytes} (h : s.readRange (srcPartByte c.src) ps v len = (.ok b, u))
    (k : Bytes → State → BodyOut × State) : c.read s ps v len k = k b u := by
  unfold Ctx.read
  rw [h]

/-! ### What moves data -/

theorem DataOnly.refl (s : State) : DataOnly s s := ⟨rfl, rfl, rfl, rfl, rfl, rfl, rfl, rfl, rfl, rfl, rfl, rfl, rfl, rfl, rfl⟩

theorem DataOnly.trans {s t u : State} (h : DataOnly s t) (k : DataOnly t u) : DataOnly s u :=
  ⟨k.isl.trans h.isl, k.kelri.trans h.kelri, k.rounds.trans h.rounds, k.time.trans h.time, k.plot.trans h.plot, k.trellis.trans h.trellis, k.spetar.trans h.spetar, k.graft.trans h.graft, k.shed.trans h.shed, k.attest.trans h.attest, k.random.trans h.random, k.mgmt.trans h.mgmt, k.power.trans h.power, k.reg.trans h.reg, k.pending.trans h.pending⟩

theorem Within.data {s t : State} (h : Within s t) : DataOnly s t :=
  ⟨h.isl, h.kelri, h.rounds, h.time, h.plot, h.trellis, h.spetar, h.graft, h.shed, h.attest, h.random, h.mgmt, h.power, h.reg, h.pending⟩

theorem DataOnly.ofQ (s : State) (x : Queues) : DataOnly s { s with q := x } := ⟨rfl, rfl, rfl, rfl, rfl, rfl, rfl, rfl, rfl, rfl, rfl, rfl, rfl, rfl, rfl⟩

theorem holding_data (s : State) (src : Source) (id : Nat) (ps : Pages) : DataOnly s (s.holding src id ps) := ⟨rfl, rfl, rfl, rfl, rfl, rfl, rfl, rfl, rfl, rfl, rfl, rfl, rfl, rfl, rfl⟩

theorem progressSrc_data (s : State) (src : Source) (n : Nat) : DataOnly s (s.progressSrc src n) := by
  unfold State.progressSrc State.progressBy
  split
  · split
    · exact DataOnly.refl s
    · exact ⟨rfl, rfl, rfl, rfl, rfl, rfl, rfl, rfl, rfl, rfl, rfl, rfl, rfl, rfl, rfl⟩
  · exact DataOnly.refl s

theorem progressSrc_part (s : State) (src : Source) (n : Nat) : (s.progressSrc src n).part = s.part := by
  unfold State.progressSrc State.progressBy
  split
  · split <;> rfl
  · rfl

theorem progressSrc_hif (s : State) (src : Source) (n : Nat) : (s.progressSrc src n).hif = s.hif := by
  unfold State.progressSrc State.progressBy
  split
  · split <;> rfl
  · rfl

theorem profDma_reads (s : State) (src : Source) (n : Nat) : Reads s (s.profDma src n) := by
  unfold State.profDma
  split
  · exact Reads.refl s
  · exact modPartition_reads _ _ _

theorem profDma_hif (s : State) (src : Source) (n : Nat) : (s.profDma src n).hif = s.hif := by
  unfold State.profDma State.modPartition
  split
  · rfl
  · split <;> rfl

theorem holding_only (s : State) (src : Source) (id : Nat) (ps : Pages) : Only [.q] s (s.holding src id ps) := Only.of_q s _

theorem atBody_only (s : State) (sp : OpSpec) (src : Source) (p : Packet) : Only [.q] s (s.atBody sp src p) := Only.of_q s _

/-! ### Rows whose effect stays within a few units -/

theorem running_iff {s : State} {d : Island} : s.running d = true ↔ (s.island d).state = .run := by
  show ((s.island d).state == .run) = true ↔ _
  exact beq_iff_eq

/-- An effect that needs a running island goes on. -/
theorem Ctx.needs_run (c : Ctx) {s : State} {d : Island} (h : s.running d = true) (k : State → BodyOut × State) : c.needs s d k = k s := by
  unfold Ctx.needs
  rw [running_iff.1 h]

/-- A ready row whose body ends, having changed the listed units only, none of them the queue block. -/
theorem row_only {s u : State} {sp : OpSpec} {body : Body} {src : Source} {p : Packet} {st : Status} {res : List W32} {l : List Field}
    (h : s.ready sp src p = true) (hc : sp.code < 2 ^ 16) (hb : body (s.ctxOf sp src p) (s.atBody sp src p) = (.done st res, u))
    (ho : Only l (s.atBody sp src p) u) (hq : .q ∉ l) (hg : .graft ∉ l) (hp : .pending ∉ l) (ht : .time ∉ l) (hm : u.memOk) :
    ∃ t, runRow sp body src p s = .next t ∧ Completed s t src st res ∧ QueuesKept s t src ∧ Only (.q :: l) s t ∧ t = { u with q := t.q } := by
  obtain ⟨t, e1, e2, e3, e4⟩ := row_simple h hc hb (ho .q hq) (by rw [show _ = _ from ho .graft hg]; rfl) (ho .pending hp) hm
    (by unfold State.now; rw [show _ = _ from ho .time ht]; rfl)
  refine ⟨t, e1, e2, e3, ?_, e4⟩
  rw [e4]
  exact (((atBody_only s _ _ _).mono (fun f hf => List.mem_cons.2 (.inl (List.mem_singleton.1 hf)))).trans (ho.mono fun f hf => List.mem_cons_of_mem _ hf)).trans
    ((Only.of_q _ _).mono (fun f hf => List.mem_cons.2 (.inl (List.mem_singleton.1 hf))))

/-- A ready row whose body stays at stage 5, having changed the listed units only, none of them the queue block. -/
theorem row_stays {s u : State} {sp : OpSpec} {body : Body} {src : Source} {p : Packet} {w : Work} {l : List Field}
    (h : s.ready sp src p = true) (hc : sp.code < 2 ^ 16) (hb : body (s.ctxOf sp src p) (s.atBody sp src p) = (.run w, u))
    (hw : ∀ d, w ≠ .held d) (ho : Only l (s.atBody sp src p) u) (hq : .q ∉ l) (hp : .pending ∉ l) (hm : u.memOk) :
    ∃ t, runRow sp body src p s = .next t ∧ Executes s t src w ∧ QueuesKept s t src ∧ Only (.q :: l) s t ∧ t = { u with q := t.q } := by
  obtain ⟨t, e1, e2, e3, e4⟩ := row_waits h hc hb (ho .q hq) hw (ho .pending hp) hm
  refine ⟨t, e1, e2, e3, ?_, e4⟩
  rw [e4]
  exact (((atBody_only s _ _ _).mono (fun f hf => List.mem_cons.2 (.inl (List.mem_singleton.1 hf)))).trans (ho.mono fun f hf => List.mem_cons_of_mem _ hf)).trans
    ((Only.of_q _ _).mono (fun f hf => List.mem_cons.2 (.inl (List.mem_singleton.1 hf))))

/-- Units that do not include the partitions leave device memory in its form. -/
theorem Only.memOk {l : List Field} {s u : State} (h : Only l s u) (hp : .part ∉ l) (hm : s.memOk) : u.memOk := by
  show Memory.wf u.part.mem = true
  rw [show u.part = s.part from h .part hp]
  exact hm

end Sys2Proof.Machine
end

