-- ==== Sys2Proof/Laws/Queue.lean ====
section
/-!
SUPPORT. Fences and the commands a BARRIER sees.
-/

namespace Sys2Proof.Machine
open Sys2Proof

/-- What setting a fence makes of each queue's record. -/
@[simp] theorem setFence_queues (s : State) (k : Nat) (v : W64) (n : Nat) :
    Tab.find? (s.setFence k v).q.queues n = (Tab.find? s.q.queues n).map (feed k v n) := Tab.find?_map _ _ _

/-- ADD or MAX by an agent that may write the fence, with a result within range. -/
theorem signalFence_ok {s : State} {k : Nat} {op : FenceOp} {x v : W64} {a : Option Agent} (hw : s.mayWriteFence k a = true)
    (hv : fenceAfter (s.fence k) op x = some v) : s.signalFence k op x a = (.ok, s.setFence k v) := by
  unfold State.signalFence
  simp only [hw, hv, Bool.not_true, Bool.false_eq_true, if_false]

/-- A signal changes the queue block and the counter of free values alone, and of it neither commands nor completion order. -/
theorem signalFence_q (s : State) (k : Nat) (op : FenceOp) (x : W64) (a : Option Agent) :
    ∃ f qs ts pr fc, (s.signalFence k op x a).2 = { s with q := { s.q with fences := f, queues := qs, tasks := ts, progress := pr }, freeCtr := fc } := by
  unfold State.signalFence
  split
  · exact ⟨_, _, _, _, _, rfl⟩
  · split
    · exact ⟨_, _, _, _, _, rfl⟩
    · exact ⟨_, _, _, _, _, rfl⟩

/-- So does a signal through a window. -/
theorem windowSignal_q (s : State) (d n : Nat) (cold : Bool) (w f : Nat) (op : FenceOp) (v : W64) :
    ∃ a b c pr fc, (s.windowSignal d n cold w f op v).2 =
      { s with q := { s.q with fences := a, queues := b, tasks := c, progress := pr }, freeCtr := fc } := by
  unfold State.windowSignal
  split
  · exact ⟨_, _, _, _, _, rfl⟩
  · split
    · exact signalFence_q s _ op v none
    · exact ⟨_, _, _, _, _, rfl⟩

/-- What a ready BARRIER waits for: any earlier command of the queues it names. -/
theorem barrierHolds_atBody {s : State} {sp : OpSpec} {src : Source} {p : Packet} (h : s.ready sp src p = true) (qs : List Source) :
    (s.atBody sp src p).barrierHolds src (s.nextCmd src) qs = s.q.cmds.any (fun c => qs.contains c.src && !c.phase.isDone) := by
  unfold State.barrierHolds State.fetchedBefore
  have : (s.atBody sp src p).q.cmds.takeWhile (fun c => !(c.src == src && c.id == s.nextCmd src)) = s.q.cmds := by
    show (s.q.cmds ++ [s.flying sp src p]).takeWhile _ = _
    have ha := (ready_iff.1 h).2.1
    generalize s.q.cmds = l at ha
    induction l with
    | nil => simp [State.flying]
    | cons c l ih =>
      simp at ha ih
      simp [ha.1]
      exact ih ha.2
  rw [this]

/-- With no completed command there is no record to write. -/
theorem flushRecords_none {s : State} {src : Source} (h : s.nextDone src = none) : s.flushRecords src = s := by
  have e : ∀ n, s.flushAux src n = s := by
    intro n
    cases n with
    | zero => rfl
    | succ n =>
      unfold State.flushAux
      rw [h]
  unfold State.flushRecords
  simp only [e, Nat.lt_irrefl, if_false]

/-- A stopped queue with nothing in flight shows STOPPED. -/
theorem queueState_stopped {s : State} {src : Source} (hc : s.cmdsOf src = []) (hs : (s.queue src).stop ≠ .none) : (s.queueState src).1 = 3 := by
  unfold State.queueState
  simp [hc, hs]

/-- RESTART of a queue stopped by an overrun. -/
theorem restartQueue_overrun {s : State} {src : Source} (he : (s.queue src).enable = true) (hs : (s.queue src).stop = .doorbellOverrun)
    (hc : s.cmdsOf src = []) : s.restartQueue src = s.setQueue src { s.queue src with stop := .none, tail := (s.queue src).head, fetching := none } := by
  unfold State.restartQueue
  rw [queueState_stopped hc (by rw [hs]; decide), he]
  simp [State.modQueue, State.queue_setQueue, hs]

/-- Enabling a queue that takes its tail from a register and owns no fence. -/
theorem enableQueue_plain {s : State} {src : Source} (ht : (s.queue src).tailSource = false) (ho : (s.queue src).ownEn = false) :
    s.enableQueue src = s.setQueue src { s.queue src with
      enable := true, stop := .none, head := 0, tail := 0, cqHead := 0, cqTail := 0, base := 0, jump := none, last := none, fetching := none,
      half := none } := by
  unfold State.enableQueue
  have hef : s.enableRefused src = false := by unfold State.enableRefused; simp [ht, ho]
  have htf : (s.queue src).tailFence = none := by unfold Queue.tailFence; rw [ht]; rfl
  rw [hef, htf]
  simp only [Bool.false_eq_true, if_false]
  have : ((s.modQueue src fun r => { r with
      enable := true, stop := .none, head := 0, tail := 0, cqHead := 0, cqTail := 0, base := 0, jump := none, last := none
      fetching := none, half := none }).queue src).fenceOwn = none := by
    unfold State.modQueue
    rw [State.queue_setQueue]
    unfold Queue.fenceOwn
    simp [ho]
  rw [this]
  rfl

theorem nextDone_setQueue (s : State) (src : Source) (r : Queue) : (s.setQueue src r).nextDone src = s.nextDone src := rfl

/-- The next state of an event, from what its meaning makes of the state. -/
theorem conclude_next {s u w : State} (hw : u = w) (hp : w.pending = s.pending) (hm : w.memOk) : s.conclude u = .next w := by
  rw [hw]
  exact State.conclude_eq hp hm

/-- A command that changes neither the partitions nor the queue of waiting commands answers the state its meaning gives. -/
theorem conclude_only {s u : State} {l : List Field} (h : Only l s u) (hp : Field.part ∉ l) (hq : Field.pending ∉ l) (hm : s.memOk) :
    s.conclude u = .next u := by
  have a : u.part = s.part := h .part hp
  have b : u.pending = s.pending := h .pending hq
  exact State.conclude_eq b (by show Memory.wf u.part.mem = true; rw [a]; exact hm)

/-- A command that ends when its effects do: it is settled, and only the queue block changes. -/
theorem State.endsCmd.complete {s : State} {src : Source} {id : Nat} {c : Cmd} (h : s.endsCmd src id c) (st : Status) (res : List W32) :
    s.complete src id st res = s.settle src id st res ∧ Ended s (s.complete src id st res) src id st res ∧ Only [.q] s (s.complete src id st res) := by
  obtain ⟨h1, h2, h3, h4, h5⟩ := h
  have e := complete_plain h1 h2 h3 h4 h5 st res
  refine ⟨e, ?_, ?_⟩
  · unfold Ended
    rw [e]; exact settle_cmds h1 h3 st res
  · rw [e]
    intro f hf
    cases f <;> first | rfl | exact absurd (by decide) hf

/-- A change of the command's own record keeps it one that ends. -/
theorem State.endsCmd.modCmd {s : State} {src : Source} {id : Nat} {c : Cmd} (h : s.endsCmd src id c) (f : Cmd → Cmd)
    (hf : ∀ d, (f d).src = d.src ∧ (f d).id = d.id ∧ (f d).chain = d.chain) (hc : (f c).mirrored = c.mirrored) (hp : (f c).pkt = c.pkt) :
    (s.modCmd src id f).endsCmd src id (f c) := by
  obtain ⟨h1, h2, h3, h4, h5⟩ := h
  refine ⟨cmd?_modCmd f (fun d => ⟨(hf d).1, (hf d).2.1⟩) h1, by rw [hc]; exact h2, by rw [hp]; exact h3, ?_, h5⟩
  intro d hd hs
  have hd' : d ∈ s.q.cmds.map (fun d => if d.src == src && d.id == id then f d else d) := hd
  obtain ⟨e, he, rfl⟩ := List.mem_map.1 hd'
  by_cases k : (e.src == src && e.id == id) = true
  · simp only [k, if_true] at hs ⊢
    rw [(hf e).2.2]; exact h4 e he (by rw [← (hf e).1]; exact hs)
  · rw [if_neg k] at hs ⊢
    exact h4 e he hs

end Sys2Proof.Machine
end

