-- ==== Sys2Proof/Laws/Mgmt.lean ====
section
/-!
SUPPORT. What the shared operations of the Drinoner port change: alert causes, events, replies and update states.
-/

namespace Sys2Proof.Machine
open Sys2Proof

/-- A cause for the host changes the host interface alone. -/
theorem pfEvent_eq (s : State) (c : PfCause) : s.pfEvent c = { s with hif := (s.pfEvent c).hif } := by
  unfold State.pfEvent State.raisePf State.raiseVector State.toHost
  dsimp only
  repeat' split
  all_goals rfl

theorem pfEvent_only (s : State) (c : PfCause) : Only [.hif] s (s.pfEvent c) := by
  rw [pfEvent_eq]
  exact Only.of_hif s _

/-- Nothing but the port's own state and the host interface has changed, and of the port only what a latched cause touches. -/
theorem latchAlert_eq (s : State) (c : AlertCause) :
    s.latchAlert c = { s with
      hif := (s.latchAlert c).hif
      mgmt := { s.mgmt with
        alert := s.mgmt.alert ||| BitVec.ofNat 8 (2 ^ c.bitNo), out := (s.latchAlert c).mgmt.out, ibiAt := (s.latchAlert c).mgmt.ibiAt } } := by
  simp only [State.latchAlert]
  split <;> rw [pfEvent_eq] <;> rfl

theorem latchAlert_only (s : State) (c : AlertCause) : Only [.mgmt, .hif] s (s.latchAlert c) := by
  rw [latchAlert_eq]
  intro f hf
  cases f <;> first | rfl | exact absurd (by decide) hf

@[simp] theorem latchAlert_alert (s : State) (c : AlertCause) :
    (s.latchAlert c).mgmt.alert = s.mgmt.alert ||| BitVec.ofNat 8 (2 ^ c.bitNo) := by rw [latchAlert_eq]
@[simp] theorem latchAlert_update (s : State) (c : AlertCause) : (s.latchAlert c).mgmt.update = s.mgmt.update := by rw [latchAlert_eq]
@[simp] theorem latchAlert_sensors (s : State) (c : AlertCause) : (s.latchAlert c).mgmt.sensors = s.mgmt.sensors := by rw [latchAlert_eq]
@[simp] theorem latchAlert_events (s : State) (c : AlertCause) : (s.latchAlert c).mgmt.events = s.mgmt.events := by rw [latchAlert_eq]
@[simp] theorem latchAlert_tickets (s : State) (c : AlertCause) : (s.latchAlert c).mgmt.tickets = s.mgmt.tickets := by rw [latchAlert_eq]
@[simp] theorem latchAlert_responses (s : State) (c : AlertCause) : (s.latchAlert c).mgmt.responses = s.mgmt.responses := by rw [latchAlert_eq]
@[simp] theorem latchAlert_activateAt (s : State) (c : AlertCause) : (s.latchAlert c).mgmt.activateAt = s.mgmt.activateAt := by rw [latchAlert_eq]
@[simp] theorem latchAlert_power (s : State) (c : AlertCause) : (s.latchAlert c).power = s.power := by rw [latchAlert_eq]
@[simp] theorem latchAlert_part (s : State) (c : AlertCause) : (s.latchAlert c).part = s.part := by rw [latchAlert_eq]
@[simp] theorem latchAlert_pending (s : State) (c : AlertCause) : (s.latchAlert c).pending = s.pending := by rw [latchAlert_eq]
@[simp] theorem latchAlert_q (s : State) (c : AlertCause) : (s.latchAlert c).q = s.q := by rw [latchAlert_eq]
@[simp] theorem latchAlert_now (s : State) (c : AlertCause) : (s.latchAlert c).now = s.now := by rw [latchAlert_eq]; rfl

/-- A change of an update's state latches FW_UPDATE, and nothing else does. -/
theorem toUpdate_only (s : State) (u : Update) : Only [.mgmt, .hif] s (s.toUpdate u) := by
  simp only [State.toUpdate]
  split
  · exact Only.trans (l := [.mgmt, .hif]) (by intro f hf; cases f <;> first | rfl | exact absurd (by decide) hf) (latchAlert_only _ _)
  · intro f hf
    cases f <;> first | rfl | exact absurd (by decide) hf

@[simp] theorem toUpdate_update (s : State) (u : Update) : (s.toUpdate u).mgmt.update = u := by
  simp only [State.toUpdate]
  split
  · rw [latchAlert_update]; rfl
  · rfl

@[simp] theorem toUpdate_activateAt (s : State) (u : Update) : (s.toUpdate u).mgmt.activateAt = s.mgmt.activateAt := by
  simp only [State.toUpdate]
  split
  · rw [latchAlert_activateAt]; rfl
  · rfl

@[simp] theorem toUpdate_power (s : State) (u : Update) : (s.toUpdate u).power = s.power := by
  simp only [State.toUpdate]
  split
  · rw [latchAlert_power]; rfl
  · rfl

theorem toUpdate_alert {s : State} {u : Update} (h : u.state ≠ s.mgmt.update.state) :
    (s.toUpdate u).mgmt.alert = s.mgmt.alert ||| 0x80 := by
  unfold State.toUpdate
  dsimp only
  rw [if_pos (decide_eq_true h), latchAlert_alert]
  rfl

@[simp] theorem endUpdate_update (s : State) : s.endUpdate.mgmt.update = {} := toUpdate_update _ _

/-- An event is sent and awaits its acknowledgement where a receiver is set. -/
theorem sendEvent_eq (s : State) (n : Nat) (v : Int) : (s.sendEvent n v) = { s with mgmt := { s.mgmt with out := (s.sendEvent n v).mgmt.out, events := s.mgmt.events ++ (if s.mgmt.eventReceiver.isSome then [{ sensor := n, value := v, resends := 0, sentAt := s.now }] else []) } } := by
  unfold State.sendEvent
  cases h : s.mgmt.eventReceiver <;> simp
  rfl
theorem sendEvent_alert (s : State) (n : Nat) (v : Int) : (s.sendEvent n v).mgmt.alert = s.mgmt.alert := by rw [sendEvent_eq]

theorem sendEvent_only (s : State) (n : Nat) (v : Int) : Only [.mgmt] s (s.sendEvent n v) := by
  rw [sendEvent_eq]
  exact Only.of_mgmt _ _

/-! ### The flash directory -/

/-- A change goes into the copy in force next, short of the wrap of SEQUENCE. -/
theorem dir_setDir {p : Power} (f : DirCopy → DirCopy) (h : p.dir.sequence.toNat + 1 < 2 ^ 32) :
    (p.setDir f).dir = { f p.dir with valid := true, sequence := p.dir.sequence + 1 } := by
  have hs : (p.dir.sequence + 1).toNat = p.dir.sequence.toNat + 1 := by
    rw [BitVec.toNat_add]
    exact Nat.mod_eq_of_lt h
  unfold Power.setDir
  dsimp only
  split
  · rename_i hc
    have hd : p.dir = p.dir0 := by simp at hc; exact hc.1
    have hv : p.dir0.valid = true := by simp at hc; exact hc.2
    rw [hd] at hs
    rw [hd]
    unfold Power.dir
    dsimp only
    rw [if_neg (by rw [hv]; decide), if_neg (by decide), if_pos (by rw [hs]; omega)]
  · rename_i hc
    have hd : p.dir = p.dir1 ∨ p.dir0.valid = false := by
      by_cases hv : p.dir0.valid = true
      · left
        by_cases hd : p.dir = p.dir0
        · exact absurd (by rw [hv]; simpa using hd) hc
        · unfold Power.dir at hd ⊢
          rw [if_neg (by rw [hv]; decide)] at hd ⊢
          by_cases h1 : p.dir1.valid = true
          · rw [if_neg (by rw [h1]; decide)] at hd ⊢
            by_cases h2 : p.dir0.sequence.toNat < p.dir1.sequence.toNat
            · exact if_pos h2
            · exact absurd (if_neg h2) hd
          · exact absurd (if_pos (by simpa using h1)) hd
      · right
        simpa using hv
    by_cases h1 : p.dir1.valid = true
    · have hd : p.dir = p.dir1 := by
        rcases hd with hd | hd
        · exact hd
        · unfold Power.dir
          exact if_pos (by rw [hd]; rfl)
      rw [hd] at hs
      rw [hd]
      unfold Power.dir
      dsimp only
      rw [if_neg (by decide), if_neg (by rw [h1]; decide), if_neg (by rw [hs]; omega)]
    · unfold Power.dir
      dsimp only
      rw [if_neg (by decide), if_pos (by simpa using h1)]

theorem entry_setEntry (d : DirCopy) (t : Nat) (e : DirEntry) : (d.setEntry t e).entry t = e := by
  unfold DirCopy.setEntry DirCopy.entry
  split <;> rfl

theorem modImage_image {s : State} {t : Nat} (f : DirEntry → DirEntry) (h : s.power.dir.sequence.toNat + 1 < 2 ^ 32) :
    (s.modImage t f).power.image t = f (s.power.image t) := by
  show ((s.power.setDir _).dir).entry t = _
  rw [dir_setDir _ h]
  exact entry_setEntry _ t _

theorem modImage_only (s : State) (t : Nat) (f : DirEntry → DirEntry) : Only [.power] s (s.modImage t f) := by
  intro g hg
  cases g <;> first | rfl | exact absurd (by decide) hg

@[simp] theorem modImage_mgmt (s : State) (t : Nat) (f : DirEntry → DirEntry) : (s.modImage t f).mgmt = s.mgmt := rfl

theorem setDir_busy (p : Power) (f : DirCopy → DirCopy) : (p.setDir f).busySeq = p.busySeq ∧ (p.setDir f).busyMgmt = p.busyMgmt := by
  unfold Power.setDir
  dsimp only
  split <;> exact ⟨rfl, rfl⟩

@[simp] theorem modImage_fwBusy (s : State) (t : Nat) (f : DirEntry → DirEntry) (k : Nat) : (s.modImage t f).fwBusy k = s.fwBusy k := by
  have h := setDir_busy s.power (fun d => d.setEntry t (f (d.entry t)))
  show (if k = 0 then _ else _) = (if k = 0 then _ else _)
  rw [show (s.modImage t f).power.busySeq = s.power.busySeq from h.1, show (s.modImage t f).power.busyMgmt = s.power.busyMgmt from h.2]

end Sys2Proof.Machine
end

