-- ==== Sys2Proof/Laws/Units.lean ====
section
/-!
SUPPORT. Which units the shared operations of the part can change: interrupts and error logs, the port's events, the Time
Authority's states, and what is sent over Spetar.
-/

namespace Sys2Proof.Machine
open Sys2Proof

theorem Only.ofEq {l : List Field} {s t : State} (h : t = s) : Only l s t := by
  rw [h]
  exact Only.refl l s

theorem toHost_only (s : State) (o : HostOut) : Only [.hif] s (s.toHost o) := by
  unfold State.toHost
  split <;> exact Only.of_hif _ _

theorem raiseVector_only (s : State) (f : Fn) (v : Nat) : Only [.hif] s (s.raiseVector f v) := by
  unfold State.raiseVector
  extract_lets quiet e
  split
  · exact Only.refl _ _
  · split
    · exact Only.of_hif _ _
    · exact (Only.of_hif _ _).trans (toHost_only _ _)

theorem raisePf_only (s : State) (c : PfCause) : Only [.hif] s (s.raisePf c) := (Only.of_hif s _).trans (raiseVector_only _ _ _)

theorem raiseVf_only (s : State) (p : Fin 64) (n v : Nat) : Only [.hif] s (s.raiseVf p n v) := (Only.of_hif s _).trans (raiseVector_only _ _ _)

theorem toHost_intStatus (s : State) (o : HostOut) : (s.toHost o).hif.intStatus = s.hif.intStatus := by
  unfold State.toHost
  split <;> rfl

theorem raiseVector_intStatus (s : State) (f : Fn) (v : Nat) : (s.raiseVector f v).hif.intStatus = s.hif.intStatus := by
  unfold State.raiseVector
  extract_lets quiet e
  split
  · rfl
  · split
    · rfl
    · exact toHost_intStatus _ _

/-- A cause raised on the PF is latched. -/
theorem raisePf_intStatus (s : State) (c : PfCause) : (s.raisePf c).hif.intStatus = s.hif.intStatus ||| BitVec.ofNat 32 (2 ^ c.bitNo) :=
  raiseVector_intStatus _ _ _

theorem logErr_only (s : State) (n : Nat) (d : Island) (pb : Byte) (cls : ErrClass) (cause : ErrCause) (addr : Nat) (syn : W32) (st : Status) :
    Only [.err, .hif] s (s.logErr n d pb cls cause addr syn st) := by
  unfold State.logErr
  extract_lets cold c2 e l l' s'
  have h : Only [.err, .hif] s s' := (Only.of_err s _).mono (by decide)
  have k (c : PfCause) : Only [.err, .hif] s (s'.raisePf c) := h.trans ((raisePf_only _ _).mono (by decide))
  split
  · split
    · exact k _
    · exact h
  · split
    · exact h
    · exact k _

theorem sampleState_only (s : State) (n : Nat) : Only [.mgmt, .hif] s (s.sampleState n) := by
  unfold State.sampleState
  dsimp only
  split
  · exact Only.refl _ _
  · have h := Only.trans (Only.mono (m := [.mgmt, .hif]) (Only.of_mgmt s { s.mgmt with sensors := Tab.insert s.mgmt.sensors n (s.stateSensor n : Int) }) (by decide))
      (Only.mono (sendEvent_only _ n (s.stateSensor n)) (by decide))
    split
    · exact h.trans (latchAlert_only _ _)
    · exact h

theorem timeChanged_only (s : State) (b : TimeUnit) : Only [.hif, .mgmt] s (s.timeChanged b) := by
  unfold State.timeChanged
  dsimp only
  split
  · exact ((raisePf_only s .time).mono (by decide)).trans ((sampleState_only _ 10).mono (by decide))
  · exact (sampleState_only s 10).mono (by decide)

/-- What a change of the TIME unit that leaves HOLDOVER and the master alone can reach: sensor 10, and what its cause raises. -/
theorem timeChanged_still {s : State} {b : TimeUnit} (h1 : (s.time.state == .holdover) = (b.state == .holdover))
    (h2 : s.time.masterValid = b.masterValid) (h3 : s.time.masterId = b.masterId) : Only [.mgmt, .hif] s (s.timeChanged b) := by
  unfold State.timeChanged
  dsimp only
  rw [if_neg (by rw [h1, h2, h3]; simp)]
  exact sampleState_only s 10

theorem enterSync_only (s : State) (st : SyncState) : Only [.time, .hif, .mgmt] s (s.enterSync st) :=
  ((Only.of_time s _).mono (by decide)).trans ((timeChanged_only _ _).mono (by decide))

theorem enterSync_time (s : State) (st : SyncState) : (s.enterSync st).time = s.time.enter st :=
  timeChanged_only (s.modTime (fun t => t.enter st)) s.time .time (by decide)

theorem steer_only (s : State) : Only [.time, .freeCtr] s s.steer := by
  intro f hf
  cases f <;> first | rfl | exact absurd (by decide) hf

theorem chooseParent_only (s : State) : Only [.time, .hif, .mgmt] s s.chooseParent := by
  unfold State.chooseParent
  split
  · exact enterSync_only _ _
  · split
    · exact Only.refl _ _
    · exact ((Only.of_time s _).mono (by decide)).trans ((timeChanged_only _ _).mono (by decide))

theorem lead_only (s : State) (g : W16) : Only [.time, .hif, .mgmt] s (s.lead g) :=
  ((Only.of_time s _).mono (by decide)).trans ((timeChanged_only _ _).mono (by decide))

theorem adoptMaster_only (s : State) (m p : Nat) (g : W16) : Only [.time, .hif, .mgmt] s (s.adoptMaster m p g) := by
  unfold State.adoptMaster
  dsimp only
  split
  · exact (Only.of_time s _).mono (by decide)
  · exact ((Only.of_time s _).mono (by decide)).trans (((timeChanged_only _ _).mono (by decide)).trans (chooseParent_only _))

theorem sendTime_only (ps : List Nat) (f : Nat → TimeMsg) : ∀ s : State, Only [.spetar, .isl] s (s.sendTime ps f) := by
  unfold State.sendTime
  induction ps with
  | nil => exact fun s => Only.refl _ _
  | cons p l ih => exact fun s => (emit_only s _).trans (ih _)

end Sys2Proof.Machine
end

