-- ==== Sys2Proof/Laws/Links.lean ====
section
/-!
SUPPORT. What the shared operations of the links do to ports: sending moves frames and no port's state; a port moves to the state
it is sent to.
-/

namespace Sys2Proof.Machine
open Sys2Proof

theorem Tab.get_set_ne {α : Type} [DecidableEq α] (t : Tab α) (d : α) (k : Nat) {v : α} (h : v ≠ d) : Tab.get (Tab.set t d k v) d k = v := by
  unfold Tab.get Tab.set
  rw [if_neg h, Tab.find?_insert_same]
  rfl

theorem port_setPort {s : State} {n : Nat} {p : Port} (h : p ≠ {}) : (s.setPort n p).port n = p := Tab.get_set_ne _ _ _ h

theorem port_setPort_other (s : State) {n m : Nat} (p : Port) (h : m ≠ n) : (s.setPort n p).port m = s.port m := Tab.get_set_other _ _ _ h

theorem port_ne_of_state {p : Port} (h : p.state ≠ .settling) : p ≠ {} := by
  intro e; rw [e] at h; exact h rfl

/-! ### What is dropped at a crossing -/

theorem DropsOnly.refl (s : State) : DropsOnly s s := fun _ => ⟨rfl, fun _ => rfl⟩

theorem DropsOnly.trans {s t u : State} (h : DropsOnly s t) (k : DropsOnly t u) : DropsOnly s u := fun d =>
  ⟨(k d).1.trans (congrArg (fun r : IslandRec => { r with drop := (u.island d).drop }) (h d).1), fun hd => by
    have a := (h d).2 hd
    exact ((k d).2 (by rw [a]; exact hd)).trans a⟩

theorem DropsOnly.of_isl {s t : State} (h : t.isl = s.isl) : DropsOnly s t := fun d => by
  have e : t.island d = s.island d := by unfold State.island; rw [h]
  exact ⟨by rw [e], fun _ => e⟩

/-- An island's ID names one island. -/
theorem islandId_inj {d e : Island} (h : islandId d = islandId e) : d = e := by
  have := congrArg islandOfId h
  rw [islandOfId_islandId, islandOfId_islandId] at this
  exact Option.some.inj this

theorem countDrop_drops {s : State} {d : Island} (h : (s.island d).state = .resetFailed) (k : Nat) : DropsOnly s (s.countDrop d k) := by
  intro e
  by_cases he : e = d
  · subst he
    have ne : ({ s.island e with drop := satAdd64 (s.island e).drop k } : IslandRec) ≠ {} := by
      intro x
      have : (s.island e).state = .reset := congrArg IslandRec.state x
      rw [h] at this
      exact absurd this (by decide)
    have g : (s.countDrop e k).island e = { s.island e with drop := satAdd64 (s.island e).drop k } := Tab.get_set_ne _ _ _ ne
    exact ⟨by rw [g], fun hn => absurd h hn⟩
  · have g : (s.countDrop d k).island e = s.island e := Tab.get_set_other _ _ _ (fun x => he (islandId_inj x))
    exact ⟨by rw [g], fun _ => g⟩

/-! ### Frames -/

theorem FramesMoved.refl (s : State) : FramesMoved s s := ⟨rfl, DropsOnly.refl s, fun _ _ => rfl⟩

theorem FramesMoved.only {s t : State} (h : FramesMoved s t) : Only [.spetar, .isl] s t := by
  rw [h.1]
  exact (Only.of_isl s t.isl).mono (by decide) |>.trans ((Only.of_spetar _ _).mono (by decide))

theorem FramesMoved.trans {s t u : State} (h : FramesMoved s t) (k : FramesMoved t u) : FramesMoved s u :=
  ⟨k.1.trans (congrArg (fun x : State => { x with
      isl := u.isl, spetar := { x.spetar with ports := u.spetar.ports, egress := u.spetar.egress, out := u.spetar.out } }) h.1),
    h.2.1.trans k.2.1, fun n hn => by
    have a := h.2.2 n hn
    have b := k.2.2 n (by rw [a]; exact hn)
    have e := congrArg (fun x : Port => x.withFrames (u.port n)) a
    exact b.trans e⟩

theorem record_kept (s : State) (o : FabOut) : FramesMoved s (s.record o) := ⟨rfl, DropsOnly.refl s, fun _ _ => rfl⟩

/-- A port's record changed in its frames. -/
theorem setPort_kept (s : State) (n : Nat) (p : Port) (h : p = (s.port n).withFrames p) : FramesMoved s (s.setPort n p) := by
  refine ⟨rfl, DropsOnly.refl s, fun m hm => ?_⟩
  by_cases e : m = n
  · subst e
    rw [port_setPort (port_ne_of_state (by rw [h]; exact hm))]
    exact h
  · rw [port_setPort_other _ _ e]; rfl

theorem block1_line (p : Port) (b : Nat × Nat) : p.block1 b = { p with line := (p.block1 b).line, owed := (p.block1 b).owed } := by
  unfold Port.block1
  extract_lets q
  split <;> rfl

theorem blocks_line (bs : List (Nat × Nat)) : ∀ p : Port,
    bs.foldl Port.block1 p = { p with line := (bs.foldl Port.block1 p).line, owed := (bs.foldl Port.block1 p).owed } := by
  induction bs with
  | nil => exact fun _ => rfl
  | cons b bs ih =>
    intro p
    rw [List.foldl_cons]
    have h := ih (p.block1 b)
    rw [block1_line p b] at h
    rw [block1_line p b]
    exact h

/-- Sending blocks changes the line, and the credit that a trailer gives back. -/
theorem sendBlocks_line (p : Port) (bs : List (Nat × Nat)) :
    p.sendBlocks bs = { p with line := (p.sendBlocks bs).line, owed := (p.sendBlocks bs).owed } :=
  blocks_line bs { p with line := { p.line with sent0 := [], sent1 := [] } }

theorem transmit_line (p : Port) (f : Frame) : p.transmit f = { p with line := (p.transmit f).line, owed := (p.transmit f).owed } :=
  sendBlocks_line p _

theorem transmit_frames (p : Port) (f : Frame) : p.transmit f = p.withFrames (p.transmit f) := by
  rw [transmit_line p f]
  rfl

theorem spend_frames (p : Port) (o : FabOut) : p.spend o = { p with spent := (p.spend o).spent } := by
  unfold Port.spend
  split <;> rfl

theorem sendFrame_kept (s : State) (n : Nat) (o : FabOut) : FramesMoved s (s.sendFrame n o) := by
  refine FramesMoved.trans ?_ (record_kept _ _)
  refine setPort_kept s n _ ?_
  rw [transmit_line, spend_frames]
  rfl

theorem setEgress_kept (s : State) (e : Nat) (l : List (Nat × FabOut)) : FramesMoved s (s.setEgress e l) := ⟨rfl, DropsOnly.refl s, fun _ _ => rfl⟩

theorem pushQueue_kept (s : State) (n : Nat) (o : FabOut) : FramesMoved s (s.pushQueue n o) := setPort_kept s n _ rfl

theorem countDrop_kept {s : State} {d : Island} (h : (s.island d).state = .resetFailed) (k : Nat) : FramesMoved s (s.countDrop d k) :=
  ⟨rfl, countDrop_drops h k, fun _ _ => rfl⟩

theorem enqueue_kept (s : State) (n : Nat) (o : FabOut) : FramesMoved s (s.enqueue n o) := by
  unfold State.enqueue
  extract_lets d
  split
  · rename_i h
    exact countDrop_kept h 1
  · split
    · exact pushQueue_kept s n o
    · exact setEgress_kept s _ _

theorem emit_kept (s : State) (o : FabOut) : FramesMoved s (s.emit o) := by
  unfold State.emit
  split
  · exact record_kept s o
  · split
    · exact sendFrame_kept s _ o
    · split
      · exact pushQueue_kept s _ o
      · exact enqueue_kept s _ o

theorem forwardAs_kept (s : State) (h : FabHeader) (mk : Nat → FabHeader → FabOut) : FramesMoved s (s.forwardAs h mk) := by
  unfold State.forwardAs
  split
  · exact FramesMoved.refl s
  · exact emit_kept s _

theorem floodAux_kept (h : FabHeader) (d : DevRec) (l : List Nat) :
    ∀ s : State, FramesMoved s (l.foldl (fun s n => if s.portActive n then s.emit (.flood n h d) else s) s) := by
  induction l with
  | nil => exact fun s => FramesMoved.refl s
  | cons n l ih =>
    intro s
    rw [List.foldl_cons]
    refine FramesMoved.trans ?_ (ih _)
    split
    · exact emit_kept s _
    · exact FramesMoved.refl s

theorem flood_kept (s : State) (h : FabHeader) (d : DevRec) : FramesMoved s (s.flood h d) := floodAux_kept h d _ s

theorem floodOwn_kept (s : State) : FramesMoved s s.floodOwn := flood_kept s _ _

theorem modPort_kept (s : State) (n : Nat) (f : Port → Port) (h : ∀ p, f p = p.withFrames (f p)) : FramesMoved s (s.modPort n f) :=
  setPort_kept s n _ (h _)

theorem foldl_kept {α : Type} (f : State → α → State) (h : ∀ s a, FramesMoved s (f s a)) (l : List α) : ∀ s : State, FramesMoved s (l.foldl f s) := by
  induction l with
  | nil => exact fun s => FramesMoved.refl s
  | cons a l ih => exact fun s => (h s a).trans (ih _)

theorem sendElsewhere_kept (s : State) (n : Nat) (o : FabOut) : FramesMoved s (s.sendElsewhere n o) := by
  unfold State.sendElsewhere
  split
  · exact forwardAs_kept s _ _
  · exact forwardAs_kept s _ _
  · exact enqueue_kept s n _
  · exact enqueue_kept s n _
  · exact FramesMoved.refl s

theorem reroute_kept (s : State) (n : Nat) : FramesMoved s (s.reroute n) := by
  unfold State.reroute
  extract_lets q s1
  refine FramesMoved.trans (t := s1) ?_ (foldl_kept _ (fun s o => sendElsewhere_kept s n o) q s1)
  exact (modPort_kept s n _ (fun _ => rfl)).trans (setEgress_kept _ _ _)

theorem drainQueueAux_kept (n : Nat) : ∀ (fuel : Nat) (s : State), FramesMoved s (s.drainQueueAux n fuel) := by
  intro fuel
  induction fuel with
  | zero => exact fun s => FramesMoved.refl s
  | succ fuel ih =>
    intro s
    unfold State.drainQueueAux
    split
    · exact FramesMoved.refl s
    · refine (FramesMoved.trans ?_ (sendFrame_kept _ _ _)).trans (ih _)
      exact setPort_kept s n _ rfl

theorem refillAux_kept (e : Nat) : ∀ (fuel : Nat) (s : State), FramesMoved s (s.refillAux e fuel) := by
  intro fuel
  induction fuel with
  | zero => exact fun s => FramesMoved.refl s
  | succ fuel ih =>
    intro s
    unfold State.refillAux
    split
    · exact FramesMoved.refl s
    · exact (((setEgress_kept s _ _).trans (pushQueue_kept _ _ _)).trans (drainQueueAux_kept _ _ _)).trans (ih _)

theorem drainQueue_kept (s : State) (n : Nat) : FramesMoved s (s.drainQueue n) := (drainQueueAux_kept n _ s).trans (refillAux_kept _ _ _)

theorem resendHeld_kept (s : State) (n : Nat) : FramesMoved s (s.resendHeld n) :=
  foldl_kept _ (fun s f => (setPort_kept s n ((s.port n).transmit f) (transmit_frames _ _)).trans (record_kept _ _)) _ s

theorem ackFrames_kept (s : State) (n : Nat) (a : W16) : FramesMoved s (s.ackFrames n a) := by
  refine FramesMoved.trans ?_ (drainQueue_kept _ n)
  exact setPort_kept s n _ rfl

theorem Unlinked.refl (s : State) : Unlinked s s := .inl ⟨rfl, rfl⟩

theorem PortMoved.kept {s t u : State} {n : Nat} {st : PortState} (h : PortMoved s t n st) (hs : st ≠ .settling) (k : FramesMoved t u) : PortMoved s u n st := by
  obtain ⟨h1, h2, h3, h4, h5⟩ := h
  have a := k.2.2 n (by rw [h4]; exact hs)
  have et : u.time = t.time := by rw [k.1]
  have em : u.mgmt = t.mgmt := by rw [k.1]
  have eh : u.hif = t.hif := by rw [k.1]
  refine ⟨?_, h2.trans k.2.1, ?_, ?_, fun m hm hx => ?_⟩
  · refine k.1.trans ((congrArg (fun x : State => { x with
      isl := u.isl, spetar := { x.spetar with ports := u.spetar.ports, egress := u.spetar.egress, out := u.spetar.out } }) h1).trans ?_)
    rw [et, em, eh]
  · unfold Unlinked at h3 ⊢
    rw [et, em]; exact h3
  · have e := a.trans (congrArg (fun x : Port => x.withFrames (u.port n)) h4)
    rw [e]; rfl
  · have b := h5 m hm hx
    have e := congrArg (fun x : Port => x.withFrames (u.port m)) b
    exact (k.2.2 m (by rw [b]; exact hx)).trans e

/-- A change of the port's record before it moves. -/
theorem PortMoved.after {s t u : State} {n : Nat} {st : PortState} (k : t = { s with spetar := { s.spetar with ports := t.spetar.ports, egress := t.spetar.egress, out := t.spetar.out } }) (hk : ∀ m, m ≠ n → t.port m = s.port m)
    (hn : ∀ q, (t.port n).withState q st = (s.port n).withState q st) (h : PortMoved t u n st) : PortMoved s u n st := by
  have ei : t.isl = s.isl := by rw [k]
  have et : t.time = s.time := by rw [k]
  have em : t.mgmt = s.mgmt := by rw [k]
  refine ⟨h.1.trans (congrArg (fun x : State => { x with
      isl := u.isl, hif := u.hif, time := u.time, mgmt := u.mgmt
      spetar := { x.spetar with ports := u.spetar.ports, egress := u.spetar.egress, out := u.spetar.out } }) k),
    (DropsOnly.of_isl ei).trans h.2.1, ?_, h.2.2.2.1.trans (hn _), fun m hm hx => ?_⟩
  · have x := h.2.2.1
    unfold Unlinked at x ⊢
    rw [← et, ← em]; exact x
  · have e := hk m hm
    exact (h.2.2.2.2 m hm (by rw [e]; exact hx)).trans (by rw [e])

theorem Only.eq_hif {t u : State} (h : Only [.hif] t u) : u = { t with hif := u.hif } := by
  have e (f : Field) (hf : f ∉ [Field.hif]) := h f hf
  cases u
  have := e .isl (by decide); have := e .kelri (by decide); have := e .q (by decide); have := e .rounds (by decide)
  have := e .time (by decide); have := e .plot (by decide); have := e .trellis (by decide); have := e .spetar (by decide)
  have := e .graft (by decide); have := e .part (by decide); have := e .shed (by decide); have := e .attest (by decide)
  have := e .random (by decide); have := e .mgmt (by decide); have := e .power (by decide); have := e .err (by decide)
  have := e .reg (by decide); have := e .freeCtr (by decide); have := e .pending (by decide)
  simp_all [State.sameAt]

/-- The host interface may change too. -/
theorem PortMoved.hif {s t u : State} {n : Nat} {st : PortState} (h : PortMoved s t n st) (ho : Only [.hif] t u) : PortMoved s u n st := by
  obtain ⟨h1, h2, h3, h4, h5⟩ := h
  have e : u.spetar = t.spetar := ho .spetar (by decide)
  have ei : u.isl = t.isl := ho .isl (by decide)
  have et : u.time = t.time := ho .time (by decide)
  have em : u.mgmt = t.mgmt := ho .mgmt (by decide)
  have p : ∀ m, u.port m = t.port m := fun m => by unfold State.port; rw [e]
  refine ⟨?_, h2.trans (DropsOnly.of_isl ei), ?_, ?_, fun m hm hx => ?_⟩
  · rw [e, ei, et, em]
    exact ho.eq_hif.trans (congrArg (fun x : State => { x with hif := u.hif }) h1)
  · unfold Unlinked at h3 ⊢
    rw [et, em]; exact h3
  · rw [p]; exact h4
  · rw [p]; exact h5 m hm hx

theorem Only.eq_time {t u : State} (h : Only [.time, .hif, .mgmt] t u) : u = { t with time := u.time, hif := u.hif, mgmt := u.mgmt } := by
  have e (f : Field) (hf : f ∉ [Field.time, .hif, .mgmt]) := h f hf
  cases u
  have := e .isl (by decide); have := e .kelri (by decide); have := e .q (by decide); have := e .rounds (by decide)
  have := e .plot (by decide); have := e .trellis (by decide); have := e .spetar (by decide)
  have := e .graft (by decide); have := e .part (by decide); have := e .shed (by decide); have := e .attest (by decide)
  have := e .random (by decide); have := e .power (by decide); have := e .err (by decide)
  have := e .reg (by decide); have := e .freeCtr (by decide); have := e .pending (by decide)
  simp_all [State.sameAt]

theorem timeUnlinked_only (s : State) : Only [.time, .hif, .mgmt] s s.timeUnlinked := by
  unfold State.timeUnlinked
  extract_lets f
  split
  · exact ((Only.of_time s _).mono (by decide)).trans (enterSync_only _ _)
  · exact Only.refl _ s

/-- The last link's loss takes a device that follows into HOLDOVER. -/
theorem timeUnlinked_time (s : State) : Unlinked s s.timeUnlinked := by
  unfold State.timeUnlinked
  extract_lets f
  split
  · rename_i h
    have hf : f = true := by simp only [Bool.and_eq_true] at h; exact h.1
    have hs : s.time.state = .locked ∨ s.time.state = .acquiring := by
      simp only [f, Bool.and_eq_true, Bool.or_eq_true, beq_iff_eq] at hf
      exact hf.2
    exact .inr ⟨hs, enterSync_time _ _⟩
  · exact Unlinked.refl s

/-- A port that has moved while TIME stood still may then lose TIME its last link. -/
theorem PortMoved.unlink {s t : State} {n : Nat} {st : PortState} (h : PortMoved s t n st) (ht : t.time = s.time) (hm : t.mgmt = s.mgmt) :
    PortMoved s t.timeUnlinked n st := by
  obtain ⟨h1, h2, h3, h4, h5⟩ := h
  have ho := timeUnlinked_only t
  have e : t.timeUnlinked.spetar = t.spetar := ho .spetar (by decide)
  have ei : t.timeUnlinked.isl = t.isl := ho .isl (by decide)
  have p : ∀ m, t.timeUnlinked.port m = t.port m := fun m => by unfold State.port; rw [e]
  refine ⟨?_, h2.trans (DropsOnly.of_isl ei), ?_, ?_, fun m hm hx => ?_⟩
  · rw [e, ei]
    exact ho.eq_time.trans (congrArg (fun x : State => { x with
      time := t.timeUnlinked.time, hif := t.timeUnlinked.hif, mgmt := t.timeUnlinked.mgmt }) h1)
  · have u := timeUnlinked_time t
    unfold Unlinked at u ⊢
    rw [ht, hm] at u; exact u
  · rw [p]; exact h4
  · rw [p]; exact h5 m hm hx

/-- A port moves to any state but SETTLING. -/
theorem portTo_moved (s : State) (n : Nat) {st : PortState} (hs : st ≠ .settling) : PortMoved s (s.portTo n st) n st := by
  unfold State.portTo
  extract_lets p was dark s1 s2 s3 s4
  split
  · rename_i h
    exact ⟨rfl, DropsOnly.refl s, Unlinked.refl s, by rw [← h]; rfl, fun _ _ _ => rfl⟩
  · have h1 : PortMoved s s1 n st := by
      refine ⟨rfl, DropsOnly.refl s, Unlinked.refl s, ?_, fun m hm _ => ?_⟩
      · refine (port_setPort (port_ne_of_state hs)).trans ?_
        rw [show s1.port n = _ from port_setPort (port_ne_of_state hs)]
        rfl
      · rw [show s1.port m = _ from port_setPort_other _ _ hm]; rfl
    have h2 : PortMoved s s2 n st ∧ s2.time = s.time ∧ s2.mgmt = s.mgmt := by
      show PortMoved s (if _ then _ else _) n st ∧ (if _ then _ else _ : State).time = _ ∧ (if _ then _ else _ : State).mgmt = _
      split
      · have k := reroute_kept s1 n
        exact ⟨h1.kept hs k, k.only .time (by decide), k.only .mgmt (by decide)⟩
      · exact ⟨h1, rfl, rfl⟩
    have h3 : PortMoved s s3 n st ∧ s3.time = s.time ∧ s3.mgmt = s.mgmt := by
      show PortMoved s (if _ then _ else _) n st ∧ (if _ then _ else _ : State).time = _ ∧ (if _ then _ else _ : State).mgmt = _
      split
      · have k := raisePf_only (s2.record (.fault n)) .port
        exact ⟨(h2.1.kept hs (record_kept _ _)).hif k, (k .time (by decide)).trans h2.2.1, (k .mgmt (by decide)).trans h2.2.2⟩
      · exact h2
    have h4 : PortMoved s s4 n st := h3.1.unlink h3.2.1 h3.2.2
    split
    · exact h4.kept hs (floodOwn_kept _)
    · exact h4

theorem portTo_only (s : State) (n : Nat) (st : PortState) : Only [.spetar, .isl, .hif, .time, .mgmt] s (s.portTo n st) := by
  unfold State.portTo
  extract_lets p was dark s1 s2 s3 s4
  split
  · exact Only.refl _ s
  · have h1 : Only [.spetar, .isl, .hif, .time, .mgmt] s s1 := (setPort_only s n _).mono (by decide)
    have h2 : Only [.spetar, .isl, .hif, .time, .mgmt] s s2 := by
      show Only _ s (if _ then _ else _)
      split
      · exact h1.trans ((reroute_kept _ _).only.mono (by decide))
      · exact h1
    have h3 : Only [.spetar, .isl, .hif, .time, .mgmt] s s3 := by
      show Only _ s (if _ then _ else _)
      split
      · exact (h2.trans ((record_only _ _).mono (by decide))).trans ((raisePf_only _ _).mono (by decide))
      · exact h2
    have h4 : Only [.spetar, .isl, .hif, .time, .mgmt] s s4 := h3.trans ((timeUnlinked_only _).mono (by decide))
    split
    · exact h4.trans ((floodOwn_kept _).only.mono (by decide))
    · exact h4

end Sys2Proof.Machine
end

