-- ==== Sys2Proof/Laws/Random.lean ====
section
/-!
SUPPORT. What the shared operations of the random unit do.
-/

namespace Sys2Proof.Machine
open Sys2Proof

theorem freeBytes_only (s : State) (n : Nat) : Only [.freeCtr] s (s.freeBytes n).2 := Only.of_freeCtr s _

theorem takeBlock_only (s : State) : Only [.random, .freeCtr] s s.takeBlock.2 := by
  unfold State.takeBlock
  split
  · exact (Only.of_random s _).mono (by decide)
  · exact (freeBytes_only s 48).mono (by decide)

/-- Taking a block leaves the instances as they are. -/
theorem takeBlock_random (s : State) : s.takeBlock.2.random = { s.random with pool := s.random.pool.drop 1 } := by
  unfold State.takeBlock
  split
  · rename_i b t h
    rw [h]; rfl
  · rename_i h
    show s.random = _
    rw [h]
    show s.random = { s.random with pool := [] }
    rw [← h]

theorem instantiate_only (s : State) (k : Nat) : Only [.random, .freeCtr] s (s.instantiate k) :=
  (takeBlock_only s).trans ((Only.of_random _ _).mono (by decide))

theorem instantiate_random (s : State) (k : Nat) : (s.instantiate k).random =
    { s.random with pool := s.random.pool.drop 1, drbgs := Tab.insert s.random.drbgs k (drbgNew s.takeBlock.1 (s.personal k)) } := by
  have h := takeBlock_random s
  have p : s.takeBlock.2.personal k = s.personal k := by unfold State.personal; rw [h]
  unfold State.instantiate State.setDrbg
  dsimp only
  rw [p, h]

theorem reseed_only (s : State) (k : Nat) : Only [.random, .freeCtr] s (s.reseed k) := by
  unfold State.reseed
  split
  · exact instantiate_only s k
  · exact (takeBlock_only s).trans ((Only.of_random _ _).mono (by decide))

/-- A reseed changes the pool of blocks and the instances, nothing else of the unit. -/
theorem reseed_random (s : State) (k : Nat) : (s.reseed k).random =
    { s.random with pool := (s.reseed k).random.pool, drbgs := (s.reseed k).random.drbgs } := by
  unfold State.reseed
  split
  · rw [instantiate_random]
  · unfold State.setDrbg
    dsimp only
    rw [takeBlock_random]

/-- A reseed depends on the random unit and the free counter alone. -/
theorem reseed_congr {s t : State} (hr : s.random = t.random) (hf : s.freeCtr = t.freeCtr) (k : Nat) : (s.reseed k).random = (t.reseed k).random := by
  have hb : s.takeBlock.1 = t.takeBlock.1 := by
    unfold State.takeBlock State.freeBytes; rw [hr, hf]; split <;> rfl
  have hp : s.personal k = t.personal k := by unfold State.personal; rw [hr]
  unfold State.reseed
  rw [hr]
  split
  · rw [instantiate_random, instantiate_random, hb, hp, hr]
  · unfold State.setDrbg
    dsimp only
    rw [takeBlock_random, takeBlock_random, hb, hr]

theorem drawRequest_only (s : State) (k n : Nat) : Only [.random, .freeCtr] s (s.drawRequest k n).2 := by
  unfold State.drawRequest
  extract_lets d u
  have h : Only [.random, .freeCtr] s u := by
    show Only _ s (if _ then _ else _)
    split
    · exact reseed_only s k
    · exact Only.refl _ s
  exact h.trans ((Only.of_random u _).mono (by decide))

theorem drawAux_only (k : Nat) : ∀ (fuel n : Nat) (s : State), Only [.random, .freeCtr] s (s.drawAux k fuel n).2
  | 0, _, s => Only.refl _ s
  | fuel + 1, n, s => by
    unfold State.drawAux
    split
    · exact Only.refl _ s
    · exact (drawRequest_only s k _).trans (drawAux_only k fuel _ _)

theorem draw_only (s : State) (k n : Nat) : Only [.random, .freeCtr] s (s.draw k n).2 := drawAux_only k _ n s

theorem reseedAll_only (l : List Nat) : ∀ s : State, Only [.random, .freeCtr] s (l.foldl State.reseed s) := by
  induction l with
  | nil => exact fun s => Only.refl _ s
  | cons k l ih => exact fun s => (reseed_only s k).trans (ih _)

/-- Reseeding every instance changes the pool of blocks and the instances, nothing else of the unit. -/
theorem reseedAll_random (l : List Nat) : ∀ s : State, (l.foldl State.reseed s).random =
    { s.random with pool := (l.foldl State.reseed s).random.pool, drbgs := (l.foldl State.reseed s).random.drbgs } := by
  induction l with
  | nil => exact fun s => rfl
  | cons k l ih =>
    intro s
    rw [List.foldl_cons, ih, reseed_random]

/-- The source is as its cells and tests say: nothing changes. -/
theorem judgeSource_same {s : State} (h : (s.random.testsPassed && decide (2 ≤ s.healthyCells.length)) = s.random.serving) : s.judgeSource = s := by
  unfold State.judgeSource
  dsimp only
  rw [h]
  cases s.random.serving <;> rfl

/-- The source starts to serve: every instance takes a block (R773). -/
theorem judgeSource_serves {s : State} (h1 : s.random.testsPassed = true) (h2 : s.random.serving = false) (h3 : 2 ≤ s.healthyCells.length) :
    s.judgeSource = s.instances.foldl State.reseed { s with random := { s.random with serving := true, cause := 0 } } := by
  unfold State.judgeSource
  dsimp only
  rw [h1, h2, decide_eq_true h3]
  rfl

/-- The source fails with nothing to end (R772). -/
theorem judgeSource_fails {s : State} (h1 : s.random.testsPassed = true) (h2 : s.random.serving = true) (h3 : s.healthyCells.length < 2) (h4 : s.fills = []) :
    s.judgeSource = s.sourceFailed := by
  unfold State.judgeSource State.endFills
  dsimp only
  rw [h1, h2, decide_eq_false (by omega), h4]
  rfl

end Sys2Proof.Machine
end

