-- ==== Sys2Proof/Laws/TaskOps.lean ====
section
/-!
SUPPORT. Dispatch slots, progress counts, and the primitives of resident tasks.
-/

namespace Sys2Proof.Machine
open Sys2Proof

/-- A dispatch slot changes the sequencers' windows and the queues' classes alone. -/
theorem passSlot_q (s : State) (k a b : Nat) : ∃ x y, s.passSlot k a b = { s with q := { s.q with seqs := x, queues := y } } := ⟨_, _, rfl⟩

theorem readSlot_reads {s u : State} {src : Source} {a : Nat} {b : Bytes} (h : s.readSlot src a = (.ok b, u)) : Reads s u := by
  unfold State.readSlot at h
  have h1 := claim_reads s src a 64 false
  generalize s.claim src a 64 false = x at h h1
  rcases x with ⟨e | ps, s'⟩
  · cases h
  · exact Reads.trans h1 (readRange_ok_reads h).1

theorem recordAtHead_reads {s u : State} {t : TaskId} {q : Fin 16} {d : Bytes} (h : s.recordAtHead t q = (.ok d, u)) : Reads s u := by
  unfold State.recordAtHead at h
  dsimp only at h
  generalize ha : (s.queue (.part t.part q)).cqBase.toNat + 32 * ((s.queue (.part t.part q)).cqHead.toNat % 2 ^ ((s.queue (.part t.part q)).cqLog2 - 5)) = a at h
  have h1 := translate_reads s t.part (taskAgent t) a 32 false
  generalize s.translate t.part (taskAgent t) a 32 false = x at h h1
  rcases x with ⟨e | ps, s'⟩
  · cases h
  · exact Reads.trans h1 (readRange_ok_reads h).1

/-- Counting progress changes the progress counters and the counter of free values alone. -/
theorem progressBy_q (s : State) (a : Agent) (n : Nat) :
    ∃ x y, s.progressBy a n = { s with q := { s.q with progress := x }, freeCtr := y } := by
  unfold State.progressBy
  split
  · exact ⟨s.q.progress, s.freeCtr, rfl⟩
  · exact ⟨_, _, rfl⟩

/-- A slot that goes changes the sequencers' windows and the queues' classes alone. -/
theorem giveSlot_q (s : State) (n : Nat) (x : Ready) (k : Nat) : ∃ y z, s.giveSlot n x k = { s with q := { s.q with seqs := y, queues := z } } :=
  ⟨_, _, rfl⟩

/-- What a step's slot leaves as it was: all but the tasks' table, where the task's record is written again, the sequencers' windows and
the queues' classes. -/
theorem atStep_q {s : State} {t : TaskId} {p : TaskStep} (hr : (s.taskOf t).state = .running) (hs : (s.taskOf t).step = none) :
    ∃ y z, s.atStep t p = { s with q := { s.q with tasks := Tab.insert s.q.tasks (taskKey t) (s.taskOf t), seqs := y, queues := z } } := by
  obtain ⟨y, z, h⟩ := giveSlot_q (s.withStep t p) (t.slot.val % 4) (.task t) 2
  have ne : ∀ o : Option TaskStep, ({ s.taskOf t with step := o } : Task) ≠ {} := by
    intro o e
    have : (s.taskOf t).state = .stopped := congrArg Task.state e
    rw [hr] at this
    exact absurd this (by decide)
  have hw : (s.withStep t p).q.tasks = Tab.insert s.q.tasks (taskKey t) { s.taskOf t with step := some p } := by
    show Tab.set _ _ _ _ = _
    unfold Tab.set
    rw [if_neg (ne _)]
    rfl
  have ht : ({ s.withStep t p with q := { (s.withStep t p).q with seqs := y, queues := z } } : State).taskOf t = { s.taskOf t with step := some p } := by
    show Tab.get (s.withStep t p).q.tasks {} (taskKey t) = _
    rw [hw]
    exact Tab.get_insert_same _ _ _ _
  have same : ({ s.taskOf t with step := none } : Task) = s.taskOf t := by rw [← hs]
  refine ⟨y, z, ?_⟩
  unfold State.atStep
  simp only [h]
  rw [ht]
  show State.setTask _ t { s.taskOf t with step := none } = _
  unfold State.setTask
  have e : Tab.set (s.withStep t p).q.tasks {} (taskKey t) { s.taskOf t with step := none } = Tab.insert s.q.tasks (taskKey t) (s.taskOf t) := by
    rw [hw]
    unfold Tab.set
    rw [if_neg (ne _), Tab.insert_insert_same, same]
  show ({ s.withStep t p with q := { (s.withStep t p).q with seqs := y, queues := z, tasks := _ } } : State) = _
  rw [show Tab.set ({ s.withStep t p with q := { (s.withStep t p).q with seqs := y, queues := z } } : State).q.tasks {} (8 * t.part.val + t.slot.val)
    { s.taskOf t with step := none } = _ from e]
  rfl

theorem atStep_only {s : State} {t : TaskId} {p : TaskStep} (hr : (s.taskOf t).state = .running) (hs : (s.taskOf t).step = none) :
    Only [.q] s (s.atStep t p) := by
  obtain ⟨y, z, h⟩ := atStep_q (p := p) hr hs
  rw [h]
  exact Only.of_q s _

theorem taskKey_inj {t u : TaskId} (h : taskKey u = taskKey t) : u = t := by
  obtain ⟨⟨p, hp⟩, ⟨k, hk⟩⟩ := t
  obtain ⟨⟨q, hq⟩, ⟨j, hj⟩⟩ := u
  simp only [taskKey] at h
  congr <;> omega

/-- No task's record differs after the slot. -/
theorem atStep_tasks {s : State} {t : TaskId} {p : TaskStep} (hr : (s.taskOf t).state = .running) (hs : (s.taskOf t).step = none) :
    TasksKept s (s.atStep t p) := by
  intro u
  obtain ⟨y, z, h⟩ := atStep_q (p := p) hr hs
  rw [h]
  show Tab.get (Tab.insert s.q.tasks (taskKey t) (s.taskOf t)) {} (taskKey u) = s.taskOf u
  by_cases k : taskKey u = taskKey t
  · rw [k, Tab.get_insert_same, taskKey_inj k]
  · rw [Tab.get_insert_other _ _ _ k]; rfl

/-- A step that gets its slot at once runs as its primitive does in the state it sees. -/
theorem taskStep_goes {s : State} {t : TaskId} {p : TaskStep} (h : s.stepGoes t p) :
    s.taskStep t p = match primitiveOf t p (s.atStep t p) with
      | (some u, _) => if (u.taskOf t).midStep then u else u.progressBy (.task t) 1
      | (none, v) => v.faultTask t := by
  obtain ⟨hr, hs, hf, hc⟩ := h
  have hst : (((s.withStep t p).giveSlot (t.slot.val % 4) (.task t) 2).taskOf t).step = some p := by
    obtain ⟨y, z, h⟩ := giveSlot_q (s.withStep t p) (t.slot.val % 4) (.task t) 2
    rw [h]
    show (Tab.get (Tab.set s.q.tasks {} (taskKey t) { s.taskOf t with step := some p }) {} (taskKey t)).step = some p
    rw [Tab.get_set_ne]
    intro e
    have : (some p : Option TaskStep) = none := congrArg Task.step e
    cases this
  unfold State.taskStep
  dsimp only
  rw [if_neg (by simp [hr, hs, hf])]
  show (match (s.withStep t p).slotChoice (t.slot.val % 4) with
    | some (.task u, k) => if u == t then ((s.withStep t p).giveSlot (t.slot.val % 4) (.task t) k).runStep t else s.withStep t p
    | _ => s.withStep t p) = _
  rw [hc]
  simp only [beq_self_eq_true, if_true]
  unfold State.runStep
  rw [hst]
  rfl

/-- What DISPATCH makes of a step that awaits its slot is what the step makes of itself where it gets the slot at once. -/
theorem taskStep_dispatch {s : State} {t : TaskId} {p : TaskStep} (h : s.stepGoes t p) (hf : s.running .fe = true)
    (ha : t.slot.val % 4 = 0 → s.readyAux = none) : actDispatch (Fin.ofNat 4 t.slot.val) (s.withStep t p) = s.taskStep t p := by
  obtain ⟨hr, hs, hg, hc⟩ := h
  have ha' : t.slot.val % 4 = 0 → (s.withStep t p).readyAux = none := ha
  have hf' : (s.withStep t p).running .fe = true := hf
  have hm : (Fin.ofNat 4 t.slot.val).val = t.slot.val % 4 := rfl
  have hn : (if (Fin.ofNat 4 t.slot.val).val = 0 then
      (s.withStep t p).readyAux.bind (fun c => (rowOf c.pkt.header.op.toNat).map (fun y => (c, y))) else none) = none := by
    by_cases h0 : t.slot.val % 4 = 0
    · rw [ha' h0]; simp
    · rw [hm, if_neg h0]
  unfold actDispatch State.dispatchSlot State.taskStep
  dsimp only
  rw [if_neg (c := ((s.taskOf t).state != .running || (s.taskOf t).step.isSome || (s.taskOf t).fetching.isSome) = true) (by simp [hr, hs, hg]),
    hn, hf', hm, hc]
  have hc' : (s.setTask t { s.taskOf t with step := some p }).slotChoice (t.slot.val % 4) = some (.task t, 2) := hc
  rw [hc']
  simp only [if_true, beq_self_eq_true]
  rfl

/-- A step whose slot goes to other work waits for it. -/
theorem taskStep_waits {s : State} {t : TaskId} {p : TaskStep} (hr : (s.taskOf t).state = .running) (hs : (s.taskOf t).step = none)
    (hf : (s.taskOf t).fetching = none) (hc : ∀ k, (s.withStep t p).slotChoice (t.slot.val % 4) ≠ some (.task t, k)) :
    s.taskStep t p = s.withStep t p := by
  unfold State.taskStep
  dsimp only
  rw [if_neg (by simp [hr, hs, hf])]
  show (match (s.withStep t p).slotChoice (t.slot.val % 4) with
    | some (.task u, k) => if u == t then ((s.withStep t p).giveSlot (t.slot.val % 4) (.task t) k).runStep t else s.withStep t p
    | _ => s.withStep t p) = _
  split
  · rename_i u k e
    by_cases hu : u = t
    · subst hu; exact absurd e (hc k)
    · simp [hu]
  · rfl

/-- A step that gets its slot and whose primitive succeeds at once. -/
theorem taskStep_ok {s u v : State} {t : TaskId} {p : TaskStep} (h : s.stepGoes t p) (hf : primitiveOf t p (s.atStep t p) = (some u, v))
    (hm : (u.taskOf t).midStep = false) : s.taskStep t p = u.progressBy (.task t) 1 := by
  rw [taskStep_goes h, hf]
  simp [hm]

/-- A step that gets its slot and sleeps, or whose effect is still to come: it counts when it completes. -/
theorem taskStep_pends {s u v : State} {t : TaskId} {p : TaskStep} (h : s.stepGoes t p) (hf : primitiveOf t p (s.atStep t p) = (some u, v))
    (hm : (u.taskOf t).midStep = true) : s.taskStep t p = u := by
  rw [taskStep_goes h, hf]
  simp [hm]

/-- A step that its table does not allow moves the task to FAULTED. -/
theorem taskStep_bad {s v : State} {t : TaskId} {p : TaskStep} (h : s.stepGoes t p) (hf : primitiveOf t p (s.atStep t p) = (none, v)) :
    s.taskStep t p = v.faultTask t := by
  rw [taskStep_goes h, hf]

theorem fenceOwner_atStep {s : State} {t : TaskId} {p : TaskStep} (h : s.stepGoes t p) (f : Nat) : (s.atStep t p).fenceOwner f = s.fenceOwner f := by
  obtain ⟨y, z, e⟩ := atStep_q (p := p) h.1 h.2.1
  rw [e]; rfl

theorem mayWriteFence_atStep {s : State} {t : TaskId} {p : TaskStep} (h : s.stepGoes t p) (f : Nat) (w : Option Agent) :
    (s.atStep t p).mayWriteFence f w = s.mayWriteFence f w := by
  obtain ⟨y, z, e⟩ := atStep_q (p := p) h.1 h.2.1
  rw [e]; rfl

theorem fence_atStep {s : State} {t : TaskId} {p : TaskStep} (h : s.stepGoes t p) (f : Nat) : (s.atStep t p).fence f = s.fence f := by
  obtain ⟨y, z, e⟩ := atStep_q (p := p) h.1 h.2.1
  rw [e]; rfl

theorem fencesHeld_atStep {s : State} {t : TaskId} {p : TaskStep} (h : s.stepGoes t p) (u : TaskId) :
    (s.atStep t p).fencesHeld u = s.fencesHeld u := by
  obtain ⟨y, z, e⟩ := atStep_q (p := p) h.1 h.2.1
  rw [e]; rfl

theorem waitingPost_atStep {s : State} {t : TaskId} {p : TaskStep} (h : s.stepGoes t p) (u : TaskId) :
    (s.atStep t p).waitingPost u = s.waitingPost u := by
  obtain ⟨y, z, e⟩ := atStep_q (p := p) h.1 h.2.1
  rw [e]; rfl

theorem waitHolds_atStep {s : State} {t : TaskId} {p : TaskStep} (h : s.stepGoes t p) (l : List (Nat × Nat)) (i : Bool) :
    waitHolds (s.atStep t p) t l i = waitHolds s t l i := by
  unfold waitHolds
  rw [atStep_tasks h.1 h.2.1 t]
  congr 2

theorem passSlot_only (s : State) (k a b : Nat) : Only [.q] s (s.passSlot k a b) := by
  obtain ⟨x, y, h⟩ := passSlot_q s k a b
  rw [h]
  exact Only.of_q s _

theorem progressBy_only (s : State) (a : Agent) (n : Nat) : Only [.q, .freeCtr] s (s.progressBy a n) := by
  obtain ⟨x, y, h⟩ := progressBy_q s a n
  rw [h]
  intro f hf
  cases f <;> first | rfl | exact absurd (by decide) hf

/-- The next state of a step that succeeds: what it leaves, and one more event counted. -/
theorem taskStep_next {s u v : State} {t : TaskId} {p : TaskStep} (h : s.stepGoes t p) (hf : primitiveOf t p (s.atStep t p) = (some u, v))
    (hg : (u.taskOf t).midStep = false) (hp : u.pending = s.pending) (hm : u.memOk) :
    ∃ a b, s.conclude (s.taskStep t p) = .next { u with q := { u.q with progress := a }, freeCtr := b } := by
  obtain ⟨a, b, e⟩ := progressBy_q u (.task t) 1
  refine ⟨a, b, ?_⟩
  rw [taskStep_ok h hf hg, e]
  exact State.conclude_eq hp hm

/-- The next state of a step that its table does not allow. -/
theorem taskStep_faults {s v : State} {t : TaskId} {p : TaskStep} (h : s.stepGoes t p) (hf : primitiveOf t p (s.atStep t p) = (none, v))
    (hp : (v.faultTask t).pending = s.pending) (hm : (v.faultTask t).memOk) : s.conclude (s.taskStep t p) = .next (v.faultTask t) := by
  rw [taskStep_bad h hf]
  exact State.conclude_eq hp hm

end Sys2Proof.Machine
end

