-- ==== Sys2Proof/WellFormed.lean ====
section
/-!
DEFINITION. Which commands are well formed: the ranges that the operands of a command can take on the part's own wires. A
packet carries 12 or 28 parameter words (R154); fabric IDs have 9 bits, fences 12, a task moves at most 4 KiB at a time and
waits on at most 8 fences (Table 6.3), a ring slot is 64 bytes (R153); a fabric packet is of its row's type and a message of its row's kind
(Table 17.3, Table 15.3), and a MAC's bit errors lie in one FEC block (R529).
-/

namespace Sys2Proof

/-- SIZE is bit 24 of the header (Table 5.2). -/
def Packet.wf (p : Packet) : Bool := p.params.length == (if p.hdr.getLsbD 24 then 28 else 12)

def fidOk (f : Nat) : Bool := decide (f < 512)

def fenceOk (f : Nat) : Bool := decide (f < 4096)

def moveOk (n : Nat) : Bool := decide (1 ≤ n) && decide (n ≤ 4096)

def waitsOk (l : List (Nat × Nat)) : Bool := decide (l.length ≤ 8) && l.all (fun x => fenceOk x.1 && decide (x.2 < 2 ^ 64))

def slotOk (b : Bytes) : Bool := b.length == 64

def FabHeader.wf (h : FabHeader) : Bool :=
  fidOk h.src && fidOk h.dst && decide (h.srcPart < 64) && decide (h.window < 256) && decide (h.psn < 2 ^ 32) &&
    decide (h.expiry < 2 ^ 32) && decide (h.op < 16) && decide (h.retry < 8)

/-- The fabric IDs, and the partition number of a Trellis, that a message names. -/
def RoundMsg.idsOk : RoundMsg → Bool
  | .openKey _ _ _ partners members => partners.all (fun x => fidOk x.1 && fidOk x.2.1) && members.all fidOk
  | .openRequest _ _ _ _ other => other.all (fun x => fidOk x.1)
  | .partner _ _ other => other.all (fun x => fidOk x.1)
  | .join x _ covers => decide (x.part < 64) && covers.all fidOk
  | .bitmap x _ covers _ => decide (x.part < 64) && covers.all fidOk
  | .propose x _ mask _ => decide (x.part < 64) && mask.all fidOk
  | .result x _ mask _ => decide (x.part < 64) && mask.all fidOk
  | .barrierStart x _ _ starter => decide (x.part < 64) && fidOk starter
  | .barrierJoin x _ _ starter covers => decide (x.part < 64) && fidOk starter && covers.all fidOk
  | .barrierResult x _ joined => decide (x.part < 64) && joined.all fidOk
  | .pairRequest a b _ _ => fidOk a && fidOk b
  | .renewal _ _ other _ => other.all fidOk
  | .takeover primary _ _ => fidOk primary
  | .substitution old new _ => fidOk old && fidOk new
  | _ => true

/-! The kinds of message that a row takes. -/

def RoundMsg.isResult : RoundMsg → Bool
  | .result _ _ _ _ => true
  | _ => false

def RoundMsg.isBarrier : RoundMsg → Bool
  | .barrierStart _ _ _ _ => true
  | .barrierJoin _ _ _ _ _ => true
  | _ => false

def RoundMsg.isRecord : RoundMsg → Bool
  | .record _ _ _ _ => true
  | _ => false

def RoundMsg.isMark : RoundMsg → Bool
  | .mark _ _ _ _ => true
  | _ => false

def RoundMsg.isMarkAck : RoundMsg → Bool
  | .markAck _ _ _ _ => true
  | _ => false

def RoundMsg.isStateChange : RoundMsg → Bool
  | .stateChange _ _ _ _ => true
  | _ => false

def RoundMsg.isChunk : RoundMsg → Bool
  | .join _ _ _ => true
  | .bitmap _ _ _ _ => true
  | .sumUp _ _ _ _ _ _ => true
  | .sumDown _ _ _ _ _ => true
  | .sumFail _ _ _ => true
  | _ => false

def RoundMsg.isAnswer : RoundMsg → Bool
  | .credit _ _ _ => true
  | .dissolved _ => true
  | .proposeAnswer _ _ _ => true
  | .recordOutcome _ _ _ _ => true
  | _ => false

def RoundMsg.isPropose : RoundMsg → Bool
  | .propose _ _ _ _ => true
  | _ => false

def RoundMsg.isLeave : RoundMsg → Bool
  | .leave _ _ => true
  | .abort _ _ _ => true
  | _ => false

def RoundMsg.isPair : RoundMsg → Bool
  | .pairRequest _ _ _ _ => true
  | _ => false

def RoundMsg.isHeartbeat : RoundMsg → Bool
  | .heartbeat _ _ _ _ _ => true
  | _ => false

def RoundMsg.isRenewal : RoundMsg → Bool
  | .renewal _ _ _ _ => true
  | _ => false

def RoundMsg.isRenewalAck : RoundMsg → Bool
  | .renewalAck _ _ _ => true
  | _ => false

def RoundMsg.isTakeover : RoundMsg → Bool
  | .takeover _ _ _ => true
  | _ => false

def RoundMsg.isGrant : RoundMsg → Bool
  | .grant _ => true
  | _ => false

def RoundMsg.isRefuse : RoundMsg → Bool
  | .refuse => true
  | _ => false

def RoundMsg.isSubstitution : RoundMsg → Bool
  | .substitution _ _ _ => true
  | _ => false

def RoundMsg.isMirrorAck : RoundMsg → Bool
  | .mirrorAck _ _ _ _ => true
  | _ => false

def RoundMsg.isKey : RoundMsg → Bool
  | .openRequest _ _ _ _ _ => true
  | .openKey _ _ _ _ _ => true
  | .partner _ _ _ => true
  | .openRefuse _ _ _ _ => true
  | .codedKey _ _ _ _ => true
  | _ => false

def RoundMsg.isHomeMap : RoundMsg → Bool
  | .homeMap _ _ _ _ _ => true
  | _ => false

/-- The header of a packet of type `t`. -/
def FabHeader.is (h : FabHeader) (t : PktType) : Bool := h.wf && h.type == t

/-- A ROUND packet with a message of the kind `k`. -/
def RoundIn.carries (o : RoundIn) (m : RoundMsg) (k : RoundMsg → Bool) : Bool := o.h.is .round && m.idsOk && k m

/-- A graft message of the kind `k`, which a ROUND header carries too. -/
def graftOk (h : FabHeader) (m : RoundMsg) (k : RoundMsg → Bool) : Bool := h.is .round && m.idsOk && k m

def DevRec.wf (d : DevRec) : Bool :=
  d.udid.length == 16 && d.ports.all (fun x => decide (x.1 < 16) && decide (x.2.2 < 16)) && d.active.all (fun n => decide (n < 16))

/-- The well-formed commands. -/
def Instr.wf : Instr → Bool
  | .nop _ pkt => pkt.wf
  | .fenceWait _ pkt => pkt.wf
  | .fenceSignal _ pkt => pkt.wf
  | .signalRemote _ pkt => pkt.wf
  | .ringJump _ pkt => pkt.wf
  | .residentStart _ pkt => pkt.wf
  | .residentPost _ pkt => pkt.wf
  | .residentStop _ pkt => pkt.wf
  | .barrier _ pkt => pkt.wf
  | .copy _ pkt => pkt.wf
  | .fill _ pkt => pkt.wf
  | .scrub _ pkt => pkt.wf
  | .hostPull _ pkt => pkt.wf
  | .hostPush _ pkt => pkt.wf
  | .roundOpen _ pkt => pkt.wf
  | .roundLayout _ pkt => pkt.wf
  | .ingestBind _ pkt => pkt.wf
  | .harvest _ pkt => pkt.wf
  | .sharesSubmit _ pkt => pkt.wf
  | .revealCombine _ pkt => pkt.wf
  | .unmask _ pkt => pkt.wf
  | .codedDecode _ pkt => pkt.wf
  | .seal _ pkt => pkt.wf
  | .release _ pkt => pkt.wf
  | .roundAbort _ pkt => pkt.wf
  | .placementRevise _ pkt => pkt.wf
  | .expand _ pkt => pkt.wf
  | .matmul _ pkt => pkt.wf
  | .routeTopk _ pkt => pkt.wf
  | .reduceIdx _ pkt => pkt.wf
  | .eltwise _ pkt => pkt.wf
  | .modelLoad _ pkt => pkt.wf
  | .placementSet _ pkt => pkt.wf
  | .fabDiscover _ pkt => pkt.wf
  | .fabRoutes _ pkt => pkt.wf
  | .windowOpen _ pkt => pkt.wf
  | .windowClose _ pkt => pkt.wf
  | .rmaWrite _ pkt => pkt.wf
  | .rmaRead _ pkt => pkt.wf
  | .rmaAdd _ pkt => pkt.wf
  | .trellisForm _ pkt => pkt.wf
  | .trellisReduce _ pkt => pkt.wf
  | .keyWrite _ pkt => pkt.wf
  | .keyDerive _ pkt => pkt.wf
  | .keyErase _ pkt => pkt.wf
  | .keyInfo _ pkt => pkt.wf
  | .aeadSeal _ pkt => pkt.wf
  | .aeadOpen _ pkt => pkt.wf
  | .digest _ pkt => pkt.wf
  | .prove _ pkt => pkt.wf
  | .attestReport _ pkt => pkt.wf
  | .weightsLoad _ pkt => pkt.wf
  | .randomFill _ pkt => pkt.wf
  | .randomReseed _ pkt => pkt.wf
  | .randomPersonalize _ pkt => pkt.wf
  | .noiseFill _ pkt => pkt.wf
  | .partCreate _ pkt => pkt.wf
  | .partDestroy _ pkt => pkt.wf
  | .partShares _ pkt => pkt.wf
  | .shears _ pkt => pkt.wf
  | .islandReset _ pkt => pkt.wf
  | .coldFrameEnter _ pkt => pkt.wf
  | .timeSet _ pkt => pkt.wf
  | .timeAlarm _ pkt => pkt.wf
  | .timeOutputs _ pkt => pkt.wf
  | .graftPair _ pkt => pkt.wf
  | .graftUnpair _ pkt => pkt.wf
  | .graftTakeover _ pkt => pkt.wf
  | .fwStage _ pkt => pkt.wf
  | .fwActivate _ pkt => pkt.wf
  | .diagLiveRead _ pkt => pkt.wf
  | .diagEcho _ pkt => pkt.wf
  | .queueFetch _ => true
  | .waitSatisfied _ _ => true
  | .dispatch _ => true
  | .taskWait _ fences _ _ => waitsOk fences
  | .taskRead _ _ _ len => moveOk len
  | .taskWrite _ _ _ len => moveOk len
  | .putSlot _ _ _ data => slotOk data
  | .taskSignal _ fence _ _ => fenceOk fence
  | .takeRecord _ _ => true
  | .takeMessage _ => true
  | .ownFence _ fence => fenceOk fence
  | .dropFence _ fence => fenceOk fence
  | .ptDoorbellTail _ _ _ _ => true
  | .ptDoorbellCqHead _ _ _ => true
  | .queueEnable _ _ => true
  | .queueDisable _ _ => true
  | .restart _ _ => true
  | .fenceWindowWrite _ f _ _ => fenceOk f
  | .ptPartPtRoot _ _ => true
  | .ptPartTlbInval _ _ => true
  | .ptPartFaultClear _ _ => true
  | .ptPartChunkRelease _ _ => true
  | .chunkReleaseScrub _ _ _ => true
  | .randomPortRead _ _ _ => true
  | .rlRead _ _ _ _ => true
  | .timeNowRead _ _ => true
  | .queueClassWrite _ _ _ => true
  | .wlRegionWrite _ _ => true
  | .errlogClear _ _ _ => true
  | .tamperLogClear _ _ => true
  | .portEnable _ _ => true
  | .portReset _ _ => true
  | .unfence _ _ => true
  | .calNow _ _ => true
  | .registerWrite _ _ _ _ _ => true
  | .bar2Access _ _ _ => true
  | .configurationRequest _ _ _ => true
  | .flr _ => true
  | .flrComplete _ _ => true
  | .vfEnable _ _ => true
  | .d3hot _ => true
  | .msixUnmask _ _ => true
  | .hostCompletion _ tag _ _ => decide (tag < 1024)
  | .hostReadTimeout _ tag => decide (tag < 1024)
  | .linkRetrain _ _ _ _ => true
  | .dlDown => true
  | .mainSideWarmReset => true
  | .mainSideBoot => true
  | .kelriValid => true
  | .pwrgdMainFall => true
  | .coldReset _ => true
  | .auxReset => true
  | .auxBoot _ _ => true
  | .auxBootComplete => true
  | .thermTrip => true
  | .thermalSample _ => true
  | .powerLimit _ => true
  | .opChange _ => true
  | .droop _ => true
  | .arrUndervoltage _ => true
  | .plotGate _ => true
  | .plotWake _ => true
  | .islandRun _ _ => true
  | .resetFailed _ => true
  | .kelriRebuild _ => true
  | .epochParity _ => true
  | .crossingParity _ _ => true
  | .staleReply _ _ _ => true
  | .deadlineAlarm _ => true
  | .alarm _ => true
  | .descriptorFetch _ => true
  | .stagingGrant _ => true
  | .harvestGraceExpiry _ => true
  | .stripOperation _ _ => true
  | .stripResidencyLimit _ => true
  | .placementRevision => true
  | .harvestJoinClose _ => true
  | .harvestBitmapStart _ => true
  | .harvestBitmapClose _ => true
  | .harvestResult o m => o.carries m RoundMsg.isResult
  | .harvestAbsentTimeout _ => true
  | .revealBarrierStart o m => o.carries m RoundMsg.isBarrier
  | .revealBarrierClose _ => true
  | .recordRouted o m => o.carries m RoundMsg.isRecord
  | .mark o m => o.carries m RoundMsg.isMark
  | .markAck o m => o.carries m RoundMsg.isMarkAck
  | .roundStateChange o m => o.carries m RoundMsg.isStateChange
  | .releaseSlotGrant _ => true
  | .gateStrip _ => true
  | .samplerBatch => true
  | .tileClaim _ _ _ => true
  | .tileComplete _ _ => true
  | .contextGrant _ => true
  | .turnEnd _ => true
  | .syncExchange _ => true
  | .timeFrame _ _ _ _ _ => true
  | .announceTimer => true
  | .announce _ master _ _ _ _ => fidOk master
  | .announceTimeout => true
  | .candidacy _ _ fid _ => fidOk fid
  | .candidacyClose => true
  | .parentLoss => true
  | .ppsOut => true
  | .todFrame => true
  | .timeSynthLock _ => true
  | .timeSynthUnlock => true
  | .signalQualified _ _ _ => true
  | .trainingComplete _ _ _ _ => true
  | .trainingTimeout _ => true
  | .floodDetected _ _ _ => true
  | .backoffExpiry _ => true
  | .activeHold _ => true
  | .los _ _ _ => true
  | .faultPattern _ => true
  | .nakBurst _ => true
  | .linkAck _ _ => true
  | .linkNak _ _ => true
  | .replayTimeout _ => true
  | .replayBufferEcc _ => true
  | .tagFailure _ => true
  | .synthLock _ _ => true
  | .synthLockTimeout _ => true
  | .synthLockRetry _ => true
  | .losInDazzled _ => true
  | .temperatureDrift _ _ => true
  | .calibrationDrained _ => true
  | .calibrationEnd _ _ => true
  | .drainTimeout _ => true
  | .calibrationRetry _ => true
  | .pause _ => true
  | .unpause _ => true
  | .unpauseTimeout _ => true
  | .discover _ h d => h.is .discover && d.wf
  | .linkState _ h d => h.is .linkState && d.wf
  | .write _ h _ => h.is .write
  | .readReq _ h _ => h.is .readReq
  | .readResp _ h _ => h.is .readResp
  | .add _ h _ => h.is .add
  | .signal _ h _ => h.is .signal
  | .probe _ h _ => h.is .probe
  | .ack _ h _ => h.is .ack
  | .nak _ h _ => h.is .nak
  | .retransmitTimeout dest _ => fidOk dest
  | .retransmitGiveUp dest _ => fidOk dest
  | .windowHandleFree _ _ => true
  | .trellisChunk o m _ => o.carries m RoundMsg.isChunk
  | .keepalive => true
  | .escalation _ => true
  | .propose o m => o.carries m RoundMsg.isPropose
  | .standbyTakeover _ => true
  | .leave o m => o.carries m RoundMsg.isLeave
  | .pairRequest _ h m => graftOk h m RoundMsg.isPair
  | .pairTimeout => true
  | .heartbeatTimer => true
  | .heartbeat _ h m => graftOk h m RoundMsg.isHeartbeat
  | .heartbeatSilence => true
  | .renewalTimer => true
  | .renewal o m => o.carries m RoundMsg.isRenewal
  | .renewalAck o m => o.carries m RoundMsg.isRenewalAck
  | .leaseLapse => true
  | .takeoverRequest o m => o.carries m RoundMsg.isTakeover
  | .grant o m => o.carries m RoundMsg.isGrant
  | .refuse o m => o.carries m RoundMsg.isRefuse
  | .substitution o m => o.carries m RoundMsg.isSubstitution
  | .mirrorItem _ h _ _ _ => h.is .round
  | .mirrorAck _ h m => graftOk h m RoundMsg.isMirrorAck
  | .witnessFailover target => fidOk target
  | .witnessHoldEnd a b => fidOk a && fidOk b
  | .tamperEvent _ _ => true
  | .batteryRootGeneration => true
  | .slotPatrol _ _ _ => true
  | .batteryLow _ => true
  | .cellTestFail _ _ => true
  | .cellRetry _ => true
  | .startupTestPass _ => true
  | .blockConditioned _ => true
  | .queueRefill _ => true
  | .patrolScrub _ => true
  | .logParity _ _ => true
  | .command _ _ => true
  | .poll _ _ => true
  | .mainReset _ _ => true
  | .mainResetRelease => true
  | .alert _ _ => true
  | .resultExpiry _ => true
  | .setEndpointId _ _ => true
  | .getEndpointId => true
  | .getEndpointUuid => true
  | .getMctpVersionSupport _ => true
  | .getMessageTypeSupport => true
  | .getVendorDefinedMessageSupport _ => true
  | .gettid => true
  | .getpldmversion _ => true
  | .getpldmtypes => true
  | .getpldmcommands _ => true
  | .getpdrrepositoryinfo => true
  | .getpdr _ => true
  | .getsensorreading _ => true
  | .getstatesensorreadings _ => true
  | .seteventreceiver _ => true
  | .pldmType5Update _ _ => true
  | .activatefirmware => true
  | .updateAgentTimeout => true
  | .sensorSample _ _ => true
  | .platformeventmessageResend _ => true
  | .entdaa _ => true
  | .setdasa _ _ => true
  | .setnewda _ => true
  | .rstdaa => true
  | .enec => true
  | .disec => true
  | .getpid => true
  | .getbcr => true
  | .getdcr => true
  | .getstatus => true
  | .getmrl => true
  | .getmwl => true
  | .setmrl _ => true
  | .setmwl _ => true
  | .alertResponseAddress => true
  | .smbusClockTimeout => true
  | .reassemblyTimeout _ _ => true
  | .ibiTimeout => true
  | .responseUnreadTimeout => true
  | .responseRetry => true
  | .mgmtFirmwareActivation => true
  | .extest => true
  | .idcode => true
  | .samplePreload _ _ => true
  | .clamp => true
  | .highz => true
  | .bypass => true
  | .tapReset => true
  | .debugEntry => true
  | .commandCompletion _ _ => true
  | .idlePlotRelease _ => true
  | .tlbInvalidationComplete _ => true
  | .witnessLeaseExpiry a b => fidOk a && fidOk b
  | .graftAnswerTimeout => true
  | .frameCrcFailure _ _ => true
  | .dlUp _ _ _ => true
  | .pwrgdMainRise => true
  | .mctpPacket _ _ _ _ _ _ => true
  | .platformEventAcknowledgement _ => true
  | .aerError _ _ => true
  | .roundKeyTransfer o m => o.carries m RoundMsg.isKey
  | .homeMap o m => o.carries m RoundMsg.isHomeMap
  | .trellisAcknowledgement o m => o.carries m RoundMsg.isAnswer
  | .time10mOut => true

end Sys2Proof
end

