-- ==== Sys2Proof/Tests/Slice0.lean ====
section
/-!
SUPPORT. Tests: that ill-formed commands are refused by WellFormed, and that the hypotheses of the statements in
Certificates/Slice0/Obligations.lean are met, clause by clause, by small concrete states. The expected values are the spec's.
-/

-- One theorem at a time: checked side by side, their stacks together exceed the memory limit of the check.
set_option Elab.async false

namespace Sys2Proof.Tests
open Sys2Proof Sys2Proof.Machine

/-! ### States and packets -/

/-- A 64-byte packet with the given first parameter words. -/
def pk (ws : List Nat) : Packet := { hdr := 0, params := (List.range 12).map (fun n => w32 (ws.getD n 0)) }

/-- A 128-byte packet with the given first parameter words. -/
def pkBig (ws : List Nat) : Packet := { hdr := 2 ^ 24, params := (List.range 28).map (fun n => w32 (ws.getD n 0)) }

/-- An enabled queue. -/
def openQueue (n : Nat) : Queue := { freshQueue n with enable := true, stop := .none }

/-- Partition 0, with four chunks of quota and shares of every class. -/
def part0 : Partition := { chunkMap := [512, 513, 514, 515], plotShare := 32, sowerShare := 32, bedShare := 32, slot := 16 }

/-- A part in service: every island in RUN, the views VALID, partition 0 with its queue 0 enabled, CPQ_0 enabled, at fabric time
100 s. -/
def up : State :=
  { isl := { tab := (List.range 181).map (fun n => (n, { state := .run })) }
    kelri := { pf := { valid := true }, vf := [(0, { valid := true })] }
    q := { queues := [(0, openQueue 0), (1024, openQueue 1024)] }
    hif := { configReady := true, linkUp := true, vfEnable := true, numVfs := 2 }
    part := { parts := [(0, part0)] }
    time := { t40 := 10 ^ 11 * 2 ^ 40, synthLocked := true }
    mgmt := { firmware := true }
    power := { pwrgdMain := true, auxRst := false, perst := false, mainHeld := false, auxBooted := true, lasersOff := false } }

/-- Queue 0 of partition 0. -/
def q00 : Source := .part 0 0

/-- Control-plane queue CPQ_0. -/
def cp0 : Source := .cp 0

/-- `r` is a value, and `k` holds of it and of the state after it. -/
def okThen {E A S : Type} (r : Except E A × S) (k : A → S → Bool) : Bool :=
  match r with
  | (.ok a, s) => k a s
  | (.error _, _) => false

/-- What `okThen` says: the hypotheses of the form `r = (.ok a, s)` are met. -/
theorem okThen_iff {E A S : Type} {r : Except E A × S} {k : A → S → Bool} :
    okThen r k = true ↔ ∃ a s, r = (.ok a, s) ∧ k a s = true := by
  match r with
  | (.ok a, s) => exact Iff.intro (fun h => Exists.intro a (Exists.intro s (And.intro rfl h))) (fun h => by
      obtain ⟨_, _, e, h⟩ := h
      cases e
      exact h)
  | (.error e, s) => exact Iff.intro (fun h => by cases h) (fun h => by
      obtain ⟨_, _, e, _⟩ := h
      cases e)

/-- The state a command leaves. -/
def after (c : Instr) (s : State) : State :=
  match exec c s with
  | .next t => t
  | _ => s

/-- How the newest command in flight has ended, if it has. -/
def ended (c : Instr) (s : State) : Option (Status × List W32) :=
  match (after c s).q.cmds.getLast? with
  | some x => (match x.phase with
    | .done _ st res _ => some (st, res)
    | _ => none)
  | none => none

/-- What the newest command in flight waits for at stage 5. -/
def working (c : Instr) (s : State) : Option Work :=
  match (after c s).q.cmds.getLast? with
  | some x => (match x.phase with
    | .executing w => some w
    | _ => none)
  | none => none

/-! ### WellFormed refuses what its checks exclude -/

theorem test_wf_refuses :
    Instr.wf (.nop q00 { hdr := 0, params := [] }) = false ∧ Instr.wf (.roundOpen q00 (pk [])) = true ∧
    Instr.wf (.roundOpen q00 { hdr := 2 ^ 24, params := (pk []).params }) = false ∧
    Instr.wf (.taskWait ⟨0, 0⟩ (List.replicate 9 (0, 0)) false []) = false ∧ Instr.wf (.taskWait ⟨0, 0⟩ [(4096, 0)] false []) = false ∧
    Instr.wf (.taskWait ⟨0, 0⟩ [(0, 2 ^ 64)] false []) = false ∧ Instr.wf (.taskRead ⟨0, 0⟩ 0 0 0) = false ∧
    Instr.wf (.taskWrite ⟨0, 0⟩ 0 0 4097) = false ∧ Instr.wf (.putSlot ⟨0, 0⟩ 0 0 []) = false ∧
    Instr.wf (.taskSignal ⟨0, 0⟩ 4096 .add 1) = false ∧ Instr.wf (.ownFence ⟨0, 0⟩ 4096) = false ∧
    Instr.wf (.dropFence ⟨0, 0⟩ 4096) = false ∧ Instr.wf (.fenceWindowWrite 0 4096 true 0) = false := by decide +kernel

/-- How a frame on port 0 came, the LSEQ being `n`. -/
def via0 (n : Nat) : Arrival := { port := 0, lseq := BitVec.ofNat 16 n }

/-- A ROUND packet from fabric ID `a` to fabric ID `b`, the first on port 0. -/
def inFrom (a b : Nat) : RoundIn := { via := via0 0, h := { type := .round, src := a, dst := b } }

/-- The Trellis `t` of partition `p`. -/
def tree (p t : Nat) : TreeId := { part := p, tid := t, crc := 0 }

/-- Each fabric ID and partition number that a message names, one past its range, and each row with another row's message. -/
theorem test_wf_refuses_fids :
    (let o := inFrom 2 1
     Instr.wf (.harvestResult o (.result (tree 64 0) 1 [] [])) = false ∧ Instr.wf (.harvestResult o (.result (tree 0 0) 1 [512] [])) = false ∧
     Instr.wf (.harvestResult o (.leave (tree 0 0) 1)) = false ∧ Instr.wf (.harvestResult (inFrom 512 1) (.result (tree 0 0) 1 [] [])) = false ∧
     Instr.wf (.revealBarrierStart o (.barrierStart (tree 0 0) 1 0 512)) = false ∧
     Instr.wf (.revealBarrierStart o (.barrierJoin (tree 0 0) 1 0 0 [512])) = false ∧
     Instr.wf (.mark (inFrom 2 512) (.mark 0 1 0 1)) = false ∧ Instr.wf (.mark o (.markAck 0 1 0 1)) = false ∧
     Instr.wf (.markAck o (.mark 0 1 0 1)) = false ∧ Instr.wf (.roundStateChange o (.leave (tree 0 0) 1)) = false ∧
     Instr.wf (.recordRouted o (.recordOutcome 0 1 0 0)) = false ∧ Instr.wf (.trellisChunk o (.leave (tree 0 0) 1) .clean) = false ∧
     Instr.wf (.trellisChunk o (.join (tree 0 0) 1 [512]) .clean) = false ∧ Instr.wf (.trellisAcknowledgement o (.leave (tree 0 0) 1)) = false ∧
     Instr.wf (.propose o (.propose (tree 0 0) 1 [512] [])) = false ∧ Instr.wf (.leave o (.mark 0 1 0 1)) = false ∧
     Instr.wf (.homeMap o (.leave (tree 0 0) 1)) = false ∧ Instr.wf (.roundKeyTransfer o (.leave (tree 0 0) 1)) = false ∧
     Instr.wf (.roundKeyTransfer o (.openKey 0 1 [] [] [512])) = false ∧ Instr.wf (.renewal o (.renewal 1 0 (some 512) false)) = false ∧
     Instr.wf (.takeoverRequest o (.takeover 512 1 false)) = false ∧ Instr.wf (.substitution o (.substitution 512 0 1)) = false ∧
     Instr.wf (.substitution o (.substitution 0 512 1)) = false ∧ Instr.wf (.grant o .refuse) = false ∧ Instr.wf (.refuse o (.grant 1)) = false ∧
     Instr.wf (.pairRequest o.via o.h (.pairRequest 512 0 false none)) = false ∧
     Instr.wf (.pairRequest o.via o.h (.pairRequest 0 512 false none)) = false ∧ Instr.wf (.heartbeat o.via o.h (.mirrorAck 0 1 0 0)) = false ∧
     Instr.wf (.mirrorAck o.via o.h (.heartbeat 0 1 false false 0)) = false ∧
     Instr.wf (.announce o.via 512 0 0 0 0) = false ∧ Instr.wf (.candidacy o.via 0 512 0) = false) ∧
    Instr.wf (.retransmitTimeout 512 0) = false ∧ Instr.wf (.retransmitGiveUp 512 0) = false ∧
    Instr.wf (.witnessFailover 512) = false ∧ Instr.wf (.witnessHoldEnd 512 0) = false ∧ Instr.wf (.witnessHoldEnd 0 512) = false ∧
    Instr.wf (.witnessLeaseExpiry 512 0) = false ∧ Instr.wf (.witnessLeaseExpiry 0 512) = false := by decide +kernel

/-- Each field of a fabric header, and each of a discovery record, past its range; a packet row with another type's header; and a host
completion whose tag is none of the 1,024 (R118). -/
theorem test_wf_refuses_headers :
    (let h : FabHeader := { type := .write, src := 0, dst := 0 }
     h.wf = true ∧ Instr.wf (.readReq (via0 0) h []) = false ∧
     ∀ x ∈ [{ h with src := 512 }, { h with dst := 512 }, { h with srcPart := 64 }, { h with window := 256 },
      { h with psn := 2 ^ 32 }, { h with expiry := 2 ^ 32 }, { h with op := 16 }, { h with retry := 8 }],
      let w (t : PktType) (c : FabHeader → Instr) : Prop := Instr.wf (c { x with type := t }) = false ∧ Instr.wf (c { h with type := t }) = true
      w .write (fun y => .write (via0 0) y []) ∧ w .readReq (fun y => .readReq (via0 0) y []) ∧ w .readResp (fun y => .readResp (via0 0) y []) ∧
      w .add (fun y => .add (via0 0) y []) ∧ w .signal (fun y => .signal (via0 0) y []) ∧ w .probe (fun y => .probe (via0 0) y []) ∧
      w .ack (fun y => .ack (via0 0) y []) ∧ w .nak (fun y => .nak (via0 0) y []) ∧
      w .round (fun y => .mirrorItem (via0 0) y 0 1 (.mark 0 1 0))) ∧
    (let d : DevRec := { udid := List.replicate 16 0, fidReq := none, fid := none, ports := [] }
     d.wf = true ∧ ∀ x ∈ [{ d with udid := [] }, { d with ports := [(16, [], 0)] }, { d with ports := [(0, [], 16)] }, { d with active := [16] }],
      Instr.wf (.discover (via0 0) { type := .discover, src := 0, dst := 0 } x) = false ∧
      Instr.wf (.linkState (via0 0) { type := .linkState, src := 0, dst := 0 } x) = false) ∧
    Instr.wf (.hostCompletion .pf 1024 .success []) = false ∧ Instr.wf (.hostReadTimeout .pf 1024) = false := by decide +kernel

/-! ### The whole block -/

theorem hyp_StepRunsFront : ({ up with pending := [.bypass, .idcode] } : State).pending = .bypass :: [.idcode] := rfl

theorem hyp_StepOnEmptyQueue :
    (State.reset.memOk ∧ State.reset.pending = [] ∧ State.reset.running .time = false) ∧
    (up.memOk ∧ up.pending = [] ∧ up.running .time = true ∧ up.time.slew = none) ∧
    (∀ c ∈ [({ remaining := slewMost, full := true } : Slew), { remaining := -slewMost, full := true }],
      let s : State := { up with time := { up.time with slew := some c } }
      s.memOk ∧ s.pending = [] ∧ s.running .time = true ∧ s.time.slew = some c ∧ c.full = true ∧ c.remaining.natAbs ≤ slewMost.toNat) := by
  decide +kernel

theorem hyp_MemoryCanonical : State.reset.memOk ∧ ∃ t, step State.reset = .next t := ⟨by decide +kernel, _, rfl⟩

/-- The range's last byte is the last of the partition's quota; one byte further is refused. -/
theorem hyp_PartitionWalls :
    okThen (up.claim q00 (4 * chunkBytes - 1) 1 true) (fun ps _ => inSegs (segments ps (4 * chunkBytes - 1) 1) (516 * chunkBytes - 1)) = true ∧
    okThen (up.claim q00 (4 * chunkBytes - 1) 2 true) (fun _ _ => true) = false ∧
    up.partition? 0 = some part0 ∧ (1 : Fin 64) ≠ 0 := by decide +kernel

/-- A range across a page boundary, its two pages apart. -/
theorem hyp_RangeReadBack :
    up.memOk ∧ (segments [(0, 7 * pageBytes), (1, 3 * pageBytes)] (pageBytes - 1) 2).Pairwise (fun x y => x.1 + x.2 ≤ y.1 ∨ y.1 + y.2 ≤ x.1) ∧
    segments [(0, 7 * pageBytes), (1, 3 * pageBytes)] (pageBytes - 1) 2 = [(8 * pageBytes - 1, 1), (3 * pageBytes, 1)] := by decide +kernel

/-- A round of partition 0 with one segment of two elements modulo 2^16. -/
def round0 : Round :=
  { part := 0, id := 7, state := .opened, policy := { deadline := 10 ^ 11 + 10 ^ 9, floor := 100, shares := 3, threshold := 2 }
    modulus := some .m16, segs := [{ len := 2 }], participants := [0] }

/-- The service state with one round in entry 0. -/
def upR (r : Round) : State := { up with rounds := { up.rounds with table := [(0, r)] } }

def addItem : StripItem := { seg := 0, rep := 0, strip := 0, sub := false, what := .residues 0 0 [65535] }
def subItem : StripItem := { seg := 0, rep := 0, strip := 0, sub := true, what := .decoded 1 [1] }

theorem hyp_ItemOrderFree :
    0 < Modulus.m16.value ∧
    (∀ x ∈ [addItem, subItem], (itemVals round0 .m16 x 2).1 + (itemVals round0 .m16 x 2).2.length ≤ 2 ∧ ∀ b ∈ (itemVals round0 .m16 x 2).2, b < Modulus.m16.value) ∧
    [addItem, subItem].Perm [subItem, addItem] ∧
    [addItem, subItem].foldl (applyItem round0 .m16) [2, 0] = [1, 65535] := by decide +kernel

theorem hyp_MaskCancels :
    let y : StripItem := { addItem with sub := true }
    0 < Modulus.m16.value ∧ (∀ b ∈ [65535, 0], b < Modulus.m16.value) ∧ addItem.what = y.what ∧ addItem.seg = y.seg ∧ addItem.strip = y.strip ∧
      addItem.sub = false ∧ y.sub = true ∧ ∀ b ∈ (itemVals round0 .m16 addItem 2).2, b < Modulus.m16.value := by decide +kernel

theorem hyp_SignalOrderFree :
    Tab.sorted up.q.fences = true ∧ up.mayWriteFence 5 none = true ∧ [(1 : W64), 2].Perm [2, 1] ∧
      (up.fence 5).toNat + ([(1 : W64), 2].map (fun x => x.toNat)).sum < 2 ^ 64 := by decide +kernel

/-- A sealed round takes RELEASE alone, an opened one no command past the opening. -/
theorem hyp_RoundTable :
    (let s := upR { round0 with state := .sealed }
     s.memOk ∧ s.shadowEntry 0 7 = none ∧ s.roundEntry 0 7 = some 0 ∧ (s.round? 0).isSome = true ∧
      s.ready specRoundLayout q00 (pk [7, 1, 0, 0, 0, 0]) = true ∧ s.ready specIngestBind q00 (pk [7, 0, 64, 0, 0, 0, 0, 0, 12]) = true ∧
      s.ready specPlacementRevise q00 (pk [7]) = true ∧ s.ready specSharesSubmit q00 (pk [7, 1]) = true ∧
      s.ready specRevealCombine q00 (pk [7]) = true ∧ s.ready specCodedDecode q00 (pk [7]) = true ∧ s.ready specUnmask q00 (pk [7]) = true ∧
      s.ready specSeal q00 (pk [7]) = true) ∧
    (let s := upR round0
     s.ready specRelease q00 (pk [7, 0, 1, 0, 0, 0, 0, 0, 0, 0]) = true ∧ s.roundEntry 0 7 = some 0 ∧
      s.freeGate = some 0 ∧ s.rounds.gateQueue = [] ∧ s.rounds.gateHeld = [] ∧
      s.segProbed 0 (gateOf q00 (s.nextCmd q00) 0 (pk [7, 0, 1]).word) = false ∧
      ended (.release q00 (pk [7, 0, 1, 0, 0, 0, 0, 0, 0, 0])) s = some (.notPermitted, [])) := by decide +kernel

theorem hyp_PartFault :
    (up.memOk ∧ up.partition? 0 = some part0 ∧ part0.fault = none ∧ up.flrActive 0 = false ∧ up.kelri.pf.valid = true) ∧
    (let r : Partition := { part0 with fault := some { addr := 1, agent := 0, cause := .quota }, faultOverflow := 63 }
     let s := up.setPartition 0 r
     s.partition? 0 = some r ∧ s.vfOpen 0 = true ∧ (1 : W32).getLsbD 0 = true) := by decide +kernel

/-! ### Queues and memory -/

theorem hyp_QueueBasics :
    up.memOk ∧ (∀ x ∈ [q00, cp0, .mgmt 3], up.ready specNop x (pk []) = true ∧ ended (.nop x (pk [])) up = some (.ok, []) ∧
      up.ready specDiagEcho x (pk [1, 2, 3, 4]) = true ∧ ended (.diagEcho x (pk [1, 2, 3, 4])) up = some (.ok, [1, 2, 3, 4])) ∧
    (∀ x ∈ [q00, cp0], up.ready specFenceWait x (pk [4095]) = true ∧ ended (.fenceWait x (pk [4095])) up = some (.ok, []) ∧
      up.ready specFenceWait x (pk [4095, 0, 1]) = true ∧ working (.fenceWait x (pk [4095, 0, 1])) up = some (.fenceWait (fenceKey (srcPart x) 4095) 1)) := by
  decide +kernel

/-- The last bytes of partition 0's quota. -/
def lastByte : Nat := 4 * chunkBytes - 1

theorem hyp_MemoryRows :
    up.memOk ∧
    (let p := pk [4, 0, lastByte - 3, 0, 0xAABBCCDD]
     up.ready specFill q00 p = true ∧ okThen ((up.atBody specFill q00 p).claim q00 (pair p.word 2) (pair p.word 0) true) (fun _ _ => true) = true ∧
      ended (.fill q00 p) up = some (.ok, []) ∧ memByte (after (.fill q00 p) up).part.mem (516 * chunkBytes - 4) = 0xDD) ∧
    (let p := pk [65536, 0, lastByte + 1 - 65536]
     up.ready specScrub q00 p = true ∧ okThen ((up.atBody specScrub q00 p).claim q00 (pair p.word 2) (pair p.word 0) true) (fun _ _ => true) = true) ∧
    (let p := pk [1, 0, lastByte, 0, 0, 0]
     up.ready specCopy q00 p = true ∧ okThen ((up.atBody specCopy q00 p).claim q00 (pair p.word 2) 1 true) (fun dp u1 =>
       okThen ((u1.holding q00 (up.nextCmd q00) dp).claim q00 (pair p.word 4) 1 false) (fun sp u2 =>
         okThen ((u2.holding q00 (up.nextCmd q00) sp).readRange (srcPartByte q00) sp (pair p.word 4) 1) (fun d _ => d == [0]))) = true ∧
      ended (.copy q00 p) up = some (.ok, [])) := by decide +kernel

theorem hyp_HostMoves :
    up.memOk ∧
    (let p := pk [1, 0, lastByte, 0, 0x1000]
     up.ready specHostPull q00 p = true ∧ okThen ((up.atBody specHostPull q00 p).claim q00 (pair p.word 2) (pair p.word 0) true) (fun _ _ => true) = true ∧
      (working (.hostPull q00 p) up).isSome = true ∧
      up.ready specHostPush q00 p = true ∧ okThen ((up.atBody specHostPush q00 p).claim q00 (pair p.word 2) (pair p.word 0) false) (fun ps u =>
        okThen ((u.holding q00 (up.nextCmd q00) ps).readRange (srcPartByte q00) ps (pair p.word 2) (pair p.word 0)) (fun d _ => d == [0])) = true ∧
      ended (.hostPush q00 p) up = some (.ok, []) ∧ (after (.hostPush q00 p) up).hif.out = [.write (.vf 0) 0x1000 [0] true]) := by decide +kernel

/-- A device with a neighbour: fabric ID 0 here, 1 there, one live local link between their ports 0. -/
def peerUdid : Bytes := if udid = List.replicate 16 0 then List.replicate 16 1 else List.replicate 16 0

theorem peerUdid_ne : peerUdid ≠ udid := by
  unfold peerUdid
  split
  · rename_i h
    rw [h]
    decide
  · rename_i h
    exact fun e => h e.symm

def peerRec : DevRec := { udid := peerUdid, fidReq := some 1, fid := some 1, ports := [(0, udid, 0)], active := [0] }

def fabPorts : Tab Port := [(0, { state := .active, peerUdid := some peerUdid, peerPort := some 0 })]

/-- The service state with a neighbour. -/
def upFab : State :=
  { up with
    time := { up.time with qualified := true, state := .locked }
    spetar := { fid := some 0, fidReq := some 0, map := [peerRec], ports := fabPorts } }

theorem ownRec_fab {s : State} (hp : s.spetar.ports = fabPorts) (hf : s.spetar.fid = some 0) (hr : s.spetar.fidReq = some 0) :
    s.ownRec = { udid := udid, fidReq := some 0, fid := some 0, ports := [(0, peerUdid, 0)], active := [0] } := by
  unfold State.ownRec State.portActive State.port
  rw [hp, hf, hr]
  rfl

/-- What a route depends on is what `upFab` holds. -/
theorem route_fab {s : State} (hp : s.spetar.ports = fabPorts) (hf : s.spetar.fid = some 0) (hr : s.spetar.fidReq = some 0)
    (hm : s.spetar.map = [peerRec]) : s.routeTo 1 0 = some { port := 0, via := none, hops := 1 } := by
  have n2 : (udid == peerUdid) = false := beq_eq_false_iff_ne.mpr peerUdid_ne.symm
  have n3 : (peerUdid != udid) = true := bne_iff_ne.mpr peerUdid_ne
  unfold State.routeTo State.topology
  rw [ownRec_fab hp hf hr, hf, hm]
  simp only [List.filter, peerRec, n3]
  unfold firstRoute minimalRoutes localRoutes directPorts liveLinks
  simp [members, devByFid, devByUdid, n2, groupOf, insertNat, miscabledLink, isLocalPort, fewest]

theorem canSend_fab {s : State} (hp : s.spetar.ports = fabPorts) (hf : s.spetar.fid = some 0) (hr : s.spetar.fidReq = some 0)
    (hm : s.spetar.map = [peerRec]) (hq : s.time.qualified = true) : s.canSend 1 = true := by
  unfold State.canSend
  rw [route_fab hp hf hr hm, hq]
  rfl

/-- A window of partition 0 of this device, open to itself. -/
def selfWindow : Window := { peer := 0, peerPart := 0, read := true, write := true, add := true, signal := true, bytes := 65536, pages := [(0, 512 * chunkBytes)] }

theorem hyp_SignalRows :
    (let s : State := { up with q := { up.q with queues := [(0, openQueue 0), (1, { openQueue 1 with tailSource := true, tailFenceNo := 4095, cmdLog2 := 12 }),
        (2, openQueue 2), (3, { freshQueue 3 with tailSource := true })] } }
     let p := pk [4095, 0, 2]
     s.memOk ∧ s.ready specFenceSignal q00 p = true ∧ s.mayWriteFence 4095 (srcAgent q00) = true ∧ fenceAfter (s.fence 4095) .add 2 = some 2 ∧
      ended (.fenceSignal q00 p) s = some (.ok, []) ∧ ((after (.fenceSignal q00 p) s).queue (.part 0 1)).tail = 2 ∧
      ({ openQueue 1 with cmdLog2 := 6 }.offer (fenceTail 2 0)).stop = .doorbellOverrun) ∧
    (let s : State := { upFab with spetar := { upFab.spetar with windows := [(255, selfWindow)] } }
     let p := pk [255 * 2 ^ 12 + 4095, 0, 2]
     s.memOk ∧ s.ready specSignalRemote q00 p = true ∧ s.spetar.fid = some (bits (p.word 0) 28 20) ∧
      ((s.atBody specSignalRemote q00 p).windowSignal (bits (p.word 0) 28 20) 0 (s.isCold 0) 255 4095 .add 2).1 = .ok ∧
      ended (.signalRemote q00 p) s = some (.ok, [])) ∧
    (let p := pk [2 ^ 20 + 2 ^ 29, 0, 2]
     upFab.memOk ∧ upFab.ready specSignalRemote q00 p = true ∧ bits (p.word 0) 28 20 = 1 ∧ upFab.spetar.fid ≠ some 1) ∧
    (let p := pk [1, 0, 64]
     up.ready specRingJump q00 p = true ∧ ended (.ringJump q00 p) up = some (.ok, []) ∧ up.ready specBarrier q00 (pk [0xFFFF]) = true ∧
      ended (.barrier q00 (pk [0xFFFF])) up = some (.ok, [])) ∧
    (let p := pk [1, 0, 0, 0]
     up.ready specRingJump cp0 p = true ∧ okThen ((up.atBody specRingJump cp0 p).claim cp0 (pair p.word 2) (64 * p.word 0) false) (fun _ _ => true) = true ∧
      ended (.ringJump cp0 p) up = some (.ok, [])) ∧
    (let p := pk [1, 0, 0, 64]
     up.ready specRingJump cp0 p = true ∧
      (match ((up.atBody specRingJump cp0 p).claim cp0 (pair p.word 2) (64 * p.word 0) false).1 with
       | .error st => st == .range
       | .ok _ => false) = true) ∧
    (let s : State := { up with q := { up.q with cmds := [{ src := .part 0 15, id := 0, pkt := pk [] }] } }
     s.memOk ∧ s.ready specBarrier q00 (pk [0x8000]) = true ∧ (working (.barrier q00 (pk [0x8000])) s).isSome = true) := by
  decide +kernel

theorem hyp_SignalRows_canSend : upFab.canSend 1 = true := canSend_fab rfl rfl rfl rfl rfl

/-! ### Resident tasks -/

/-- The service state with eight units for partition 0. -/
def upUnits : State := { up with plot := { up.plot with units := (List.range 8).map (fun n => (n, 0)) } }

theorem hyp_ResidentRows :
    (let p := pk [7, 4, lastByte + 1 - 64, 0, 0xFFFF]
     upUnits.memOk ∧ upUnits.ready specResidentStart q00 p = true ∧ taskRunning (upUnits.taskOf ⟨0, 7⟩) = false ∧ (upUnits.taskUnitsFor 0).length = 4 ∧
      okThen ((upUnits.atBody specResidentStart q00 p).claim q00 (pair p.word 2) (p.word 1) false) (fun ps u =>
        okThen ((u.holding q00 (upUnits.nextCmd q00) ps).readRange 0 ps (pair p.word 2) (p.word 1)) (fun d _ => d == [0, 0, 0, 0])) = true) ∧
    (let run (k : Nat) : State := { up with q := { up.q with tasks := [(7, { state := .running, inbox := List.replicate k [0] })] } }
     let p := pk [7 + 11 * 256, 1, 2]
     (∀ k ∈ [0, 63], (run k).memOk ∧ (run k).ready specResidentPost q00 p = true ∧ taskRunning ((run k).taskOf ⟨0, 7⟩) = true ∧
       ended (.residentPost q00 p) (run k) = some (.ok, [])) ∧
     (let s : State := { up with q := { up.q with tasks := [(7, { state := .waiting, wait := { fences := [], inbox := true, records := [] }, inbox := List.replicate 63 [0] })] } }
      s.memOk ∧ s.ready specResidentPost q00 p = true ∧ taskRunning (s.taskOf ⟨0, 7⟩) = true ∧
       ((s.taskOf ⟨0, 7⟩).state = .waiting ∧ (s.taskOf ⟨0, 7⟩).wait.inbox = true) ∧ (s.taskOf ⟨0, 7⟩).inbox.length < 64) ∧
     (run 64).ready specResidentPost q00 p = true ∧ (working (.residentPost q00 p) (run 64)).isSome = true ∧
     (run 0).ready specResidentStop q00 (pk [7]) = true ∧ ended (.residentStop q00 (pk [7])) (run 0) = some (.ok, [])) := by
  decide +kernel

/-- Partition 0 with a running task in slot 7 that serves queue 15. -/
def upTask (r : Task) : State :=
  { up with q := { up.q with
      tasks := [(7, { r with state := .running, served := 0x8000 })]
      queues := [(15, { openQueue 15 with tailSource := true, cmdLog2 := 6, cqLog2 := 5, cqTail := 1 })] } }

/-- What `State.stepGoes` says, as a test. -/
def goes (s : State) (t : TaskId) (p : TaskStep) : Bool :=
  (s.taskOf t).state == .running && (s.taskOf t).step.isNone && (s.taskOf t).fetching.isNone &&
    (s.withStep t p).slotChoice (t.slot.val % 4) == some (.task t, 2)

theorem goes_iff {s : State} {t : TaskId} {p : TaskStep} : goes s t p = true ↔ s.stepGoes t p := by
  simp [goes, State.stepGoes, and_assoc, Option.isNone_iff_eq_none]

/-- The task of `upTask`. -/
def task7 : TaskId := ⟨0, 7⟩

theorem hyp_TaskPrimitives :
    let s := upTask {}
    s.memOk ∧ goes s task7 (.wait (List.replicate 8 (4095, 1)) true [15]) = true ∧ goes s task7 (.wait [(4095, 0)] false []) = true ∧
    (∀ f ∈ List.replicate 8 ((4095, 1) : Nat × Nat), f.1 < 4096) ∧ (∀ q ∈ [15], servedBy (s.taskOf task7) q = true) ∧
    waitHolds s task7 (List.replicate 8 (4095, 1)) true = false ∧ waitHolds s task7 [(4095, 0)] false = true ∧
    ((after (.taskWait task7 (List.replicate 8 (4095, 1)) true [15]) s).taskOf task7).state = .waiting ∧
    (let p : TaskStep := .read lastByte (taskMemBytes - 1) 1
     goes s task7 p = true ∧ moveForm lastByte (taskMemBytes - 1) 1 = true ∧
      okThen ((s.atStep task7 p).translate 0 (taskAgent task7) lastByte 1 false) (fun ps u =>
        okThen (u.readRange 0 ps lastByte 1) (fun d _ => d == [0])) = true) ∧
    (let p : TaskStep := .write lastByte (taskMemBytes - 1) 1
     goes s task7 p = true ∧ okThen ((s.atStep task7 p).translate 0 (taskAgent task7) lastByte 1 true) (fun _ _ => true) = true) ∧
    (let p : TaskStep := .putSlot 15 0 []
     let k := s.queue (.part 0 15)
     goes s task7 p = true ∧ k.tailSource = true ∧ k.cmdLoc = .device ∧ (0 + 2 ^ 32 - k.head.toNat) % 2 ^ 32 < slotsOf k.cmdLog2 ∧
      okThen ((s.atStep task7 p).translate 0 (taskAgent task7) (k.cmdBase.toNat + 64 * (0 % slotsOf k.cmdLog2)) 64 true) (fun _ _ => true) = true) := by
  decide +kernel

theorem hyp_TaskPrimitives_fences :
    let s := upTask {}
    goes s task7 (.signal 4095 .add 1) = true ∧ (s.taskOf task7).lost.contains 4095 = false ∧ s.mayWriteFence 4095 (some (.task task7)) = true ∧
    fenceAfter (s.fence 4095) .add 1 = some 1 ∧ (after (.taskSignal task7 4095 .add 1) s).fence 4095 = 1 ∧
    goes s task7 (.ownFence 4095) = true ∧ s.fenceOwner 4095 = none ∧ s.fencesHeld task7 = 0 ∧
    (after (.ownFence task7 4095) s).fenceOwner 4095 = some (.task task7) ∧
    (let u := after (.ownFence task7 4095) s
     u.memOk ∧ goes u task7 (.dropFence 4095) = true ∧ (u.taskOf task7).lost.contains 4095 = false ∧
      (after (.dropFence task7 4095) u).fenceOwner 4095 = none) := by
  decide +kernel

/-- `upTask` with its queue's completion ring in host memory. -/
def upTaskHost : State :=
  (upTask {}).setQueue (.part 0 15) { openQueue 15 with tailSource := true, cmdLog2 := 6, cqLog2 := 5, cqTail := 1, cqLoc := .host }

/-- `upTask` with an empty completion ring. -/
def upTaskEmpty : State :=
  (upTask {}).setQueue (.part 0 15) { openQueue 15 with tailSource := true, cmdLog2 := 6, cqLog2 := 5 }

/-- The completion ring in device memory, in host memory, and empty. -/
theorem hyp_TaskPrimitives_records :
    (let s := upTask {}
     let p : TaskStep := .takeRecord 15
     let k := s.queue (.part 0 15)
     goes s task7 p = true ∧ servedBy (s.taskOf task7) 15 = true ∧ k.cqHead ≠ k.cqTail ∧ k.cqLoc = .device ∧
      okThen ((s.atStep task7 p).recordAtHead task7 15) (fun d _ => d.length == 32) = true) ∧
    (let s := upTaskHost
     let k := s.queue (.part 0 15)
     s.memOk ∧ goes s task7 (.takeRecord 15) = true ∧ servedBy (s.taskOf task7) 15 = true ∧ k.cqHead ≠ k.cqTail ∧ k.cqLoc = .host ∧
      s.readRoom (.vf 0) ≠ 0) ∧
    (let s := upTaskEmpty
     s.memOk ∧ goes s task7 (.takeRecord 15) = true ∧ servedBy (s.taskOf task7) 15 = true ∧
      (s.queue (.part 0 15)).cqHead = (s.queue (.part 0 15)).cqTail) ∧
    (let s := upTask {}
     goes s task7 .takeMessage = true ∧ (s.taskOf task7).inbox = []) ∧
    (let s := upTask { inbox := [[1], [2]] }
     s.memOk ∧ goes s task7 .takeMessage = true ∧ (s.taskOf task7).inbox = [1] :: [[2]] ∧ s.waitingPost task7 = none ∧
      (after (.takeMessage task7) s).taskOf task7 = { s.taskOf task7 with inbox := [[2]], taken := [1, 0, 0, 0] }) := by decide +kernel

/-- A control-plane command takes the slot first; later the step has it; a task that sleeps has no step. -/
theorem hyp_TaskPrimitives_slots :
    (let s0 := upTask {}
     let s : State := { s0 with q := { s0.q with cmds := [{ src := .cp 3, id := 0, pkt := pk [], phase := .ready }] } }
     s.memOk ∧ (s.taskOf task7).state = .running ∧ (s.taskOf task7).step = none ∧ (s.taskOf task7).fetching = none ∧
      (match (s.withStep task7 .takeMessage).slotChoice 3 with
       | some (.task _, _) => false
       | _ => true) = true) ∧
    (let s := upTask {}
     s.running .fe = true ∧ goes s task7 .takeMessage = true ∧ (task7.slot.val % 4 = 0 → s.readyAux = none)) ∧
    ((up.taskOf task7).state ≠ .running ∧ up.memOk) := by decide +kernel

/-! ### The command sequencers -/

/-- The service state with some commands in flight. -/
def upCmds (cs : List Cmd) : State := { up with q := { up.q with cmds := cs } }

/-- A command of queue 0 of partition 0 at a stage. -/
def cmdAt (p : Packet) (ph : Phase) : Cmd := { src := q00, id := 0, pkt := p, phase := ph }

theorem hyp_SequencerEvents_fetch :
    (let s : State := { up with q := { up.q with queues := [(0, { openQueue 0 with cmdLog2 := 12, tail := 1 })] } }
     let a := lastByte + 1 - 64
     let s : State := { s with q := { s.q with queues := [(0, { openQueue 0 with cmdLog2 := 6, cmdBase := BitVec.ofNat 64 a, tail := 1 })] } }
     s.memOk ∧ s.fetchable q00 = true ∧ s.jumpPending q00 = false ∧ s.running .fe = true ∧ (s.queue q00).cmdLoc = .device ∧
      (s.queue q00).jump = none ∧ (s.queue q00).offered = [a] ∧ (s.queue q00).last.any (fun l => l.chain) = false ∧
      s.cmd? q00 (s.queue q00).nextId = none ∧
      okThen (s.readSlot q00 a) (fun b _ => !isBig b && match rowOf (packetOf b).header.op.toNat with
        | some (sp, _) => (stage1Of sp q00 (packetOf b) false).isNone
        | none => false) = true) ∧
    (let s : State := { up with q := { up.q with queues := [(0, { openQueue 0 with cmdLog2 := 6, cmdLoc := .host, tail := 1 })] } }
     s.memOk ∧ s.fetchable q00 = true ∧ s.jumpPending q00 = false ∧ s.running .fe = true ∧ (s.queue q00).cmdLoc = .host ∧
      (s.queue q00).jump = none ∧ (s.queue q00).offered = [0] ∧ (s.queue q00).fetching = none ∧
      s.readRoom (srcFn q00) ≠ 0) := by decide +kernel

theorem hyp_SequencerEvents_course :
    (let c := cmdAt (pk []) .waiting
     let s := upCmds [c]
     s.memOk ∧ s.cmd? q00 0 = some c ∧ c.phase = .waiting ∧ s.waitKind c = none) ∧
    (let c := cmdAt ((pk [5, 0, 0]).withOp 1) (.executing (.fenceWait 5 0))
     let s := upCmds [c]
     s.memOk ∧ s.cmd? q00 0 = some c ∧ 0 ≤ (s.fence 5).toNat ∧ c.mirrored = none ∧ c.pkt.header.signal = false ∧
      (∀ d ∈ s.q.cmds, d.src = q00 → d.chain ≠ .after 0) ∧ s.graft.waits = []) ∧
    (let c := cmdAt (pk []) .ready
     let s := upCmds [c]
     s.memOk ∧ s.running .fe = true ∧ s.readyAux = none ∧ s.mainInReset = false ∧ s.graft.waits = [] ∧ s.slotChoice 0 = some (.cmd c, 2) ∧
      s.cmd? c.src c.id = some c ∧ s.mapBad c.src = none ∧ c.pkt.header.op = 0x0000 ∧ c.pkt.header.plain = true ∧ c.mirrored = none ∧
      (∀ d ∈ s.q.cmds, d.src = c.src → d.chain ≠ .after c.id)) ∧
    (let c := cmdAt (pk []) (.done 0 .ok [] 5)
     let s0 := upCmds [c]
     let s : State := { s0 with q := { s0.q with queues := [(0, { openQueue 0 with cqLoc := .host, cqLog2 := 5 })] } }
     up.running .fe = true ∧ up.readyAux = none ∧ up.slotChoice 0 = none ∧
     s.memOk ∧ s.cmd? q00 0 = some c ∧ (s.nextDone q00).any (fun d => d.id == 0) = true ∧ c.readable = true ∧ c.pkt.header.op.toNat / 256 ≠ 2 ∧
      c.pkt.header.signal = false ∧ c.pkt.header.interrupt = false ∧ s.hif.recovering = false ∧ (s.queue q00).cqLoc = .host ∧
      (s.queue q00).cqFull = false ∧ (s.queue q00).stop = .none ∧ (s.queue q00).draining = false ∧ (after (.commandCompletion q00 0) s).q.cmds = []) := by
  decide +kernel

/-- CTRL with ring sizes of 2^12, both rings in device memory, and the lowest vector of a tenant's queue. -/
def ctrlTenant : W32 := 0x010C0C00

theorem hyp_QueueAndPartitionRegisters_queue :
    up.memOk ∧ up.vfOpen 0 = true ∧ up.nextDone q00 = none ∧
    (let s : State := { up with q := { up.q with queues := [] } }
     s.queueOpen (.part 0 0) = true ∧ s.queueOpen (.cp 0) = true ∧ s.memOk ∧ (s.queue q00).settable = true ∧ (s.queue cp0).settable = true ∧
      ctrlForm (.part 0 0) true (ctrlTenant ||| 1).toNat = true ∧ ctrlForm (.cp 0) true (0x100C0C00 ||| 1 : W32).toNat = true ∧
      ((s.queue q00).ctrl (ctrlTenant ||| 1).toNat).tailSource = false ∧ ((s.queue q00).ctrl (ctrlTenant ||| 1).toNat).ownEn = false) ∧
    (let s := upCmds [cmdAt (pk []) .waiting]
     s.memOk ∧ s.queueOpen (.part 0 0) = true ∧ (s.queue q00).enable = true ∧ ctrlForm (.part 0 0) false (0x01000000 &&& ~~~1 : W32).toNat = true ∧
      s.nextDone q00 = none ∧ s.cmdsOf q00 ≠ []) ∧
    (let s : State := { up with q := { up.q with queues := [(0, { openQueue 0 with stop := .doorbellOverrun })] } }
     s.memOk ∧ s.queueOpen (.part 0 0) = true ∧ (s.queue q00).enable = true ∧ (s.queue q00).stop = .doorbellOverrun ∧ s.cmdsOf q00 = [] ∧
      (0x01000001 : W32).getLsbD 0 = true ∧ ctrlForm (.part 0 0) false (0x01000001 ||| 16 : W32).toNat = true) ∧
    (0 : W32).getLsbD 0 = false ∧
    (let count (s : State) := ((List.range 16).filter (fun k =>
        let r := s.queue (.part 0 (Fin.ofNat 16 k))
        r.classNext.getD r.realtime)).length
     let rt (n : Nat) : State := { up with q := { up.q with queues := (List.range n).map (fun k => (k, { openQueue k with realtime := true })) } }
     (∀ n ∈ [3, 4], (rt n).memOk ∧ (rt n).barAnswers .pf = true ∧ (rt n).pfReaches .fe = true ∧ (1 : W32).getLsbD 0 = true ∧
       ((rt n).queue (.part 0 15)).classNext.getD ((rt n).queue (.part 0 15)).realtime = false) ∧ count (rt 3) = 3 ∧ count (rt 4) = 4) ∧
    up.mayWriteFence 4095 none = true ∧
    (let s : State := { up with q := { up.q with leases := [(leaseKey 4 4095, { owner := some 0, holder := .agent (.task ⟨0, 0⟩) 1 })] } }
     s.memOk ∧ s.vfOpen 0 = true ∧ s.mayWriteFence 4095 none = false) := by decide +kernel

theorem hyp_QueueAndPartitionRegisters_partition :
    up.memOk ∧ up.vfOpen 0 = true ∧ up.partition? 0 = some part0 ∧ (1 : W32).getLsbD 0 = true ∧
    (let r := { part0 with states := [(3, .releasing)] }
     let s := up.setPartition 0 r
     s.memOk ∧ s.partition? 0 = some r ∧ 3 < r.quota ∧ r.chunkState 3 = .releasing ∧ s.chunkHeld 515 = false ∧ s.scrubFails 515 = false) := by
  decide +kernel

/-! ### The Drinoner port -/

/-- The service state with its port's unit changed. -/
def upMgmt (f : Mgmt → Mgmt) : State := { up with mgmt := f up.mgmt }

theorem hyp_JtagAndBus :
    State.reset.memOk ∧ State.reset.power.perst = true ∧ up.power.perst = false ∧ up.memOk ∧ up.mgmt.firmware = true ∧ up.mgmt.i3c = false ∧
    (0x40 : Byte).toNat = up.mgmt.staticAddr ∧
    (let s := upMgmt (fun m => { m with i3c := true })
     s.memOk ∧ s.mgmt.firmware = true ∧ s.mgmt.i3c = true) ∧
    (let s := upMgmt (fun m => { m with alert := 0x80 })
     s.memOk ∧ s.mgmt.firmware = true ∧ s.mgmt.i3c = false ∧ s.mgmt.alert &&& s.mgmt.alertEn ≠ 0) := by decide +kernel

theorem hyp_PortRequests :
    up.memOk ∧ up.mgmt.firmware = true ∧ (∀ op ∈ [(0 : Byte), 1], op.toNat < 2) ∧ (1 : Byte) ≠ 0 ∧ (1 : Byte) ≠ 0xFF ∧ (0xFE : Byte) ≠ 0xFF ∧
    (let s := upMgmt (fun m => { m with sensors := [(1, 25), (9, 3)] })
     s.memOk ∧ s.mgmt.firmware = true ∧ (∀ n ∈ [1, 9], s.sensorUp n = true ∧ (Tab.find? s.mgmt.sensors n).isSome = true) ∧
      ∀ n ∈ [10, 13], s.sensorUp n = true) ∧
    (let s : State := { up with kelri := {} }
     s.memOk ∧ s.mgmt.firmware = true ∧ s.kelri.pf.valid = false) := by decide +kernel

/-- A COMMAND message's bytes: a NOP packet. -/
def nopBytes : Bytes := List.replicate 64 0

theorem hyp_VendorMessages :
    up.memOk ∧ up.mgmt.firmware = true ∧ packetFits [] = false ∧ packetFits nopBytes = true ∧ up.ticketAt 9 = none ∧ up.ticketFree.isSome = true ∧
    (let s := upMgmt (fun m => { m with tickets := [(0, ⟨9, .executing⟩), (3, ⟨8, .done [1] 0⟩)] })
     s.memOk ∧ s.mgmt.firmware = true ∧ s.ticketAt 9 = some (0, ⟨9, .executing⟩) ∧ s.ticketAt 8 = some (3, ⟨8, .done [1] 0⟩) ∧ 0 + 10 ^ 10 ≤ s.now) ∧
    (let s := upMgmt (fun m => { m with tickets := [(3, ⟨8, .done [1] (10 ^ 11 - 10 ^ 10 + 1)⟩)] })
     s.memOk ∧ s.ticketAt 8 = some (3, ⟨8, .done [1] (10 ^ 11 - 10 ^ 10 + 1)⟩) ∧ s.now < 10 ^ 11 - 10 ^ 10 + 1 + 10 ^ 10) ∧
    (let s := upMgmt (fun m => { m with tickets := (List.range 4).map (fun n => (n, ⟨BitVec.ofNat 8 n, .executing⟩)) })
     s.memOk ∧ s.mgmt.firmware = true ∧ s.ticketAt 9 = none ∧ s.ticketFree = none) ∧
    ([1, 0, 0, 0] : Bytes).length = 4 := by decide +kernel

theorem hyp_SensorsAndLimits :
    (let s := upMgmt (fun m => { m with sensors := [(1, 25), (9, 3)], eventReceiver := some 5 })
     s.memOk ∧ (∀ n ∈ [1, 9], s.sensorPowered n = true ∧ (Tab.find? s.mgmt.sensors n).isSome = true) ∧ crosses 1 25 26 = false ∧
      crosses 1 25 200 = true) ∧
    (∀ n ∈ [10, 11, 12, 13], up.sensorPowered n = true) ∧
    (let s := upMgmt (fun m => { m with sensors := (List.range 4).map (fun n => (n + 10, (up.stateSensor (n + 10) : Int))) })
     s.memOk ∧ ∀ n ∈ [10, 11, 12, 13], s.sensorPowered n = true ∧ Tab.get s.mgmt.sensors (sensorStart n : Int) n = (s.stateSensor n : Int)) ∧
    (let s := upMgmt (fun m => { m with sensors := (List.range 4).map (fun n => (n + 10, 99)) })
     s.memOk ∧ ∀ n ∈ [10, 11, 12, 13], s.sensorPowered n = true ∧ Tab.get s.mgmt.sensors (sensorStart n : Int) n ≠ (s.stateSensor n : Int)) ∧
    (let s (resends at_ : Nat) := upMgmt (fun m => { m with events := [⟨1, 200, resends, at_⟩] })
     (∀ r ∈ [0, 1, 2], (s r (10 ^ 11 - 10 ^ 8)).memOk ∧ firstEvent 1 (s r (10 ^ 11 - 10 ^ 8)).mgmt.events = some ⟨1, 200, r, 10 ^ 11 - 10 ^ 8⟩ ∧
       10 ^ 11 - 10 ^ 8 + 10 ^ 8 ≤ (s r 0).now) ∧ (s 0 0).now < 10 ^ 11 - 10 ^ 8 + 1 + 10 ^ 8) := by decide +kernel

theorem hyp_PortLimits :
    (let s := upMgmt (fun m => { m with i3c := true, reassembly := [⟨7, 3, List.replicate 960 0, 10 ^ 11 - 10 ^ 8⟩] })
     s.memOk ∧ s.mgmt.firmware = true ∧ s.mgmt.i3c = true ∧ (List.replicate 64 0 : Bytes).length ≤ 64 ∧
      s.mgmt.reassembly.find? (Reassembly.of 7 3) = some ⟨7, 3, List.replicate 960 0, 10 ^ 11 - 10 ^ 8⟩ ∧ 960 + 64 ≤ 1024 ∧
      leNat (([0x7F] : Bytes).take 1) ∉ [0, 1, 0x7E] ∧ 10 ^ 11 - 10 ^ 8 + 10 ^ 8 ≤ s.now) ∧
    (up.mgmt.i3c = false ∧ up.mgmt.firmware = true) ∧
    (let s := upMgmt (fun m => { m with ibiAt := some (10 ^ 11 - 10 ^ 8) })
     s.memOk ∧ 10 ^ 11 - 10 ^ 8 + 10 ^ 8 ≤ s.now) ∧
    (∀ k ∈ [2, 3], ∀ b ∈ [true, false], (let s := upMgmt (fun m => { m with i3c := b, responses := [(.nak, 0, k)] })
     s.memOk ∧ s.mgmt.responses = (.nak, 0, k) :: [] ∧ 0 + 10 ^ 8 ≤ s.now)) := by decide +kernel

/-- The service state with an update in state `u`. -/
def upUpdate (u : Update) : State := upMgmt (fun m => { m with update := u })

theorem hyp_FirmwareUpdate :
    (up.memOk ∧ up.mgmt.firmware = true ∧ up.mgmt.update.state = .idle) ∧
    (let s := upUpdate { state := .readyXfer, staged := [1] }
     s.memOk ∧ s.power.dir.sequence.toNat + 1 < 2 ^ 32 ∧ s.mgmt.firmware = true ∧ s.mgmt.update.state = .readyXfer ∧ s.mgmt.update.staged ≠ [] ∧
      ∀ k ∈ [0, 1], (let d : Bytes := [0x0A, 0, BitVec.ofNat 8 k, 0, 0, 0, 0, 0, 0, 1, 0, 0, 0]
        leNat (slice d 2 2) = k ∧ k < 2 ∧ s.offersImage (leNat (d.take 2)) k = true ∧ s.fwBusy k ≠ .stage)) ∧
    (let u := upUpdate { state := .readyXfer, staged := [1] }
     let s : State := { u with power := { u.power with
       dir0 := { valid := true, mgmtEntry := { standby := .staged } } } }
     s.memOk ∧ (s.power.image 1).standby = .staged) ∧
    (let s := upUpdate { state := .download, size := 3, data := [1] }
     s.memOk ∧ s.mgmt.firmware = true ∧ s.mgmt.update.state = .download ∧ s.mgmt.update.data.length + ([2] : Bytes).length < s.mgmt.update.size) ∧
    (let s (at_ : Nat) := upUpdate { state := .activate, lastRequest := at_ }
     (s 0).memOk ∧ (s 0).power.dir.sequence.toNat + 2 < 2 ^ 32 ∧ (s 0).mgmt.update.state ≠ .idle ∧ (s 0).now < 10 ^ 11 - 6 * 10 ^ 10 + 1 + 6 * 10 ^ 10 ∧
      10 ^ 11 - 6 * 10 ^ 10 + 6 * 10 ^ 10 ≤ (s 0).now) := by decide +kernel

/-! ### Time -/

/-- The service state with its TIME island changed. -/
def upTime (f : TimeUnit → TimeUnit) : State := { up with time := f up.time }

/-- 2^40 counter units a nanosecond. -/
def t40At (ns : Nat) : Nat := ns * 2 ^ 40

theorem hyp_TimeCommands :
    up.running .time = true ∧ (∀ x ∈ [cp0, .mgmt 0], up.memOk ∧ up.ready specTimeOutputs x (pk [7]) = true ∧ ended (.timeOutputs x (pk [7])) up = some (.ok, [])) ∧
    (∀ x ∈ [q00, cp0], ∀ ws ∈ [(0xFFFFFFFF, 0xFFFFFFFF), (0xFFFFFFFF, 0xFFFFFFFE), (10 ^ 11 % 2 ^ 32, 10 ^ 11 / 2 ^ 32), (10 ^ 11 % 2 ^ 32 + 1, 10 ^ 11 / 2 ^ 32)],
      up.ready specTimeAlarm x (pk [15, 4095, ws.1, ws.2]) = true ∧ ended (.timeAlarm x (pk [15, 4095, ws.1, ws.2])) up = some (.ok, [])) ∧
    pair (pk [0, 0, 0xFFFFFFFF, 0xFFFFFFFF]).word 2 = 2 ^ 64 - 1 ∧ up.now < pair (pk [0, 0, 10 ^ 11 % 2 ^ 32 + 1, 10 ^ 11 / 2 ^ 32]).word 2 ∧
    pair (pk [0, 0, 10 ^ 11 % 2 ^ 32, 10 ^ 11 / 2 ^ 32]).word 2 ≤ up.now ∧
    (∀ x ∈ [q00, cp0], up.mayWriteFence (fenceKey (srcPart x) 4095) (srcAgent x) = true ∧ fenceAfter (up.fence (fenceKey (srcPart x) 4095)) .add 1 = some 1) ∧
    (∀ d ∈ [0, 1000, 1001], (let p := pk [0, 0, (10 ^ 11 + d) % 2 ^ 32, (10 ^ 11 + d) / 2 ^ 32]
      up.ready specTimeSet cp0 p = true ∧ up.time.state ≠ .master ∧ ended (.timeSet cp0 p) up = some (.notPermitted, []) ∧
      (let s := upTime (fun t => { t with state := .master })
       s.memOk ∧ s.ready specTimeSet cp0 p = true ∧ s.running .time = true ∧ s.time.state = .master ∧ ended (.timeSet cp0 p) s = some (.ok, []) ∧
        ({ s with time := s.time.step (t40At d) } : State).dueAlarms = []))) := by decide +kernel

/-- The service state with the TIME island in state `st`. -/
def upIsl (d : Island) (st : IslandState) : State := up.setIsland d { up.island d with state := st }

theorem hyp_TimeCommands_held :
    (∀ st ∈ [IslandState.reset, .resetFailed], (let s := upIsl .time st
     s.memOk ∧ s.ready specTimeSet cp0 (pk []) = true ∧ s.ready specTimeAlarm q00 (pk []) = true ∧ s.ready specTimeOutputs cp0 (pk []) = true ∧
      (s.island .time).state = st)) ∧
    working (.timeOutputs cp0 (pk [])) (upIsl .time .reset) = some (.held .time) ∧
    ended (.timeOutputs cp0 (pk [])) (upIsl .time .resetFailed) = some (.targetReset, []) := by decide +kernel

theorem hyp_TimeSources_outputs :
    up.memOk ∧ up.running .time = true ∧
    (let a : Alarm := { fire := 10 ^ 11, fence := 4095, src := q00 }
     let s := upTime (fun t => { t with alarms := [(15, a), (16, { a with fire := 10 ^ 11 + 1 })] })
     s.memOk ∧ s.running .time = true ∧ Tab.find? s.time.alarms 15 = some a ∧ a.fire ≤ s.now ∧ s.mayWriteFence a.fence (srcAgent a.src) = true ∧
      fenceAfter (s.fence a.fence) .add 1 = some 1 ∧ (Tab.find? s.time.alarms 16).isSome = true ∧ s.now < 10 ^ 11 + 1 ∧ (after (.alarm 15) s).fence 4095 = 1) ∧
    (let s (l : Bool) (n : Nat) := upTime (fun t => { t with t40 := t40At (10 ^ 11 + n), synthLocked := l, lastPps := some 99 })
     (∀ n ∈ [0, 2], (s true n).memOk ∧ (s true n).running .time = true ∧ 100 = (s true n).time.tod / 10 ^ 9 ∧ (s true n).time.todOffsetNext = none ∧
       (s true n).time.synthLocked = true ∧ (s true n).time.enPps = true ∧ (s true n).time.tod % 10 ^ 9 ≤ 2 ∧ (s true n).time.lastPps = some (100 - 1) ∧
       (s true n).time.lastPpsAt + 100000 ≤ (s true n).now) ∧
     (s false 5).time.lastPps ≠ some 100 ∧ 100 = (s false 5).time.tod / 10 ^ 9 ∧ (s false 5).time.todOffsetNext = none) ∧
    (∀ n ∈ [500000000, 500000002],
     let s := upTime (fun t => { t with t40 := t40At (10 ^ 11 + n) })
     s.memOk ∧ 100 = s.time.tod / 10 ^ 9 ∧ s.running .time = true ∧ s.time.synthLocked = true ∧ s.time.enTod = true ∧ s.time.lastTod ≠ some 100 ∧
      500000000 ≤ s.time.tod % 10 ^ 9 ∧ s.time.tod % 10 ^ 9 ≤ 500000002) ∧
    (∀ n ∈ [0, 2], ∀ a ∈ [none, some (t40At (10 ^ 11 - 100) : Int)], (let s := upTime (fun t => { t with t40 := t40At (10 ^ 11 + n), last10mAt := a })
     s.memOk ∧ 1000000000 = s.time.tod / 100 ∧ s.time.synthLocked = true ∧ s.time.en10m = true ∧ s.time.last10m ≠ some 1000000000 ∧ s.time.tod % 100 ≤ 2 ∧
      ∀ x ∈ a, x + 100 * 2 ^ 40 ≤ s.time.edge40)) ∧
    (let s := upTime (fun t => { t with last10mAt := some (t40At (10 ^ 11 - 100) + 1) })
     s.memOk ∧ s.time.last10mAt = some (t40At (10 ^ 11 - 100) + 1) ∧ s.time.edge40 < (t40At (10 ^ 11 - 100) : Int) + 1 + 100 * 2 ^ 40) ∧
    (let s := upTime (fun t => { t with synthLocked := false })
     s.memOk ∧ s.running .time = true ∧ s.time.synthLocked = false) ∧ up.time.synthLocked = true := by decide +kernel

/-- The service state with an ACTIVE port 0 whose far end nothing is known of, and fabric ID 0. -/
def upHear : State :=
  { up with
    time := { up.time with qualified := true, state := .locked }
    spetar := { fid := some 0, fidReq := some 0, ports := [(0, { state := .active })] } }

/-- `upHear` with its TIME island changed. -/
def fabTime (f : TimeUnit → TimeUnit) : State := { upHear with time := f upHear.time }

theorem hyp_TimeSources_frames :
    upHear.memOk ∧ upHear.running .time = true ∧
    (∀ st ∈ [SyncState.master, .locked, .acquiring], (let s := fabTime (fun t => { t with state := st, parent := some 0 })
      s.memOk ∧ s.running .time = true ∧ (st ≠ .acquiring → st = .master ∨ st = .locked) ∧ s.time.parent = some (0 : Fin 16).val ∧ 0 ∈ s.livePorts ∧
        Tab.get s.time.nextExchange 0 0 ≤ s.now)) ∧
    (let s := fabTime (fun t => { t with state := .locked, parent := some 0 })
     (∀ b ∈ [true, false], s.takes { via0 0 with resent := b } (.time 0 (.sync 0 0)) = true) ∧
     offset2 0 2600 0 0 0 = 2600 ∧ offset2 2600 0 0 0 0 = -2600 ∧ offset2 0 2601 0 0 0 = 2601 ∧ offset2 0 200000 0 0 0 = 200000 ∧
      offset2 0 200001 0 0 0 = 200001 ∧ offset2 200001 0 0 0 0 = -200001 ∧ Tab.get s.time.asym 0 0 = 0 ∧ s.time.outlierRun + 1 < 3) := by decide +kernel

/-- A parent that is lost, silent, and one whose port was the device's last. -/
theorem hyp_TimeSources_parent :
    (let s := fabTime (fun t => { t with state := .locked, parent := some 1 })
     s.memOk ∧ s.time.parent = some 1 ∧ s.livePorts ≠ [] ∧ s.linkUp 1 = false) ∧
    (let s := fabTime (fun t => { t with state := .locked, parent := some 0, lastExchange := 10 ^ 11 - 10 ^ 6 })
     s.memOk ∧ s.time.parent = some 0 ∧ s.livePorts ≠ [] ∧ s.linkUp 0 = true ∧ s.time.lastExchange + 10 ^ 6 ≤ s.now) ∧
    (∀ st ∈ [PortState.settling, .calibrating],
     let u := upTime (fun t => { t with state := .locked, parent := some 0, lastExchange := 10 ^ 11 - 10 ^ 6 })
     let s : State := { u with spetar := { u.spetar with ports := [(0, { state := st })] } }
     s.memOk ∧ s.time.parent = some 0 ∧ s.time.state ≠ .holdover ∧ s.livePorts = [] ∧ (s.linkUp 0 = false ∨ s.time.lastExchange + 10 ^ 6 ≤ s.now)) := by decide +kernel

theorem hyp_TimeSources_election :
    (let s := fabTime (fun t => { t with state := .master })
     s.time.state = .master ∧ s.time.nextAnnounce ≤ s.now) ∧
    (let s := fabTime (fun t => { t with generation := 5 })
     s.takes (via0 0) (.time 0 (.announce 0 1 0 4 0)) = true ∧ s.takes (via0 0) (.time 0 (.announce 0 1 0 6 0)) = true ∧
     s.spetar.fid ≠ some 1 ∧ s.time.state ≠ .master ∧ s.time.generation.toNat < (6 : W16).toNat ∧ (4 : W16).toNat < s.time.generation.toNat) ∧
    (let s := fabTime (fun t => { t with state := .holdover })
     s.spetar.fid = some 0 ∧ s.time.state ≠ .master ∧ s.time.candidacyEnd = none ∧ s.livePorts ≠ [] ∧ s.time.masterValid = false) ∧
    (let s := fabTime (fun t => { t with state := .locked, masterValid := true, lastAnnounce := 10 ^ 11 - 3 * 10 ^ 6 })
     s.time.state ≠ .master ∧ s.time.lastAnnounce + 3 * 10 ^ 6 ≤ s.now) ∧
    (let s := fabTime (fun t => { t with masterValid := true, lastAnnounce := 10 ^ 11 })
     s.takes (via0 0) (.time 0 (.candidacy 0 0 1 0)) = true ∧ s.time.state ≠ .master ∧ s.spetar.fid ≠ some 1 ∧
      (∀ c ∈ s.time.heard, c.fid ≠ 1) ∧ s.time.masterValid = true ∧ s.time.lastAnnounce = s.now) ∧
    (let s := fabTime (fun t => { t with lastAnnounce := 10 ^ 11 - 1 })
     s.takes (via0 0) (.time 0 (.candidacy 0 0 1 0)) = true ∧ s.time.state ≠ .master ∧ s.time.heard = [] ∧ s.time.lastAnnounce ≠ s.now) ∧
    (let s := fabTime (fun t => { t with state := .holdover, candidacyEnd := some (10 ^ 11), heard := [⟨128, 0, 0⟩, ⟨129, 1, 0⟩] })
     s.memOk ∧ s.running .time = true ∧ s.time.state = .holdover ∧ s.time.candidacyEnd = some (10 ^ 11) ∧ 10 ^ 11 ≤ s.now ∧
      (bestCandidate s.time.heard).isSome = true) := by decide +kernel

/-- A candidacy closes on a device with a live port, and on one with none. -/
theorem hyp_TimeSources_close :
    (fabTime id).livePorts ≠ [] ∧
    (let s := upTime (fun t => { t with state := .holdover, candidacyEnd := some (10 ^ 11), heard := [⟨128, 0, 0⟩] })
     s.memOk ∧ s.running .time = true ∧ s.time.candidacyEnd = some (10 ^ 11) ∧ 10 ^ 11 ≤ s.now ∧ s.livePorts = []) := by decide +kernel

/-! ### Resets, boots and limits -/

/-- The service state with its power unit changed. -/
def upPower (f : Power → Power) : State := { up with power := f up.power }

theorem hyp_Resets :
    up.power.mainHeld = false ∧ up.power.perst = false ∧ up.mgmt.firmware = true ∧ up.powerState ≠ 2 ∧
    State.reset.memOk ∧ State.reset.power.mainHeld = true ∧ State.reset.power.pwrgdAux = true ∧
    (let s := upPower (fun p => { p with pwrgdMain := false })
     s.memOk ∧ s.mgmt.firmware = true ∧ s.powerState = 2) := by decide +kernel

/-- The main side held in reset, all else released. -/
def held (f : Power → Power) : State := upPower (fun p => f { p with mainHeld := true })

theorem hyp_BootsAndLimits_boots :
    (∀ s ∈ [held (fun p => { p with perst := true }), held (fun p => { p with pwrgdMain := false, lasersOff := true }), held (fun p => { p with dlDown := true }),
        { held id with mgmt := { up.mgmt with mainResetUntil := some (10 ^ 11) } }],
      s.memOk ∧ s.power.mainHeld = true ∧ s.power.pwrgdAux = true ∧ s.power.auxRst = false ∧ s.power.thermTrip = false) ∧
    (let s := held (fun p => { p with perst := true })
     s.power.pwrgdMain = true ∧ s.power.dlDown = false ∧ s.mgmt.mainResetUntil = none) ∧
    (let s := held (fun p => { p with pwrgdMain := false, lasersOff := true })
     s.power.perst = false ∧ s.power.dlDown = false ∧ s.mgmt.mainResetUntil = none) ∧
    (let s := held (fun p => { p with dlDown := true })
     s.power.pwrgdMain = true ∧ s.power.perst = false ∧ s.mgmt.mainResetUntil = none) ∧
    (let s : State := { held id with mgmt := { up.mgmt with mainResetUntil := some (10 ^ 11) } }
     s.power.pwrgdMain = true ∧ s.power.perst = false ∧ s.power.dlDown = false ∧ s.mgmt.mainResetUntil = some (10 ^ 11) ∧ 10 ^ 11 ≤ s.now) ∧
    (up.memOk ∧ up.power.mainHeld = false) ∧
    (State.reset.memOk ∧ State.reset.power.pwrgdAux = true ∧ State.reset.power.auxRst = true) ∧
    (let s := upMgmt (fun m => { m with firmware := false })
     s.memOk ∧ s.running .mgmt = true ∧ s.mgmt.firmware = false) ∧
    (let u := upPower (fun p => { p with booting := true, imageLoaded := [1] })
     let s : State := { u with kelri := {} }
     s.memOk ∧ s.power.booting = true ∧ s.power.auxBooted = true ∧ s.power.imageLoaded ≠ [] ∧ s.running .fe = true ∧ s.running .hif = true ∧
      s.kelri.pf.valid = false ∧ (after .kelriValid s).kelri.pf.valid = true) := by decide +kernel

theorem hyp_BootsAndLimits_limits :
    up.memOk ∧ up.power.mainHeld = false ∧
    (∀ n ∈ [0, 1, 2, 3], (let s := upPower (fun p => { p with op := n })
     let w (mv : Nat) := min s.power.opWanted (opOfMv mv)
     s.memOk ∧ (n ≠ 3 → s.power.op < w 660 ∧ w (opMinMv n) = s.power.op) ∧ (n ≠ 0 → w 549 < s.power.op))) ∧
    (549 < opMinMv up.power.op ∧ up.power.halved = false ∧ up.power.stopped = false) ∧
    thermalCrossed up.power.tj 92 = true ∧ (114 : Int) < 115 ∧ thermalCrossed up.power.tj 114 = true ∧
    (∀ u ∈ [(10 ^ 11 - 10 ^ 7 : Nat), 10 ^ 11 - 10 ^ 7 + 1], (let s := upPower (fun p => { p with underSince := some u })
     s.memOk ∧ 369 + 10 < s.power.cap ∧ s.power.underSince = some u)) ∧
    (up.power.cap < 381 ∧ 380 ≤ up.power.cap ∧ up.power.cap ≤ 370 + 10) := by decide +kernel

theorem hyp_HostLink :
    up.memOk ∧ up.hif.linkUp = true ∧ up.rounds.gate = [] ∧ up.hif.configReady = true ∧
    (∀ f ∈ [Fn.pf, .vf 1], vectorsOf f - 1 < vectorsOf f ∧ up.barAnswers f = true ∧ up.inFlr f = false ∧
      Tab.get up.hif.msixFnMask false (fnNum f) = false) ∧
    up.pfReaches .hif = true ∧ up.hif.recovering = false ∧ up.power.mainHeld = false ∧ (held id).power.mainHeld = true ∧ (held id).memOk ∧
    (let s : State := { up with hif := { up.hif with flr := [(1, 0)] } }
     s.memOk ∧ s.barAnswers (.vf 1) = true ∧ s.inFlr (.vf 1) = true) ∧
    (let s := upIsl .hif .reset
     s.memOk ∧ s.barAnswers (.vf 1) = true ∧ s.inFlr (.vf 1) = false ∧ s.pfReaches .hif = false) ∧
    up.aerMessage .receiver = none ∧
    (let s : State := { up with hif := { up.hif with errEnables := 15 } }
     s.memOk ∧ s.aerMessage .receiver = some .correctable ∧ s.hif.recovering = false) := by decide +kernel

/-! ### Islands -/

/-- The service state with island `d` in record `r`. -/
def upIsland (d : Island) (r : IslandRec) : State := up.setIsland d r

theorem hyp_IslandEvents :
    (∀ d ∈ [Island.plot 127, .fe, .hif, .time, .oe 3], (let s := upIsland d { releasedAt := some (10 ^ 11 - 10 ^ 6) }
      s.memOk ∧ (s.island d).rising = true ∧ (s.island d).releasedAt = some (10 ^ 11 - 10 ^ 6) ∧ 10 ^ 11 - 10 ^ 6 + 10 ^ 6 ≤ s.now ∧
        ((after (.islandRun d true) s).island d).state = .run ∧ ((after (.resetFailed d) s).island d).state = .resetFailed)) ∧
    (up.running (.plot 127) = true ∧ up.running .fe = true ∧ up.power.gateIdle ≠ 0 ∧ (up.plotOf 127).claimed = none ∧ (up.plotOf 127).alloc = none ∧
      (up.plotOf 127).idleSince + 1000 * up.power.gateIdle ≤ up.now) ∧
    (∀ d ∈ [Island.plot 127, .sow 31, .oe 3, .agr, .dig, .rng, .mgmt], isTarget d = true ∧ up.running d = true) ∧
    (∀ d ∈ [Island.memc 7, .fe, .fab, .hif, .time, .shed], isTarget d = false) ∧
    (let c := cmdAt ((pk [5, 0, 0]).withOp 1) (.executing (.fenceWait 5 1))
     let s := upCmds [c]
     s.cmd? q00 0 = some c ∧ c.mirrored = none ∧ c.pkt.header.signal = false ∧ s.graft.waits = []) ∧
    (let h : FabHeader := { type := .readResp, src := 1, dst := 0 }
     let s : State := { up with spetar := { up.spetar with ports := [(15, { queue := [.packet none { h with type := .write } [], .packet none h []] })] } }
     s.memOk ∧ (s.port 15).queue[0]? = some (.packet none { h with type := .write } []) ∧ (s.port 15).queue[1]? = some (.packet none h []) ∧
      poisonedReply (.packet none { h with type := .write } []) = none ∧ (poisonedReply (.packet none h [])).isSome = true ∧
      ∀ o ∈ (s.port 15).queue, s.carries (fun _ => true) o = false) ∧
    (2 : W16) ≠ (up.island .fe).epoch ∧ (2 : W16) ≠ (up.queue q00).epoch ∧
    (∀ f ∈ [Fn.pf, .vf 0], (up.viewOf f).valid = true ∧ (up.viewOf f).rebuildAt = none) ∧
    (let s : State := { up with kelri := { pf := { valid := true, rebuildAt := some 0 } } }
     s.memOk ∧ (s.viewOf .pf).rebuildAt = some 0) ∧
    (let s := upMgmt (fun m => { m with activateAt := some (10 ^ 11) })
     s.memOk ∧ s.mgmt.activateAt = some (10 ^ 11) ∧ 10 ^ 11 ≤ s.now ∧ s.running .mgmt = true ∧
      ∀ c ∈ s.q.cmds, heldFor .mgmt c = false ∧ handedTo .mgmt c = false ∧ c.phase.inFlash = false) := by
  decide +kernel

/-- A job whose one tile waits, and no Plot but a gated one to take it. -/
def gatedPlot : State :=
  { up with
    isl := { tab := (List.range 181).map (fun n => (n, { state := if n < 128 then .gated else .run })) }
    plot := { up.plot with
      jobs := [(0, { kind := .eltwise, src := q00, cmd := 0, part := 0, params := [], serial := 0, realtime := false, limit := 1, tiles := 1, written := 1 })]
      units := [(0, 0)]
      tiles := [(0, { job := 0, tile := 0 })] } }

theorem hyp_IslandResets_wake :
    (gatedPlot.memOk ∧ (gatedPlot.island (.plot 0)).state = .gated ∧ gatedPlot.running .fe = true ∧ gatedPlot.wakeDue 0 = true) ∧
    (let s0 := upIsland (.plot 5) { state := .gated }
     let s : State := { s0 with q := { s0.q with cmds := [cmdAt (pk []) (.executing (.held (.plot 5)))] } }
     s.memOk ∧ (s.island (.plot 5)).state = .gated ∧ s.running .fe = true ∧ s.wakeAsked 5 = true) := by decide +kernel

theorem hyp_IslandRows :
    (∀ x ∈ [cp0, .mgmt 0], up.ready specShears x (pk [4, 5, 7]) = true ∧ up.ready specIslandReset x (pk [0xA8]) = true ∧
      up.headed specIslandReset x (pk [0xFF]) = true ∧ islandOfId ((pk [0xFF]).word 0) = none ∧
      ended (.islandReset x (pk [0xFF])) up = some (.badParam, [0]) ∧ up.ready specIslandReset x (pk [0xAF]) = true) ∧
    up.memOk ∧ up.power.mainHeld = false ∧ up.leaseNamed 4 5 = none ∧
    (let s : State := { held id with kelri := {} }
     s.memOk ∧ s.ready specShears (.mgmt 0) (pk [4, 5, 7]) = true ∧ s.power.mainHeld = true ∧ ended (.shears (.mgmt 0) (pk [4, 5, 7])) s = some (.targetReset, [])) ∧
    (let h : Holder := .agent (.queue (.part 0 0)) 1
     let s : State := { up with q := { up.q with leases := [(leaseKey 4 5, { owner := some 0, holder := h })] } }
     s.memOk ∧ s.ready specShears cp0 (pk [4, 5, 7]) = true ∧ s.power.mainHeld = false ∧ s.leaseNamed 4 5 = some h ∧ (7 : Nat) ≠ 0 ∧
      7 ≠ (s.holderShown h).2.toNat ∧ (queueSrc (.part 0 0) ≠ cp0) ∧
      (∀ v ∈ [0, 1], s.ready specShears cp0 (pk [4, 5, v]) = true ∧ (v = 0 ∨ v = (s.queue q00).epoch.toNat) ∧ s.leasesOf (.queue (.part 0 0)) = [leaseKey 4 5] ∧
        (∀ c ∈ s.q.cmds, c.src = q00 → c.phase.isExecuting = false ∧ c.held = none) ∧ ended (.shears cp0 (pk [4, 5, v])) s = some (.ok, [1, 0xA8, 2]))) := by decide +kernel

theorem hyp_IslandRows_reset :
    (islandOfId 0xA8 = some .fe ∧ isTarget .fe = false ∧ islandOfId 0xB3 = some .mgmt ∧ isMgmtSrc (.mgmt 0) = true ∧ islandOfId 0xAF = some .agr ∧
      isTarget .agr = true ∧ isMain .agr = true ∧ up.running .agr = true ∧ up.q.cmds = [] ∧
      up.ready specIslandReset (.mgmt 0) (pk [0xB3]) = true ∧ ended (.islandReset (.mgmt 0) (pk [0xB3])) up = some (.notPermitted, []) ∧
      (held id).memOk ∧ (held id).power.mainHeld = true ∧
      (∀ d ∈ [0xA8, 0xAF], (held id).ready specIslandReset (.mgmt 0) (pk [d]) = true ∧
        ended (.islandReset (.mgmt 0) (pk [d])) (held id) = some (.targetReset, [])) ∧
      isMain .fe = true ∧ isMain .mgmt = false ∧ up.power.mainHeld = false ∧
      up.ready specIslandReset cp0 (pk [0xB3]) = true ∧ isMgmtSrc cp0 = false ∧ ended (.islandReset cp0 (pk [0xAF])) up = some (.ok, [2])) := by decide +kernel

/-! ### Random numbers -/

/-- The service state with the random unit serving. -/
def upRng (f : RandomUnit → RandomUnit) : State := { up with random := f { serving := true, testsPassed := true } }

theorem hyp_RandomRows :
    (let s := upRng id
     s.memOk ∧ s.running .rng = true ∧ s.random.serving = true ∧
      (let p := pk [0, 0, lastByte, 0, 1]
       s.ready specRandomFill q00 p = true ∧ okThen ((s.atBody specRandomFill q00 p).claim q00 (pair p.word 2) (p.word 4) true) (fun _ _ => true) = true) ∧
      s.ready specRandomReseed q00 (pk []) = true ∧ s.ready specRandomReseed cp0 (pk []) = true ∧ srcPart cp0 = none ∧
      (∀ x ∈ [cp0, .mgmt 0], ∀ n ∈ [0, 48], s.ready specRandomPersonalize x (pkBig [0, n]) = true ∧ s.created (Fin.ofNat 64 ((pkBig [0, n]).word 0)) = true) ∧
      (∀ w ∈ [0, 1], (let p := pk [w, 1, lastByte - 7, 0, 1]
       s.ready specNoiseFill q00 p = true ∧ okThen ((s.atBody specNoiseFill q00 p).claim q00 (pair p.word 2) (8 * p.word 4) true) (fun _ _ => true) = true))) := by
  decide +kernel

theorem hyp_RandomEvents :
    (let s := upRng (fun r => { r with queues := [(0, [1, 2, 3, 4, 5, 6, 7, 8])], drbgs := [(instPart 0, { key := zeros 32, v := zeros 16, reseedCounter := 1 })] })
     s.memOk ∧ s.barAnswers (.vf 0) = true ∧ s.badWord (.vf 0) 0 0x40000 = false ∧ s.created 0 = true ∧ s.flrActive 0 = false ∧ s.running .rng = true ∧ 8 ≤ (Tab.get s.random.queues [] 0).length ∧ s.random.serving = true ∧
      (Tab.find? s.random.drbgs (instPart 0)).isSome = true ∧ (Tab.get s.random.queues [] 0).length ≤ 4096 ∧
      (after (.randomPortRead 0 0 true) s).hif.out = [.readReply (.vf 0) 0x0807060504030201 false]) ∧
    (let s := upRng (fun r => { r with queues := [(0, [1, 2, 3])] })
     s.memOk ∧ (Tab.get s.random.queues [] 0).length < 4) ∧
    (let s := upRng (fun r => { r with serving := false, cells := [(0, { state := .healthy })] })
     let u := s.setCell 7 { s.cell 7 with state := .healthy }
     s.memOk ∧ s.running .rng = true ∧ (s.cell 7).state = .startup ∧ s.random.testsPassed = true ∧ s.random.serving = false ∧ 2 ≤ u.healthyCells.length) ∧
    (let s := upRng (fun r => { r with serving := false, testsPassed := false })
     let u := s.setCell 7 { s.cell 7 with state := .healthy }
     s.memOk ∧ (s.cell 7).state = .startup ∧ (s.random.testsPassed && decide (2 ≤ u.healthyCells.length)) = s.random.serving) ∧
    (let s (n : Nat) := upRng (fun r => { r with cells := (List.range n).map (fun c => (c, { state := .healthy })) })
     let u (n : Nat) := (s n).setCell 0 { failures := [10 ^ 11], state := .retry, retryAt := 10 ^ 11 + 1000000, rctFail := 1, aptFail := 0 }
     (s 3).memOk ∧ ((s 3).cell 0).state = .healthy ∧ ((s 3).random.testsPassed && decide (2 ≤ (u 3).healthyCells.length)) = (s 3).random.serving ∧
      (s 2).memOk ∧ (u 2).healthyCells.length < 2 ∧ (s 2).fills = [] ∧ (after (.cellTestFail 0 false) (s 3)).cell 0 = (u 3).cell 0 ∧
      (after (.cellTestFail 0 false) (s 2)).random.serving = false) ∧
    (let s := upRng (fun r => { r with cells := [(7, { state := .retry, retryAt := 10 ^ 11 })] })
     s.memOk ∧ (s.cell 7).state = .retry ∧ (s.cell 7).retryAt ≤ s.now) ∧
    (let s := upRng (fun r => { r with cells := [(7, { state := .healthy })] })
     s.memOk ∧ s.running .rng = true ∧ s.random.serving = true ∧ (s.cell 7).state = .healthy) := by decide +kernel

/-! ### Registers and host functions -/

/-- Progress counter 23 of partition 0, the last of its registers of 64 bits (Table 27.1). -/
def lastProgress : Nat := 0x30000 + 8 * 23

/-- The service state with the storage of these registers spoiled. -/
def upBad (l : List BadReg) : State := { up with reg := { up.reg with bad := l } }

theorem hyp_RegisterReads :
    up.memOk ∧ (∀ f ∈ [Fn.pf, .vf 0], up.barAnswers f = true) ∧
    (∀ r ∈ [Requester.mgmtPort, .fn .pf, .fn (.vf 0)], ∀ o ∈ [0, barSize (fnOf r) 0 - 8],
      o % 8 = 0 ∧ o < barSize (fnOf r) 0 ∧ o ≠ 0x40000 ∧ isTimeNow r o = false ∧ up.badWord (fnOf r) 0 o = false ∧ alignedAccess (o + 1) 4 = false ∧
        o + 1 < barSize (fnOf r) 0 ∧ alignedAccess (o + 4) 8 = false) ∧
    (up.regWord (.fn (.vf 0)) lastProgress).rl = true ∧ (up.regWord (.fn (.vf 0)) 0).rl = false ∧
    (∀ g ∈ [Fn.pf, .vf 0], (let s := upBad [{ fn := fnNum g, bar := 0, word := barSize g 0 - 8 }]
      s.memOk ∧ s.barAnswers g = true ∧ s.inFlr g = false ∧ s.badWord g 0 (barSize g 0 - 4) = true ∧ alignedAccess (barSize g 0 - 4) 4 = true ∧
        barSize g 0 - 4 < barSize g 0 ∧ inView g (barSize g 0 - 4) = false)) ∧
    (∀ g ∈ [Fn.pf, .vf 0], (let s := upBad [{ fn := fnNum g, bar := 0, word := 8 }]
      s.memOk ∧ s.barAnswers g = true ∧ s.inFlr g = false ∧ s.badWord g 0 8 = true ∧ inView g 8 = true ∧ (s.viewOf g).valid = true)) ∧
    (∀ r ∈ [Requester.mgmtPort, .fn .pf, .fn (.vf 0)], up.regAnswers r .time = true) ∧ up.created 0 = true ∧ up.flrActive 0 = false ∧
    up.badWord .pf 0 0xA00000 = false ∧ up.badWord (.vf 0) 0 0x1030 = false ∧
    (let s : State := { up with hif := { up.hif with windowBase := 700 * chunkBytes } }
     let o := chunkBytes - 1
     s.memOk ∧ s.barAnswers .pf = true ∧ s.pfReaches .fe = true ∧ o + 1 ≤ 2 ^ s.hif.bar2Log2 ∧
      (s.hif.windowBase + o + 1 - 1) / chunkBytes = (s.hif.windowBase + o) / chunkBytes ∧ s.closedChunk ((s.hif.windowBase + o) / chunkBytes) = false ∧
      (s.consumeLines 0xFE (linesOf (s.hif.windowBase + o) 1)).1 = none ∧ 2 ^ s.hif.bar2Log2 - 1 + ([1] : Bytes).length ≤ 2 ^ s.hif.bar2Log2 ∧
      memByte (after (.bar2Access o 1 (some [9])) s).part.mem (701 * chunkBytes - 1) = 9 ∧
      (after (.bar2Access o 1 none) s).hif.out = [.readReply .pf 0 false]) := by decide +kernel

theorem hyp_RegisterWrites :
    up.memOk ∧ up.barAnswers (.vf 0) = true ∧ up.created 0 = true ∧ up.flrActive 0 = false ∧ up.running .hif = true ∧ up.running .rng = true ∧
    up.badWord (.vf 0) 0 0x50000 = false ∧ up.badWord (.vf 0) 0 0x40008 = false ∧ up.badWord .pf 0 0x10028 = false ∧
    (0x80000000 : W64).getLsbD 31 = true ∧ (0x80000000 : W32).getLsbD 31 = true ∧ up.barAnswers .pf = true ∧
    up.badWord .pf 0 (0xC00000 + 0x4000 * 15) = false ∧ up.pfReaches .hif = true ∧
    (∀ r ∈ [Requester.mgmtPort, .fn .pf], up.regAnswers r .shed = true) ∧ up.running .shed = true ∧ up.pfReaches .fe = true ∧
    (0xFF : W64).toNat % 256 = 0xFF ∧ (0xFF : W32).toNat % 256 = 0xFF ∧
    (let s := upIsland .fe {}
     s.memOk ∧ s.barAnswers .pf = true ∧ s.running .fe = false) ∧
    (w32 (1 : W64).toNat ≠ 0 ∧ ∀ f ∈ [Fn.pf, .vf 0], up.barAnswers f = true ∧ vectorsOf f - 1 < vectorsOf f ∧ up.inFlr f = false ∧
      up.badWord f (if f = .pf then 4 else 2) (16 * (vectorsOf f - 1) + 8) = false ∧
      (Tab.get up.hif.msix {} (msixKey f (vectorsOf f - 1))).masked = true) ∧
    (let s := upBad [{ fn := 0, bar := 0, word := 0x426200 }]
     s.memOk ∧ s.barAnswers .pf = true ∧ s.pfReaches .fe = true ∧
      (after (.registerWrite (.fn .pf) 0 0x426200 4 0xFFFFF) s).reg.wlSel = 0xFFFF) ∧
    (upUnits.memOk ∧ upUnits.barAnswers .pf = true ∧ upUnits.pfReaches .fe = true ∧ (∀ k : Fin 8, taskRunning (upUnits.taskOf { part := 0, slot := k }) = false) ∧
      (upUnits.unitsOf 0).any upUnits.unitInUse = false ∧ (upUnits.unitsOf 0).length ≠ bits (64 : W32).toNat 6 0 ∧
      bits (64 : W32).toNat 6 0 ≤ upUnits.freeUnits.length + (upUnits.unitsOf 0).length) := by decide +kernel

theorem hyp_HostFunctions :
    up.memOk ∧ up.power.mainHeld = false ∧ up.hif.configReady = true ∧ up.vfPresent 0 = true ∧ up.vfPresent 1 = true ∧ up.running .hif = true ∧
    up.flrActive 0 = false ∧
    (let s : State := { up with hif := { up.hif with configReady := false, vfEnable := false } }
     s.memOk ∧ s.power.mainHeld = false ∧ s.hif.configReady = false ∧ s.hif.vfEnable = false) ∧ up.hif.numVfs ≤ 2 ∧
    (let s : State := { up with hif := { up.hif with flr := [(0, 0)] } }
     s.memOk ∧ s.flrActive 0 = true ∧ s.partition? 0 = some part0 ∧ ∀ c ∈ part0.chunkMap, s.scrubFails c = false) ∧
    Tab.find? up.hif.reads (readKey (.vf 0) 5) = none ∧
    (let r : HostRead := { fn := .vf 0, addr := 0x1000, len := 4, issued := 0, purpose := .pull q00 0 0, beforeFlr := true }
     let s : State := { up with hif := { up.hif with reads := [(readKey (.vf 0) 1023, r)] } }
     s.memOk ∧ s.power.mainHeld = false ∧ Tab.find? s.hif.reads (readKey (.vf 0) 1023) = some r ∧ s.q.cmds = [] ∧ s.rounds.table = []) ∧
    (let c := cmdAt ((pk [4, 0, 0]).withOp 0x0103) (.executing (.hostPull 0 0 [(0, 512 * chunkBytes)] 0 [] 1))
     let s0 := upCmds [c]
     let r : HostRead := { fn := .vf 0, addr := 0x1000, len := 4, issued := 10 ^ 11 - 50000000, purpose := .pull q00 0 0, tag := s0.sourceTag .hif }
     let s : State := { s0 with hif := { s0.hif with reads := [(readKey (.vf 0) 7, r)] } }
     s.memOk ∧ s.power.mainHeld = false ∧ Tab.find? s.hif.reads (readKey (.vf 0) 7) = some r ∧ r.beforeFlr = false ∧ r.expired = false ∧ r.abandoned = false ∧ s.staleTag r.tag = false ∧
      s.cmd? q00 0 = some c ∧ s.q.cmds = [c] ∧ c.mirrored = none ∧ c.pkt.header.signal = false ∧ s.graft.waits = [] ∧ s.rounds.table = [] ∧
      ([1, 2, 3, 4] : Bytes).length = r.len ∧ r.issued + 50000000 ≤ s.now ∧
      memByte (after (.hostCompletion (.vf 0) 7 .success [1, 2, 3, 4]) s).part.mem (512 * chunkBytes + 3) = 4) := by decide +kernel

/-! ### Spetar links -/

/-- The service state with port 15 as given, its engine's synthesiser locked. -/
def upPort (p : Port) : State := { up with spetar := { up.spetar with ports := [(15, p)], oes := [(3, { locked := true })] } }

theorem hyp_PortControl :
    (∀ p ∈ [({ state := .active } : Port), { enable := false, state := .disabled }, { state := .disabled }, { state := .portFenced },
        { enable := false, state := .portFenced }],
      (upPort p).memOk ∧ (upPort p).barAnswers .pf = true ∧ (upPort p).kelri.pf.valid = true ∧ (upPort p).oeRuns (15 / 4) = true ∧ (upPort p).synthReady 15 = true ∧ (upPort p).port 15 = p) ∧
    ((0 : W32).getLsbD 0 = false ∧ (0 : W32).getLsbD 1 = false ∧ (0 : W32).getLsbD 2 = false ∧ (1 : W32).getLsbD 0 = true ∧ (1 : W32).getLsbD 1 = false ∧
      (1 : W32).getLsbD 2 = false ∧ (4 : W32).getLsbD 0 = false ∧ (4 : W32).getLsbD 1 = false) ∧
    (aboveLos (-150) = true ∧ (-150 : Int) ≤ ({} : Port).rxHigh ∧ aboveLos 20 = true ∧ (20 : Int) ≤ ({} : Port).rxHigh ∧ ¬(21 : Int) ≤ ({} : Port).rxHigh) ∧
    (∀ p ∈ [({ state := .active } : Port), { state := .training }, { state := .dazzled, backoffUntil := 10 ^ 11 }],
      (upPort p).memOk ∧ (upPort p).oeRuns (15 / 4) = true ∧ ((upPort p).port 15).enable = true ∧ (upPort p).port 15 = p ∧ p.trainingSince = none ∧
        p.backoffUntil ≤ (upPort p).now) ∧
    (let s := upPort { state := .training, trainingSince := some (10 ^ 11 - 50000) }
     s.memOk ∧ s.now ≤ 10 ^ 11 - 50000 + 50000 ∧ s.oeRuns (15 / 4) = true ∧ s.spetar.encMode = false ∧
      (let peer : Peer := { udid := zeros 16, encrypted := true }
       peer.encrypted ≠ s.spetar.encMode ∧ ((after (.trainingComplete 15 peer 3 0) s).port 15).state = .dazzled) ∧
      (let peer : Peer := { udid := zeros 16 }
       peer.encrypted = false ∧ ((after (.trainingComplete 15 peer 3 0) s).port 15).state = .active)) ∧
    (let u := upPort { state := .training, trainingSince := some (10 ^ 11 - 50000) }
     let s : State := { u with spetar := { u.spetar with oes := [(3, { locked := true, calibrating := some 0 })] } }
     s.memOk ∧ (s.oe (15 / 4)).calibrating.isSome = true ∧ s.oeRuns (15 / 4) = true ∧
      ((after (.trainingComplete 15 { udid := zeros 16, next := 9 } 3 0) s).port 15).state = .calibrating ∧
      ((after (.trainingComplete 15 { udid := zeros 16, next := 9 } 3 0) s).port 15).expected = 9) := by decide +kernel

theorem hyp_PortControl_down :
    (∀ n ∈ [6, 7], (let s := upPort { state := .training, trainingSince := some (10 ^ 11 - 50001), trainFails := n }
     s.memOk ∧ (s.port 15).state = .training ∧ 10 ^ 11 - 50001 + 50000 < s.now ∧
      ((after (.trainingTimeout 15) s).port 15).state = if n = 7 then .linkDown .trainFail else .dazzled)) ∧
    (∀ st ∈ [PortState.training, .active, .calibrating], (let s := upPort { state := st }
     s.memOk ∧ (s.port 15).state = st ∧ ((after (.faultPattern 15) s).port 15).state = .linkDown .peerFault ∧
      (s.port 15).flooded { p0 := 20, p1 := 20 } = false ∧ (s.port 15).flooded { p0 := 21, p1 := -169 } = true ∧
      (s.port 15).flooded { p0 := 21, p1 := -201 } = true ∧ ((after (.floodDetected 15 { p0 := 21, p1 := -169 } true) s).port 15).state = .dazzled)) ∧
    losAsserted (-169) = false ∧ losAsserted 21 = false ∧ losAsserted (-201) = true ∧
    (∀ st ∈ [PortState.training, .active, .dazzled, .settling], (let s := upPort { state := st }
     s.memOk ∧ (s.port 15).state = st)) ∧
    (let s := upPort { state := .dazzled, losSince := some (10 ^ 11 - 10000000), qualifiedAt := some 0, backoffUntil := 10 ^ 11 }
     s.memOk ∧ (s.port 15).state = .dazzled ∧ (s.port 15).losSince = some (10 ^ 11 - 10000000) ∧ 10 ^ 11 - 10000000 + 10000000 ≤ s.now ∧
      (s.port 15).qualifiedAt.isSome = true ∧ (s.port 15).backoffUntil ≤ s.now ∧ s.synthReady 15 = true) ∧
    (let s := upPort { state := .active, activeSince := 10 ^ 11 - 1000000000, paused := some (10 ^ 11 - 1000000) }
     s.memOk ∧ (s.port 15).state = .active ∧ (s.port 15).activeSince + 1000000000 ≤ s.now ∧ (s.port 15).paused = some (10 ^ 11 - 1000000) ∧
      10 ^ 11 - 1000000 + 1000000 ≤ s.now) := by decide +kernel

theorem hyp_LinkReplay :
    (let f : Frame := { lseq := 65535, since := 10 ^ 11 - 4000, what := .fault 15 }
     let s := upPort { state := .active, replay := [f], encrypted := true, nakTimes := List.replicate 256 (10 ^ 11 - 1000000) }
     s.memOk ∧ (s.port 15).state = .active ∧ (s.port 15).replay = f :: [] ∧ max (s.port 15).lastAckAt f.since + 4000 ≤ s.now ∧ (s.port 15).queue = [] ∧ s.egressOf (15 / 4) = [] ∧
      256 ≤ ((s.port 15).nakTimes.filter (fun t => decide (s.now ≤ t + 1000000))).length ∧ (s.port 15).encrypted = true ∧ s.synthReady 15 = true ∧
      covers 65535 f.lseq = true ∧ covers 65534 f.lseq = false ∧ ((after (.linkAck 15 { ack := 65535 }) s).port 15).replay = [] ∧
      ((after (.linkAck 15 { ack := 65534 }) s).port 15).replay = [f] ∧ (s.port 15).paused = none) ∧
    (let s := upPort { state := .active, replay := [{ lseq := 0, since := 0, what := .fault 15 }], paused := some 0, expected := 7 }
     s.memOk ∧ (s.port 15).paused.isSome = true ∧ (s.port 15).state = .active ∧ (7 : W16) = (s.port 15).expected ∧ (8 : W16) ≠ (s.port 15).expected) ∧
    (let s := upPort { state := .portFenced }
     s.memOk ∧ (s.port 15).state = .portFenced) := by decide +kernel

/-- Optical engine 3 as given, its port 15 in `st`. -/
def upOe (o : Oe) (st : PortState) : State := { up with spetar := { up.spetar with ports := [(15, { state := st })], oes := [(3, o)] } }

theorem hyp_OpticalEngines :
    (let s := upOe {} (.linkDown .synthLock)
     s.memOk ∧ s.oeRuns 3 = true ∧ s.time.synthLocked = true ∧ (s.oe 3).locked = false ∧ (s.oe 3).nextRetry ≤ s.now ∧ 15 ∈ oePorts 3 ∧
      (s.port 15).state = .linkDown .synthLock ∧ ((after (.synthLock 3 25) s).port 15).state = .training) ∧
    (∀ st ∈ [PortState.settling, .linkDown .synthLock],
     let u := upOe {} .settling
     let s : State := { u with spetar := { u.spetar with ports := [(12, { state := st }), (13, { state := .active }), (14, { state := .active }), (15, { settledAt := 10 ^ 11 - 5000000 })] } }
     s.memOk ∧ (s.oe 3).locked = false ∧ s.unsettled 3 ≠ [] ∧ (s.port 15).state = .settling ∧ (s.port 15).settledAt + 5000000 ≤ s.now ∧
      ((∃ n ∈ oePorts 3, (s.port n).state = .linkDown .synthLock) ↔ st ≠ .settling)) ∧
    (let s := upIsland (.oe 3) {}
     s.memOk ∧ s.oeRuns 3 = false) ∧
    (let s := upIsland .fab {}
     s.memOk ∧ s.barAnswers .pf = true ∧ s.pfReaches .fab = false) ∧
    (let s := upOe { locked := true, retryAt := some (10 ^ 11), calRequested := true } .active
     s.memOk ∧ s.oeRuns 3 = true ∧ s.barAnswers .pf = true ∧ s.pfReaches .fab = true ∧ (1 : W32).getLsbD 0 = true ∧ 8 ≤ ((8 : Int) - (s.oe 3).lastCalTemp).natAbs ∧ 8 ≤ ((-8 : Int) - (s.oe 3).lastCalTemp).natAbs ∧
      (s.oe 3).retryAt.isSome = true ∧ (s.oe 3).retryAt = some (10 ^ 11) ∧ 10 ^ 11 ≤ s.now ∧ (s.oe 3).calRequested = true ∧ (s.oe 3).draining = none ∧
      (s.oe 3).calibrating = none ∧ (s.oe 3).locked = true ∧ (s.oe 3).calDeferred < 1000000) ∧
    (let s := upOe { locked := true } .active
     s.memOk ∧ (s.oe 3).retryAt = none ∧ (s.oe 3).draining = none ∧ (s.oe 3).calibrating = none ∧ (s.oe 3).locked = true ∧ (oePorts 3).any s.portActive = true) ∧
    (let s := upOe { locked := true, draining := some (10 ^ 11 - 100000) } .active
     s.memOk ∧ (s.oe 3).draining = some (10 ^ 11 - 100000) ∧ 10 ^ 11 - 100000 + 100000 ≤ s.now ∧ (s.port 15).state = .active ∧ s.pauseAcked 15 = true ∧
      (upPort { state := .active, queue := [.pause 15] }).pauseAcked 15 = false ∧
      ((after (.calibrationDrained 3) s).port 15).state = .calibrating) ∧
    (let s := upOe { locked := true, calibrating := some 0 } .calibrating
     s.memOk ∧ (s.oe 3).calibrating.isSome = true ∧ (s.port 14).state = .settling ∧ (s.port 15).state = .calibrating) := by decide +kernel

/-! ### The fabric -/

/-- The service state with window 255 of partition 0, open to partition 0 of the device itself, and fabric ID 0. -/
def upWindow : State := { up with spetar := { up.spetar with fid := some 0, windows := [(255, selfWindow)] } }

theorem hyp_FabricRows :
    (∀ v ∈ [0, 1], up.ready specFabRoutes cp0 (pk [v]) = true ∧ ended (.fabRoutes cp0 (pk [v])) up = some (.ok, [])) ∧
    (∀ v ∈ [0, 1], ∀ x ∈ [cp0, .mgmt 0], upFab.memOk ∧ upFab.ready specFabDiscover x (pk [v]) = true ∧ (upFab.port 0).peerPort.isSome = true ∧ (0 : Nat) < 16 ∧
      upFab.trellis.formed = [] ∧ ∀ y ∈ upFab.rounds.table, y.2.policy.fabric = false ∨ y.2.state.isAborted = true) ∧
    (let p := pk [255 + 0xF000000, 0, 0, 0, 4 * chunkBytes]
     up.memOk ∧ up.ready specWindowOpen q00 p = true ∧ Tab.find? up.spetar.windows (windowKey 0 (bits (p.word 0) 7 0)) = none ∧
      okThen ((up.atBody specWindowOpen q00 p).claim q00 (pair p.word 2) (pair p.word 4) true) (fun _ _ => true) = true ∧
      ended (.windowOpen q00 p) up = some (.ok, [])) ∧
    (upWindow.memOk ∧ upWindow.ready specWindowClose q00 (pk [255]) = true ∧ Tab.find? upWindow.spetar.windows (windowKey 0 ((pk [255]).word 0)) = some selfWindow ∧
      selfWindow.closing = none ∧ ended (.windowClose q00 (pk [255])) upWindow = some (.ok, [])) := by decide +kernel

theorem hyp_FabricRows_peer : (upFab.port 0).peerUdid = some peerUdid ∧ peerUdid ≠ udid ∧ upFab.canSend 1 = true :=
  ⟨rfl, peerUdid_ne, canSend_fab rfl rfl rfl rfl rfl⟩

/-- A write of four bytes into the last of the window; `d` is the device. -/
def rmaPk (d : Nat) : Packet := pk [d + 255 * 65536, 4, 65532, 0, lastByte - 3, 0]

theorem hyp_FabricRows_rma :
    (∀ s ∈ [upWindow, upFab], ∀ d ∈ [0, 1], s.memOk ∧
      s.ready specRmaWrite q00 (rmaPk d) = true ∧ s.ready specRmaAdd q00 (rmaPk d) = true ∧ s.ready specRmaRead q00 (rmaPk d) = true ∧
      okThen ((s.atBody specRmaWrite q00 (rmaPk d)).claim q00 (lastByte - 3) 4 false) (fun ps u =>
        okThen ((u.holding q00 (s.nextCmd q00) ps).readRange (srcPartByte q00) ps (lastByte - 3) 4) (fun _ _ => true)) = true ∧
      okThen ((s.atBody specRmaRead q00 (rmaPk d)).claim q00 (lastByte - 3) 4 true) (fun _ _ => true) = true) ∧
    upWindow.spetar.fid = some (bits ((rmaPk 0).word 0) 8 0) ∧ upFab.spetar.fid ≠ some (bits ((rmaPk 1).word 0) 8 0) ∧
    ended (.rmaWrite q00 (rmaPk 0)) upWindow = some (.ok, [0, 0]) ∧ ended (.rmaAdd q00 (rmaPk 0)) upWindow = some (.ok, [0, 0]) ∧
    ended (.rmaRead q00 (rmaPk 0)) upWindow = some (.ok, [0, 0]) := by decide +kernel

/-- A ROUND packet from device `a` to device `b`, the first on port 0, that has not expired. -/
def msgFrom (a b : Nat) : RoundIn := { via := via0 0, h := { type := .round, src := a, dst := b, expiry := 10 ^ 11 / 1024 + 1 } }

/-- From device 1 to device 0, and back. -/
def from1 : RoundIn := msgFrom 1 0
def from0 : RoundIn := msgFrom 0 1

/-- What `State.Comes` says, as a test. -/
def comes (s : State) (o : RoundIn) (m : RoundMsg) : Bool :=
  s.takes o.via (.message 0 o.h m) && s.spetar.fid == some o.h.dst && s.accepts && !s.expired o.h && s.seen o.h == .new

/-- What `State.Hears` says, as a test. -/
def hears (s : State) (o : RoundIn) (m : RoundMsg) : Bool := comes s o m && s.sameFrame o m

theorem comes_iff {s : State} {o : RoundIn} {m : RoundMsg} : comes s o m = true ↔ s.Comes o m := by
  simp only [comes, Bool.and_eq_true, beq_iff_eq, Bool.not_eq_true']
  exact ⟨fun ⟨⟨⟨⟨a, b⟩, c⟩, d⟩, e⟩ => ⟨a, b, c, d, e⟩, fun ⟨a, b, c, d, e⟩ => ⟨⟨⟨⟨a, b⟩, c⟩, d⟩, e⟩⟩

theorem hears_iff {s : State} {o : RoundIn} {m : RoundMsg} : hears s o m = true ↔ s.Hears o m := by
  rw [hears, Bool.and_eq_true, comes_iff]; rfl

/-- What `State.Finds` says, as a test. -/
def finds (s : State) (part : Nat) (id : W32) (n e : Nat) (r : Round) (o : Nat) : Bool :=
  s.msgRound part id == some e && s.round? e == some r && r.origin n == some o && !s.mirroring e

theorem finds_iff {s : State} {part : Nat} {id : W32} {n e : Nat} {r : Round} {o : Nat} : finds s part id n e r o = true ↔ s.Finds part id n e r o := by
  simp only [finds, Bool.and_eq_true, beq_iff_eq, Bool.not_eq_true']
  exact ⟨fun ⟨⟨⟨a, b⟩, c⟩, d⟩ => ⟨a, b, c, d⟩, fun ⟨a, b, c, d⟩ => ⟨⟨⟨a, b⟩, c⟩, d⟩⟩

/-- A packet for device 0 that has not expired. -/
def toMe (n : Nat) : FabHeader := { type := .write, src := 1, dst := 0, window := 255, psn := 7, expiry := 10 ^ 11 / 1024 + 1, offset := n }

/-- The service state with window 255 of partition 0 open to device 1, fabric ID 0 and qualified time. -/
def upTarget (w : Window) (applied : Tab (List Applied)) : State :=
  { upFab with spetar := { upFab.spetar with ports := [(0, { state := .active })], map := [], windows := [(255, w)], applied := applied } }

def peerWindow : Window := { selfWindow with peer := 1 }

theorem hyp_FabricTarget :
    (let s := upTarget peerWindow []
     let h := toMe 65532
     s.memOk ∧ s.takes (via0 0) (.packet none h [1, 2, 3, 4]) = true ∧ (s.port 0).state = .active ∧ (0 : W16) = (s.port 0).expected ∧
      (1 : W16) ≠ (s.port 0).expected ∧ (s.port 1).state ≠ .active ∧ s.inTransit { h with dst := 2 } = true ∧ s.spetar.fid = some h.dst ∧ s.accepts = true ∧ s.expired h = false ∧
      s.expired { h with expiry := 10 ^ 11 / 1024 } = true ∧ s.seen h = .new ∧
      s.windowFor h (fun w => w.write) h.offset 4 = some (0, peerWindow) ∧ s.windowFor h (fun w => w.write) h.offset 5 = none ∧
      s.windowFor h (fun w => w.add) h.offset 4 = some (0, peerWindow) ∧ s.windowFor h (fun w => w.add) h.offset 5 = none ∧
      okThen (s.readRange (partByte (some 0)) peerWindow.pages (peerWindow.addr h.offset) 4) (fun d _ => d == [0, 0, 0, 0]) = true ∧
      s.windowOwner h.window h.src h.srcPart = some (0, peerWindow) ∧ peerWindow.closing = none ∧ peerWindow.signal = true ∧ s.isCold 0 = h.cold ∧
      s.flrActive 0 = false ∧ s.mayWriteFence (h.offset % 4096) none = true ∧
      fenceAfter (s.fence (h.offset % 4096)) .add (BitVec.ofNat 64 (leNat (fit 8 [5]))) = some 5 ∧
      s.windowOwner h.window 2 h.srcPart = none ∧ okThen (s.serveRead h 4) (fun d _ => d == [0, 0, 0, 0]) = true ∧
      memByte (after (.write (via0 0) h [1, 2, 3, 4]) s).part.mem (512 * chunkBytes + 65535) = 4 ∧
      (after (.signal (via0 0) h [5]) s).fence 4092 = 5) ∧
    (let s := upTarget peerWindow [(1, [{ psn := 7, at_ := 10 ^ 11 - 2048000, status := 0 }])]
     s.memOk ∧ s.seen (toMe 0) = .kept 0) ∧
    (let s := upTarget peerWindow [(1, [{ psn := 7, at_ := 10 ^ 11 - 2048001, status := 0 }])]
     s.memOk ∧ s.seen (toMe 0) = .stale) ∧
    (let w : Window := { peerWindow with closing := some (10 ^ 11 - 2000000) }
     let s := upTarget w []
     s.memOk ∧ Tab.find? s.spetar.windows (windowKey 0 (255 : Fin 256).val) = some w ∧ 10 ^ 11 - 2000000 + 2000000 ≤ s.now ∧
      (after (.windowHandleFree 0 255) s).spetar.windows = []) := by decide +kernel

/-- A cable from local port 0 to a global port is MISCABLED (R564). -/
theorem hyp_FabricTarget_miscabled :
    let s : State := { upFab with spetar := { upFab.spetar with ports := [(0, { state := .active, peerUdid := some [], peerPort := some 15 })] } }
    s.memOk ∧ (s.port 0).state = .active ∧ (0 : W16) = (s.port 0).expected ∧ s.miscabled 0 = true := by decide +kernel

/-- Queue 0 of partition 0 waits for `n` packets from device 1; packet 5 is outstanding with purpose `w`. -/
def upSource (n : Nat) (w : ReqPurpose) (o : Outstanding) : State :=
  { upFab with
    q := { upFab.q with cmds := [cmdAt ((pk []).withOp 0x0504) (.executing (.remote n 0 0 none))] }
    spetar := { upFab.spetar with ports := [(0, { state := .active })], map := [], dests := [(1, { out := [(5, { o with purpose := w })] })] } }

def sent : Outstanding := { header := { type := .write, src := 0, dst := 1, psn := 5 }, payload := [1], bytes := 1, serial := 0, purpose := .data q00 0 }

theorem hyp_FabricSource :
    (∀ n ∈ [1, 2], (let s := upSource n (.data q00 0) sent
      s.memOk ∧ s.takes (via0 0) (.packet none { type := .ack, src := 1, dst := 0, offset := 5 } []) = true ∧ s.running .fab = true ∧
        s.spetar.fid = some 0 ∧ s.outstanding? 1 (5 % 2 ^ 32) = some sent ∧
        s.cmd? q00 0 = some (cmdAt ((pk []).withOp 0x0504) (.executing (.remote n 0 0 none))) ∧
        (cmdAt ((pk []).withOp 0x0504) (.executing (.remote n 0 0 none))).mirrored = none ∧
        (cmdAt ((pk []).withOp 0x0504) (.executing (.remote n 0 0 none))).pkt.header.signal = false ∧
        (∀ d ∈ s.q.cmds, d.src = q00 → d.chain ≠ .after 0) ∧ s.graft.waits = [])) ∧
    Status.ofCode Status.notPermitted.code = .notPermitted ∧
    (∀ n ∈ [4, 8], (let w : ReqPurpose := .read q00 0 [(0, 512 * chunkBytes)] 0 n
      let s := upSource 1 w sent
      s.memOk ∧ s.running .fab = true ∧ s.outstanding? 1 5 = some { sent with purpose := w } ∧ (∀ y ∈ sent.got, y.1 ≠ 0) ∧
        0 + ([1, 2, 3, 4] : Bytes).length ≤ n ∧ (gotBytes sent.got + 4 = n ↔ n = 4))) ∧
    (let o := { sent with retries := 6, firstSend := 10 ^ 11 - resendAt 6 }
     let s := upSource 1 (.data q00 0) o
     s.memOk ∧ s.outstanding? 1 5 = some o ∧ o.retries < 7 ∧ o.firstSend + resendAt o.retries ≤ s.now ∧ s.running .fab = true) ∧
    (let o := { sent with firstSend := 10 ^ 11 - 2040000 }
     let s := upSource 1 (.data q00 0) o
     s.memOk ∧ s.outstanding? 1 5 = some o ∧ o.firstSend + 2040000 ≤ s.now) ∧
    (up.trellis.nextKeepalive ≤ up.now ∧ up.running .fab = true ∧ up.waitedOn = []) ∧
    (upFab.memOk ∧ upFab.running .fab = true ∧ (upFab.port 0).state = .active) := by decide +kernel

theorem fit_length (n : Nat) (b : Bytes) : (fit n b).length = n := by
  simp only [fit, zeros, List.length_append, List.length_take, List.length_replicate]
  omega

theorem udid_ne_nil : udid ≠ [] := fun h => by
  have l := fit_length 16 Config.udid
  rw [show fit 16 Config.udid = [] from h] at l
  exact absurd l (by decide)

theorem peerUdid_ne_nil : peerUdid ≠ [] := by
  unfold peerUdid
  split <;> decide

/-- A record heard from a device that names no port. -/
def heardRec : DevRec := { udid := [], fidReq := none, fid := none, ports := [] }

theorem hyp_FabricSource_discover :
    (let s : State := { upHear with spetar := { upHear.spetar with seen := [[]], map := [heardRec], discoveredAt := some (10 ^ 11 - 19999999) } }
     s.memOk ∧ s.takes (via0 0) (.flood 0 { type := .discover, src := 0, dst := 0 } heardRec) = true ∧ s.lateCopy heardRec = true ∧
      ({ s with spetar := { s.spetar with discoveredAt := some (10 ^ 11 - 20000000) } } : State).lateCopy heardRec = false) ∧
    (let s : State := { upFab with spetar := { upFab.spetar with discovering := some false } }
     s.memOk ∧ s.running .fab = true ∧ s.takes (via0 0) (.flood 0 { type := .linkState, src := 0, dst := 0 } heardRec) = true ∧
      s.spetar.discovering.isSome = true ∧ s.spetar.seen.contains heardRec.udid = false ∧
      ({ s with spetar := { s.spetar with seen := [[]] } } : State).spetar.seen.contains heardRec.udid = true) ∧
    heardRec.udid ≠ udid ∧ devByUdid upFab.spetar.map peerRec.udid = some peerRec ∧ devByUdid upFab.spetar.map heardRec.udid ≠ some heardRec ∧ peerRec.udid ≠ udid := by
  refine ⟨by decide +kernel, by decide +kernel, fun h => udid_ne_nil h.symm, ?_, ?_, peerUdid_ne⟩
  · simp [devByUdid, upFab, peerRec]
  · simp [devByUdid, upFab, peerRec, heardRec, peerUdid_ne_nil]

/-- A record heard from a device whose port names another that is not heard yet: the flood is not closed. -/
def openRec : DevRec := { udid := [1], fidReq := none, fid := none, ports := [(0, [], 0)], active := [0] }

theorem hyp_FabricSource_open :
    let s : State := { upFab with spetar := { upFab.spetar with discovering := some false, map := [] } }
    let h : FabHeader := { type := .discover, src := 0, dst := 0 }
    let y := s.tookFrame (via0 0) (.flood 0 h openRec)
    let heard : State := { y with spetar := { y.spetar with seen := s.spetar.seen ++ [openRec.udid], map := openRec :: s.spetar.map.filter (fun x => x.udid != openRec.udid) } }
    openRec.udid ≠ udid ∧ s.spetar.seen.contains openRec.udid = false ∧ (heard.flood h openRec).floodClosed = false := by
  intro s h y heard
  refine ⟨fun h => ?_, rfl, ?_⟩
  · have l := congrArg List.length h
    rw [show udid.length = 16 from fit_length 16 Config.udid] at l
    exact absurd l (by decide)
  · have k := (flood_kept heard h openRec).1
    have m : (heard.flood h openRec).spetar.map = [openRec] := by rw [k]; rfl
    have g : (heard.flood h openRec).spetar.seen = [[1]] := by rw [k]; rfl
    have n1 : (([] : Bytes) == udid) = false := beq_eq_false_iff_ne.mpr udid_ne_nil.symm
    unfold State.floodClosed
    rw [m, g]
    simp [openRec, n1]

/-! ### The Trellis -/

/-- Device memory holds the list 0, 1 in the last four bytes of partition 0's quota. -/
def upList : State := { upHear with part := { upHear.part with mem := [(516 * chunkBytes - 2, 1)] } }

/-- A Trellis of devices 0 and 1. -/
def pairTrellis : Formed := { list := [0, 1], crc := crc32 [0, 0, 1, 0] }

/-- The list's Trellis formed as number 255 of partition 0, with its sums. -/
def upTrellis (xs : List Sum) : State := { upList with trellis := { upList.trellis with formed := [(255, { pairTrellis with sums := xs })] } }

theorem hyp_TrellisRows :
    (∀ s ∈ [upList, upTrellis []], (let p := pk [255, 2, lastByte - 3]
     s.memOk ∧ s.ready specTrellisForm q00 p = true ∧ okThen ((s.atBody specTrellisForm q00 p).claim q00 (pair p.word 2) (2 * p.word 1) false) (fun ps u =>
       okThen ((u.holding q00 (s.nextCmd q00) ps).readRange (srcPartByte q00) ps (pair p.word 2) (2 * p.word 1)) (fun b _ => b == [0, 0, 1, 0])) = true)) ∧
    residues 2 [0, 0, 1, 0] = [0, 1] ∧ rising [0, 1] = true ∧ (∀ f ∈ [0, 1], f < 512) ∧ upList.spetar.fid.any [0, 1].contains = true ∧
    upList.formed? (tkey 0 255) = none ∧ upList.trellis.formed = [] ∧
    ((upTrellis []).formed? (tkey 0 255)).isSome = true ∧ (upTrellis []).roundsOnTrellis 0 (255 % 256) = [] ∧ (upTrellis []).reducesOf 255 = [] ∧
    ended (.trellisForm q00 (pk [255, 2, lastByte - 3])) upList = some (.ok, [w32 (treeDepth [0, 1])]) ∧
    (let s := upTrellis []
     let p := pk [255 + 0x200, 0, 1, 0, lastByte - 3, 0, lastByte - 3]
     s.ready specTrellisReduce q00 p = true ∧ s.formed? (tkey 0 255) = some pairTrellis ∧ pairTrellis.sums = [] ∧ pairTrellis.marks = [] ∧
      pairTrellis.early = [] ∧ s.maySendAny = true ∧ treeChildren pairTrellis.list s.ownFid ≠ [] ∧
      okThen ((s.atBody specTrellisReduce q00 p).claim q00 (pair p.word 4) 4 false) (fun ps u =>
        okThen ((u.holding q00 0 ps).claim q00 (pair p.word 6) 4 true) (fun pd w =>
          okThen ((((w.holding q00 0 pd).setFormed 255 { pairTrellis with nextReduce := 1 }).modCmd q00 0 (fun d =>
            { d with phase := .executing (.trellis 255 0) })).readRange (srcPartByte q00) ps (pair p.word 4) 4) (fun b _ => b.length == 4))) = true ∧
      p.word 2 * (reduceOp p.word).width = 4) := by decide +kernel

/-- A round over the fabric, in partition 0 on Trellis 255. -/
def fabRound (st : RoundState) (h : Harvest) : Round :=
  { round0 with
    state := st
    policy := { round0.policy with fabric := true, trellis := 255, deadline := 9 * 10 ^ 10, floor := 1 }
    participants := [0, 1]
    homes := [(0, [3])]
    contributions := [(3, { client := 3, segs := [0], codedKey := [] })]
    harvest := h }

/-- The round in entry 1023 of the device's table, the Trellis formed. -/
def upFabRound (r : Round) : State := { upTrellis [] with rounds := { up.rounds with table := [(1023, r)] } }

/-- A sum of `n` elements with `self` in the tree of devices 0 and 1. -/
def sumOf (self n : Nat) : Sum :=
  { key := .reduce 0, desc := { op := .fp32Sum, count := n }, src := q00, cmd := 0, self := self, own := List.replicate n 0, members := [0, 1]
    pages := [(0, 512 * chunkBytes)], dst := 0 }

/-- A round whose deadline is now. -/
def dueRound (h : Harvest) : Round :=
  { fabRound .ingesting h with policy := { (fabRound .ingesting h).policy with deadline := 10 ^ 11 } }

/-- The Trellis of `pairTrellis`. -/
def pairTree : TreeId := { part := 0, tid := 255, crc := pairTrellis.crc }

/-- Device 1 in the tree of devices 0 and 1, with a sum. -/
def upLeaf (x : Sum) : State := { upTrellis [x] with spetar := { upHear.spetar with fid := some 1 } }

/-- A contribution due, with JOIN left open and closed by it; one past D + Gd; one of a participant that has left. -/
theorem hyp_TrellisMessages_join :
    (∀ h ∈ [({ stage := .idle } : Harvest), { stage := .join }, { stage := .waitBitmap, joinClosedAt := some 0 }, { stage := .join, left := [1] },
        { stage := .join, joined := [0] }], (let r := dueRound h
      let s := upFabRound r
      s.memOk ∧ s.agreesTree pairTree = true ∧ finds s 0 7 1 1023 r 1 = true ∧ r.harvestOpen = true ∧ r.participants.contains 1 = true ∧
        hears s from1 (.join pairTree 7 [1]) = true ∧ hears s from1 (.bitmap pairTree 7 [1] [3]) = true ∧ s.now ≤ r.policy.deadline + r.deviceNs ∧
        (treeAbove r.participants (s.selfIn r) 4).contains 1 = false ∧ ([1] : List Nat).all h.joined.contains = false ∧
        ([] : List Nat).all h.joined.contains = true ∧ (r.allIn r.participants (unionNat h.joined [1]) = true ↔ h.joined = [0]) ∧
        s.q.cmds = [] ∧ s.rounds.gate = [] ∧ (r.ring.map Ring.undecided).getD [] = [])) ∧
    (let r := fabRound .ingesting { stage := .join }
     hears (upFabRound r) from1 (.join pairTree 7 [1]) = true ∧ r.policy.deadline + r.deviceNs < (upFabRound r).now) ∧
    (let r := dueRound { stage := .bitmap 0, covers := [] }
     finds (upFabRound r) 0 7 1 1023 r 1 = true ∧ ([1] : List Nat).all r.harvest.covers.contains = false) ∧
    (let r := dueRound { stage := .result }
     finds (upFabRound r) 0 7 1 1023 r 1 = true ∧ hears (upFabRound r) from1 (.proposeAnswer pairTree 7 false) = true) := by decide +kernel

/-- The mask of a JOIN that closed comes down to device 1; and once more. -/
theorem hyp_TrellisMessages_mask :
    ∀ c ∈ [none, some (10 ^ 11)], (let r := dueRound { stage := .join, joinClosedAt := c }
      let s : State := { upFabRound r with spetar := { upHear.spetar with fid := some 1 } }
      s.memOk ∧ s.agreesTree pairTree = true ∧ finds s 0 7 0 1023 r 0 = true ∧ r.harvestOpen = true ∧ r.participants.contains 0 = true ∧
        hears s from0 (.join pairTree 7 [0, 1]) = true ∧ (treeAbove r.participants (s.selfIn r) 4).contains 0 = true) := by decide +kernel

/-- Seal messages of another token epoch; sums with bad data; a Trellis dissolved, or formed of another list. -/
theorem hyp_TrellisMessages_refused :
    (let r := fabRound .unmasked {}
     let s := upFabRound r
     s.memOk ∧ s.agreesTree pairTree = true ∧ s.sealRound (treeKey pairTree) (.seal 7 2) = some r ∧ r.tokenEpoch ≠ 2 ∧
      (∀ m ∈ [RoundMsg.sumUp pairTree (.seal 7 2) { op := .fp32Sum, count := 1 } 0 [0] 0, .sumDown pairTree (.seal 7 2) 0 [0] 0,
        .sumFail pairTree (.seal 7 2) 1, .credit pairTree (.seal 7 2) 1], hears s from1 m = true)) ∧
    (let s := upTrellis []
     s.memOk ∧ s.agreesTree pairTree = true ∧ s.otherEpoch (treeKey pairTree) (.reduce 0) = false ∧
      (∀ m ∈ [RoundMsg.sumUp pairTree (.reduce 0) { op := .fp32Sum, count := 1 } 0 [0] 0, .sumDown pairTree (.reduce 0) 0 [0] 0,
        .join pairTree 7 [], .credit { pairTree with crc := 0 } (.reduce 0) 1, .join { pairTree with crc := 0 } 7 []], hears s from1 m = true) ∧
      s.trellis.dissolved.contains (treeKey pairTree) = false ∧ s.formed? (treeKey pairTree) = some pairTrellis ∧ pairTrellis.crc ≠ 0 ∧
      s.sum? (treeKey pairTree) (.reduce 0) = none ∧ pairTrellis.nextReduce ≤ 0) ∧
    (let u := upTrellis []
     let s : State := { u with trellis := { u.trellis with formed := [], dissolved := [treeKey pairTree] } }
     s.memOk ∧ hears s from1 (.join pairTree 7 []) = true ∧ s.trellis.dissolved.contains (treeKey pairTree) = true) := by decide +kernel

/-- A child's chunk and credit at a root that has sent all its own; what comes for a reduce not yet entered. -/
theorem hyp_TrellisMessages_up :
    (let z : Sum := { sumOf 0 1 with started := true, sentUp := 1 }
     let s := upTrellis [z]
     s.memOk ∧ s.agreesTree pairTree = true ∧ s.formed? (treeKey pairTree) = some { pairTrellis with sums := [z] } ∧ z.key = .reduce 0 ∧
      (treeChildren z.members z.self).contains 1 = true ∧ Tab.find? (Tab.get z.children [] 1) 0 = none ∧ z.chunks ≤ z.sentUp ∧
      hears s from1 (.sumUp pairTree (.reduce 0) z.desc 0 [0] 0) = true ∧ hears s from1 (.credit pairTree (.reduce 0) 1) = true) ∧
    (let s := upTrellis []
     s.memOk ∧ s.agreesTree pairTree = true ∧ s.formed? (treeKey pairTree) = some pairTrellis ∧ s.sum? (treeKey pairTree) (.reduce 0) = none ∧
      pairTrellis.nextReduce ≤ 0 ∧ hears s from1 (.credit pairTree (.reduce 0) 1) = true ∧ hears s from1 (.sumFail pairTree (.reduce 0) 1) = true) := by
  decide +kernel

theorem sumOf_length (self n : Nat) : (sumOf self n).own.length = n := List.length_replicate

/-- A sum of two chunks at a leaf: the first chunk of its result is not the last. -/
theorem hyp_TrellisMessages_down (z : Sum) (hz : z = { sumOf 1 16385 with started := true }) :
    (upLeaf z).formed? (treeKey pairTree) = some { pairTrellis with sums := [z] } ∧ (upLeaf z).agreesTree pairTree = true ∧
      treeParent z.members z.self = some 0 ∧ treeChildren z.members z.self = [] ∧ Tab.find? z.result 0 = none ∧ z.result.length + 1 < z.chunks := by
  have k : (upLeaf z).formed? (treeKey pairTree) = some { pairTrellis with sums := [z] } := rfl
  have a : (upLeaf z).trellis.dissolved = [] := rfl
  refine ⟨k, ?_, hz ▸ by decide +kernel, hz ▸ by decide +kernel, hz ▸ rfl, ?_⟩
  · unfold State.agreesTree
    rw [k, a]
    simp [pairTree]
  have l : z.own.length = 16385 := hz ▸ sumOf_length 1 16385
  have r : z.result = [] := hz ▸ rfl
  have d : z.desc = { op := .fp32Sum, count := 16385 } := hz ▸ rfl
  unfold Sum.chunks
  rw [l, r, d]
  decide +kernel

/-! ### Harvest and the messages of a round -/

theorem hyp_HarvestStages_plain :
    (∀ st ∈ [RoundState.ingesting, .harvested], (let r : Round := { round0 with state := st, alarmAt := some (10 ^ 11), participants := [0] }
      let s := upR r
      s.memOk ∧ s.round? (0 : Fin 1024).val = some r ∧ 10 ^ 11 ≤ s.now ∧ s.running .time = true ∧ (r.harvestOpen = true ↔ st = .ingesting))) ∧
    (let base : Round := { round0 with state := .ingesting, participants := [0], policy := { round0.policy with deadline := 9 * 10 ^ 10, floor := 0 } }
     (∀ h ∈ [({ stage := .join, joined := [0] } : Harvest), { stage := .join, left := [0] }, { stage := .join, joinClosedAt := some 0 }],
       (let r := { base with harvest := h }
      (upR r).memOk ∧ r.harvestOpen = true ∧ (h.joinClosedAt.isSome = true ∨ ∀ d ∈ r.participants, d ∈ h.joined ∨ d ∈ h.left) ∧ r.joinOver (upR r).now = true ∧
        r.policy.deadline + r.graceNs < (upR r).now ∧ (upR r).graft.waits = [])) ∧
     (let r := { base with harvest := { stage := .join }, policy := { base.policy with deadline := 10 ^ 11 - base.deviceNs - 1 } }
      r.policy.deadline + r.deviceNs < (upR r).now) ∧
     (let r := { base with harvest := { stage := .join }, policy := { base.policy with deadline := 10 ^ 11 - base.deviceNs } }
      (∃ d ∈ r.participants, d ∉ r.harvest.joined ∧ d ∉ r.harvest.left) ∧ (upR r).now ≤ r.policy.deadline + r.deviceNs) ∧
     (let r := { base with harvest := { stage := .waitBitmap }, policy := { base.policy with deadline := 10 ^ 11 - base.graceNs } }
      (upR r).now ≤ r.policy.deadline + r.graceNs) ∧
     (let r := { base with harvest := { stage := .waitBitmap }, policy := { base.policy with deadline := 10 ^ 11 - base.graceNs - 1 } }
      r.policy.deadline + r.graceNs < (upR r).now ∧ (upR r).graft.waits = [] ∧ (upR r).q.cmds = [] ∧ (upR r).rounds.gate = [] ∧
        (r.ring.map Ring.undecided).getD [] = []) ∧
     (∀ floor ∈ [0, 1], (let r := { base with harvest := { stage := .bitmap 0, joined := [0], covers := [0] }, policy := { base.policy with floor := floor } }
      let mask := (interNat r.harvest.joined r.harvest.covers).filter (fun d => !r.harvest.left.contains d)
      let w := r.agree mask r.harvest.bits
      (upR r).isRoot r = true ∧ (∀ d ∈ r.harvest.joined, d ∈ r.harvest.covers ∨ d ∈ r.harvest.left) ∧ 0 + r.deviceNs < (upR r).now ∧
        r.policy.fabric = false ∧ mask.contains ((upR r).selfIn r) = true ∧ w.groupShort = false ∧
        (w.policy.floor ≤ w.harvest.survivors.length ↔ floor = 0)))) := by decide +kernel

/-- A round that a dispatched command names stays ABORTED, one that none names is CLOSED (`RoundAborted`). -/
theorem hyp_RoundAborted :
    (let c := { cmdAt ((pk [7]).withOp 0x0204) (.done 0 .ok [] 0) with words := [w32 7].map BitVec.toNat }
     let s0 := upR round0
     let s : State := { s0 with q := { s0.q with cmds := [c] } }
     s.memOk ∧ Tab.sorted s.rounds.table = true ∧ s.named 0 = true ∧ (∀ c ∈ s.q.cmds, c.phase.isDone = true)) ∧
    (Tab.sorted (upR round0).rounds.table = true ∧ (upR round0).named 0 = false) := by decide +kernel

theorem hyp_HarvestStages_fabric :
    (let r := fabRound .ingesting { stage := .bitmap 0, joined := [0], covers := [0], bits := [3] }
     let s := upFabRound r
     s.memOk ∧ s.round? (1023 : Fin 1024).val = some r ∧ r.harvestOpen = true ∧ s.isRoot r = true ∧ r.shadow = false ∧ s.standby r = some 1 ∧
      (∀ d ∈ r.harvest.joined, d ∈ r.harvest.covers ∨ d ∈ r.harvest.left) ∧ (r.origin 0).isSome = true ∧ s.mirroring 1023 = false ∧
      r.harvest.decided = false ∧ s.agreesTree pairTree = true ∧ finds s 0 7 1 1023 r 1 = true ∧
      (∀ k ∈ [[0], [1]], hears s from1 (.result pairTree 7 k [3]) = true ∧ hears s from1 (.propose pairTree 7 k [3]) = true) ∧
      r.harvest.stage ≠ .done ∧ s.q.cmds = [] ∧ s.rounds.gate = [] ∧ (r.ring.map Ring.undecided).getD [] = [] ∧
      (let w := r.agree [0] [3]
       ([0] : List Nat).contains (s.selfIn r) = true ∧ w.policy.floor ≤ w.harvest.survivors.length ∧ w.groupShort = false) ∧
      ([1] : List Nat).contains (s.selfIn r) = false ∧ 0 + 2 * r.deviceNs ≤ s.now) ∧
    (let r := fabRound .ingesting { stage := .waitBitmap }
     let s := upFabRound r
     (∀ t ∈ [0, 10 ^ 11], r.harvest.stage ≠ .bitmap t) ∧
      max (r.policy.deadline + r.graceNs) (min (r.harvest.joinClosedAt.getD (r.policy.deadline + r.deviceNs)) (r.policy.deadline + r.deviceNs)) +
        2 * r.deviceNs ≤ s.now ∧ r.harvest.stage ≠ .result) ∧
    (let r : Round := { fabRound .ingesting { stage := .join, joined := [1], covers := [1], bits := [3], acked := false, sentAt := 10 ^ 11 - 100000 } with
       self := some 1, homes := [(1, [3])] }
     let s := upFabRound r
     s.memOk ∧ s.standby r = some (s.selfIn r) ∧ s.isRoot r = false ∧ r.shadow = false ∧ r.harvest.proposed = false ∧ r.harvest.decided = false ∧
      r.bitmapLatest + r.deviceNs + 200000 ≤ s.now ∧ (r.origin s.ownFid).isSome = true ∧ s.mirroring 1023 = false ∧
      (let mask := (interNat r.harvest.joined r.harvest.covers).filter (fun d => !r.harvest.left.contains d)
       let w := ({ r with harvest := { r.harvest with decided := true } } : Round).agree mask r.harvest.bits
       mask.contains (s.selfIn r) = true ∧ w.policy.floor ≤ w.harvest.survivors.length ∧ w.groupShort = false) ∧
      r.harvest.acked = false ∧ r.harvest.sentAt + 100000 ≤ s.now ∧ r.contributes = true ∧ treeParent r.live (s.selfIn r) = some 0) ∧
    (let r := fabRound .ingesting { decided := true }
     finds (upFabRound r) 0 7 1 1023 r 1 = true ∧ r.harvest.decided = true) := by
  decide +kernel

/-- A frame out of order, a packet for another device, one that is late or stale, one met before, and one from the other side of a cold
frame. -/
theorem hyp_RoundMessages_frames :
    let m : RoundMsg := .leave pairTree 7
    let s := upTrellis []
    RoundRow from1 m (.leave from1 m) ∧ s.memOk ∧ (1 : W16) ≠ (s.port 0).expected ∧ (s.port 1).state ≠ .active ∧
      s.takes (via0 0) (.message 0 (msgFrom 1 2).h m) = true ∧ s.spetar.fid = some 0 ∧ s.running .fab = true ∧ s.accepts = true ∧
      s.expired (inFrom 1 0).h = true ∧ s.expired from1.h = false ∧
      ({ s with spetar := { s.spetar with highest := [(1, 32769)] } } : State).seen from1.h = .stale ∧
      ({ s with spetar := { s.spetar with applied := [(1, [{ psn := 0, at_ := 10 ^ 11, status := 0 }])] } } : State).seen from1.h = .kept 0 ∧
      comes s { from1 with h := { from1.h with cold := true } } m = true ∧ s.sameFrame { from1 with h := { from1.h with cold := true } } m = false :=
  ⟨by simp [RoundRow], by decide +kernel⟩

theorem hyp_RoundMessages :
    (∀ st ∈ [RoundState.ingesting, .sealed], (let r := fabRound st {}
      let s := upFabRound r
      s.memOk ∧ s.agreesTree pairTree = true ∧ finds s 0 7 1 1023 r 1 = true ∧ r.policy.fabric = true ∧
        (∀ m ∈ [RoundMsg.leave pairTree 7, .abort 0 7 1, .homeMap 0 7 0 64 [3], .stateChange 0 7 false 2, .partner 0 7 (some (5, 1)), .codedKey 0 7 3 [],
          .openRequest 0 7 r.policy.words r.policy.cipher.code none, .openRequest 0 7 [] 0 none, .openRequest 0 8 [] 0 none],
          hears s from1 m = true) ∧
        r.participants.contains 1 = true ∧ (r.state.late = true ↔ st ≠ .ingesting) ∧
        (s.upTargets r).head? ≠ some 1 ∧ r.harvest.stage ≠ .result ∧ r.allIn r.participants r.harvest.joined = false ∧ ¬r.policy.words = [] ∧
        r.home 3 ≠ some 1 ∧ r.early = [] ∧ r.state ≠ .released ∧ r.state.isAborted = false ∧ r.harvest.stage ≠ .done ∧
        (2 : W16) ≠ r.tokenEpoch ∧ 1 ≠ r.tokenHolder ∧ Tab.sorted s.rounds.table = true ∧
        s.q.cmds = [] ∧ s.rounds.gate = [] ∧ (r.ring.map Ring.undecided).getD [] = [] ∧ r.leader = s.ownFid ∧
        s.roundEntry (Fin.ofNat 64 0) (8 : W32).toNat = none)) := by decide +kernel

/-- Device 1 hears device 0, its parent in the tree, the holder of the token and home of client 3. -/
theorem hyp_RoundMessages_parent :
    (∀ st ∈ [RoundState.ingesting, .sealed], (let r := fabRound st { stage := .join, joinClosedAt := some 0 }
      let s : State := { upFabRound r with spetar := { upHear.spetar with fid := some 1 } }
      s.memOk ∧ s.agreesTree pairTree = true ∧ finds s 0 7 0 1023 r 0 = true ∧
        (∀ m ∈ [RoundMsg.leave pairTree 7, .stateChange 0 7 false 1, .stateChange 0 7 true 1, .codedKey 0 7 3 []], hears s from0 m = true) ∧
        r.participants.contains 0 = true ∧ (s.upTargets r).head? = some 0 ∧ r.contributes = true ∧ (1 : W16) = r.tokenEpoch ∧ 0 = r.tokenHolder ∧
        (r.state.rank < 5 ↔ st = .ingesting) ∧ r.home 3 = some 0)) := by decide +kernel

theorem hyp_RoundMessages_follow :
    (let c := cmdAt ((pk [7]).withOp 0x0200) (.executing (.openFollow [7] 0))
     let s := upCmds [c]
     let s : State := { s with spetar := upHear.spetar, time := upHear.time }
     s.memOk ∧ hears s from1 (.openRefuse 0 7 1 0) = true ∧ s.followers 0 7 = (c, [7], 0) :: [] ∧ s.cmd? c.src c.id = some c ∧ c.mirrored = none ∧ c.pkt.header.signal = false ∧
      (∀ d ∈ s.q.cmds, d.src = c.src → d.chain ≠ .after c.id) ∧ s.graft.waits = []) := by decide +kernel

/-! ### Keys that pass their check -/

/-- The device's roots, all zero. -/
def rootedShed : Shed := { pufRoot := some (zeros 32), batteryRoot := some (zeros 32) }

/-- Slot 16 before its tag: every use allowed, and the shortest wrapped key that unwraps, the integrity value alone (a key of no
half block: the check of R691 is met without running the cipher). -/
def shortRecord : SlotRec :=
  { state := .valid, owner := 0, usage := 0x1F, mask := 0xFF, length := 32, generation := 1, wrapped := List.replicate 8 0xA6 }

def slotRecord : SlotRec := { shortRecord with tag := slotTag (deviceKeyOf (zeros 32) "ARKSINT1") 16 shortRecord }

def keyedShed : Shed := { rootedShed with slots := [(16, slotRecord)] }

/-- A slot that passes every check of R691 and whose use is allowed gives its key. -/
theorem checkSlot_keyed {s : State} (h : s.shed = keyedShed) (u : SlotUse) (hu : u.usage slotRecord.usage = true)
    (hm : slotRecord.mask.getLsbD u.mask = true) (hl : u.length.any (· != slotRecord.length) = false) : s.checkSlot 16 u = (.ok [], s) := by
  have t : (slotRecord.tag == slotTag (deviceKeyOf (zeros 32) "ARKSINT1") 16 slotRecord) = true := by
    have e : slotRecord.body = shortRecord.body := rfl
    unfold slotTag
    rw [e]
    exact beq_self_eq_true _
  have r : s.slot 16 = slotRecord := by
    unfold State.slot
    rw [h]
    rfl
  have k : s.slotKey 16 slotRecord = some [] := by
    unfold State.slotKey State.slotIntegrity State.slotKek
    rw [h]
    show (if (slotRecord.tag == slotTag (deviceKeyOf (zeros 32) "ARKSINT1") 16 slotRecord && true) = true then _ else none) = some []
    rw [t]
    rfl
  unfold State.checkSlot
  rw [r]
  show (if s.shed.pufRoot.isNone = true then _ else match s.slotKey 16 slotRecord with
    | none => _
    | some k => if (!u.usage slotRecord.usage) = true then _ else if (!slotRecord.mask.getLsbD u.mask) = true then _
      else if u.length.any (· != slotRecord.length) = true then _ else (Except.ok k, s)) = _
  rw [h, k, hu, hm, hl]
  rfl

/-- The service state with partition 0's attestation key in slot 16 and the random unit serving. -/
def upKeyed : State := { upRng id with shed := keyedShed }

theorem linkKey_keyed {s : State} (h : s.shed = keyedShed) (e : s.spetar.encSlot = 16) : s.linkKey.1 = some [] := by
  unfold State.linkKey
  rw [e, checkSlot_keyed h useFabric rfl rfl rfl]

/-- Port 15 in training with the link key in slot 16; a peer may run encrypted too. -/
def upLinkKey : State :=
  let s := upPort { state := .training, trainingSince := some (10 ^ 11 - 50000) }
  { s with shed := keyedShed, spetar := { s.spetar with encMode := true, encSlot := 16 } }

theorem hyp_PortControl_keyed :
    let s := upLinkKey
    (s.memOk ∧ s.now ≤ 10 ^ 11 - 50000 + 50000 ∧ s.oeRuns (15 / 4) = true ∧ s.spetar.encMode = true) ∧ s.linkKey.1 = some [] :=
  ⟨by decide +kernel, linkKey_keyed rfl rfl⟩

theorem attestKey_keyed {s : State} {r : Partition} (h : s.shed = keyedShed) (hp : s.partition? 0 = some r) (hs : r.slot = 16) :
    s.attestKey 0 = (.ok [], s) := by
  unfold State.attestKey
  rw [hp]
  show s.checkSlot r.slot useProve = _
  rw [hs]
  exact checkSlot_keyed h useProve rfl rfl rfl

/-! ### Rounds -/

/-- ROUND_OPEN of round 9 with the ticket in the last 1 KiB of the quota: deadline in 1 s, floor 1,000, two shares with threshold 2. -/
def openPk : Packet :=
  pkBig [9, 0, (10 ^ 11 + 10 ^ 9) % 2 ^ 32, (10 ^ 11 + 10 ^ 9) / 2 ^ 32, 1000, 0, 1, 2 * 65536 + 2, 0, 1000, 500, 0, lastByte + 1 - 1024]

theorem hyp_RoundRows_open :
    (upKeyed.memOk ∧ upKeyed.ready specRoundOpen q00 openPk = true ∧ upKeyed.partition? 0 = some part0 ∧ upKeyed.graft.role ≠ .secondary ∧
      bit (openPk.word 1) 0 = false ∧ upKeyed.openFails 0 part0 false openPk.word = none ∧ upKeyed.random.serving = true ∧
      upKeyed.roomForRound 0 = some (0, 0)) ∧
    ∃ ps u v y, (upKeyed.atBody specRoundOpen q00 openPk).claim q00 (pair openPk.word 12) 1024 true = (.ok ps, u) ∧
      (u.holding q00 (upKeyed.nextCmd q00) ps).attestKey 0 = (.ok [], v) ∧
      (v.draw instDevice 32).2.openRound 0 openPk.word part0.policy.cipher (v.draw instDevice 32).1 (some (ps, pair openPk.word 12, []))
        [upKeyed.ownFid] [] = some (0, y) := by
  refine ⟨by decide +kernel, ?_⟩
  have h : okThen ((upKeyed.atBody specRoundOpen q00 openPk).claim q00 (pair openPk.word 12) 1024 true) (fun ps u =>
        let v := u.holding q00 (upKeyed.nextCmd q00) ps
        ((v.draw instDevice 32).2.openRound 0 openPk.word part0.policy.cipher (v.draw instDevice 32).1 (some (ps, pair openPk.word 12, []))
          [upKeyed.ownFid] []).map (·.1) == some 0 && (v.partition? 0).any (fun r => r.slot == 16)) = true := by decide +kernel
  obtain ⟨ps, u, c, k⟩ := okThen_iff.mp h
  have w : u.shed = keyedShed := (claim_ok_reads c).1.shed
  simp only [Bool.and_eq_true, beq_iff_eq, Option.map_eq_some_iff, Option.any_eq_true] at k
  obtain ⟨⟨⟨n, y⟩, o, e⟩, r, hp, hs⟩ := k
  exact ⟨ps, u, _, y, c, attestKey_keyed w hp hs, by rw [o, show n = 0 from e]⟩

/-- Four bytes of a layout, a cohort of clients 3 and 4, and the ring's control words, at the ends of partition 0's quota. -/
def upData (r : Round) : State :=
  { upR r with part := { up.part with mem := [(512 * chunkBytes, 2), (513 * chunkBytes, 0x18), (516 * chunkBytes - 4096, 5)] } }

theorem hyp_RoundRows_bind :
    (let r := { round0 with modulus := none, segs := [] }
     let s := upData r
     let p := pk [7, 1, 0, 0, 0, 0]
     s.memOk ∧ s.shadowEntry 0 7 = none ∧ s.roundEntry 0 (p.word 0) = some 0 ∧ s.round? 0 = some r ∧ s.ready specRoundLayout q00 p = true ∧ r.state = .opened ∧
      r.modulus = none ∧ modulusOf (p.word 2) (p.word 3) = some .m16 ∧ r.policy.coded = decide (p.word 2 = 4) ∧
      okThen ((s.atBody specRoundLayout q00 p).claim q00 (pair p.word 4) (4 * p.word 1) false) (fun ps u =>
        okThen ((u.holding q00 0 ps).readRange (srcPartByte q00) ps (pair p.word 4) (4 * p.word 1)) (fun b v =>
          residues 4 b == [2] && (v.roundAlloc 0 (layoutBytes .m16 [2])).isSome)) = true ∧
      ended (.roundLayout q00 p) s = some (.ok, [])) ∧
    (let s := upData round0
     let p := pk [7, 0, 64, 0, chunkBytes, 0, lastByte + 1 - 4096, 0, 12]
     s.memOk ∧ s.roundEntry 0 (p.word 0) = some 0 ∧ s.round? 0 = some round0 ∧ s.ready specIngestBind q00 p = true ∧ round0.state = .opened ∧
      round0.modulus.isSome = true ∧ s.muted round0 = false ∧ round0.policy.fabric = false ∧
      okThen ((s.atBody specIngestBind q00 p).claim q00 (pair p.word 4) (p.word 2 / 8) false) (fun ps u =>
        okThen ((u.holding q00 0 ps).readRange (srcPartByte q00) ps (pair p.word 4) (p.word 2 / 8)) (fun b v =>
          okThen ((v.modCmd q00 0 (fun d => { d with inputs := d.inputs ++ b })).claim q00 (pair p.word 6) (2 ^ p.word 8) true) (fun rp w =>
            okThen ((w.holding q00 0 rp).readRange (srcPartByte q00) rp (pair p.word 6) 64) (fun ctl x =>
              (setBitsFrom 0 b).map (fun n => n + p.word 1) == [3, 4] && leNat (slice ctl 0 4) == 5 && (x.roundAlloc 0 (p.word 2 / 8)).isSome)))) = true ∧
      ended (.ingestBind q00 p) s = some (.ok, [])) := by decide +kernel

theorem hyp_RoundRows_rest :
    (∀ st ∈ [RoundState.opened, .ingesting, .released, .aborted .late], (let s := upR { round0 with state := st }
      s.memOk ∧ s.roundEntry 0 7 = some 0 ∧ s.ready specHarvest q00 (pk [7]) = true ∧ s.ready specRoundAbort q00 (pk [7, 0]) = true ∧
        Fin.ofNat 64 ((pk [7, 0]).word 1) = 0 ∧ s.muted round0 = false ∧ s.q.cmds = [] ∧ s.rounds.gate = [] ∧ (round0.ring.map Ring.undecided).getD [] = [] ∧
        Tab.sorted s.rounds.table = true ∧ ended (.roundAbort q00 (pk [7, 0])) s = some (.ok, []))) ∧
    (∀ n ∈ [0, 1, 8], ∀ d ∈ [10 ^ 11, 10 ^ 11 + 1], (let s := upR { round0 with state := .ingesting, policy := { round0.policy with deadline := d } }
      s.memOk ∧ s.ready specPlacementRevise q00 (pk [7, 0, n]) = true ∧ (pk [7, 0, n]).word 1 < round0.segs.length ∧ (s.now < d ↔ d = 10 ^ 11 + 1) ∧
        ended (.placementRevise q00 (pk [7, 0, n])) s = some (.ok, [])) ∧
      round0.segs.length = 1) := by decide +kernel

/-- A share record of client 3 held by client 4, of its self mask. -/
def shareBytes : Bytes := [1, 1, 0, 0, 7, 0, 0, 0, 3, 0, 0, 0, 4, 0, 0, 0] ++ zeros 112

/-- A round of clients 3 and 4, both home here, that awaits shares. -/
def revealRound (st : RoundState) : Round :=
  { round0 with state := st, homes := [(0, [3, 4])], latches := [(3, .self), (4, .self)], harvest := { stage := .done, mask := [0], survivors := [3, 4] }
                contributions := [(3, { client := 3, segs := [0], codedKey := [] }), (4, { client := 4, segs := [0], codedKey := [] })] }

/-- The round beside the share record in the last 128 bytes of the quota. -/
def upShare (r : Round) : State :=
  { upR r with part := { up.part with mem := [(516 * chunkBytes - 128, 1), (516 * chunkBytes - 127, 1), (516 * chunkBytes - 124, 7), (516 * chunkBytes - 120, 3),
    (516 * chunkBytes - 116, 4)] } }

theorem hyp_RevealRows_submit :
    let p := pk [7, 1, lastByte + 1 - 128]
    (∀ st ∈ [RoundState.harvested, .revealing], (let r := revealRound st
      let s := upShare r
      s.memOk ∧ s.shadowEntry 0 (p.word 0) = none ∧ s.roundEntry 0 (p.word 0) = some 0 ∧ s.round? 0 = some r ∧ r.shadow = false ∧
        s.ready specSharesSubmit q00 p = true ∧ s.muted r = false ∧ r.barrier = none ∧ r.policy.fabric = false ∧ r.recordTargets shareBytes = [s.selfIn r] ∧ r.keyAwaited shareBytes = false ∧
        okThen (readRecords (s.ctxOf specSharesSubmit q00 p) r (s.atBody specSharesSubmit q00 p) (p.word 1) (pair p.word 2) [])
          (fun l v => l == [shareBytes] && (st != .revealing || (v.decideRecord 0 shareBytes).1 == .accepted)) = true)) ∧
    ended (.sharesSubmit q00 p) (upShare (revealRound .revealing)) = some (.ok, [1, 0, 0, 0]) := by decide +kernel

theorem hyp_RevealRows_unmask :
    (let r := revealRound .revealing
     let s := upR r
     s.memOk ∧ s.round? 0 = some r ∧ s.ready specRevealCombine q00 (pk [7]) = true ∧ r.state = .revealing ∧ r.decoding = false ∧ s.combining 0 = false ∧
      s.running .agr = true ∧ Tab.find? r.badData storesKey = none ∧
      (let u := s.atBody specRevealCombine q00 (pk [7])
       (u.roundAlloc 0 (u.combineBytes 0)).isSome = true)) ∧
    (∀ used ∈ [0, 5 * chunkBytes], (let c := cmdAt ((pk [7]).withOp 0x0206) (.executing (.combine 0 0))
      let s0 := upR { revealRound .revealing with bytesUsed := used }
      let s : State := { s0 with q := { s0.q with cmds := [c] } }
      let u := s.returnStore 0 0
      s.memOk ∧ s.cmd? q00 0 = some c ∧ c.mirrored = none ∧ c.pkt.header.signal = false ∧ (∀ d ∈ s.q.cmds, d.src = q00 → d.chain ≠ .after 0) ∧
        s.graft.waits = [] ∧ ((u.roundAlloc 0 (u.combineBytes 0)).isSome = true ↔ used = 0) ∧
        (match u.roundAlloc 0 (u.combineBytes 0) with
         | some z => (z.round? 0).isSome
         | none => true) = true)) ∧
    (∀ l ∈ [([] : List Nat), [3]], (let r := { revealRound .revealing with homes := [(0, l)], latches := [(3, .done)], seeds := [(3, zeros 32)] }
      let s := upR r
      let items := (r.clientsOf (s.selfIn r)).flatMap (clientMasks (r.modulus.getD .m16) r)
      s.memOk ∧ s.ready specUnmask q00 (pk [7]) = true ∧ r.policy.coded = false ∧ r.unmasking = false ∧ s.shortOf r = [] ∧
        Tab.find? r.badData storesKey = none ∧
        (s.setRound 0 { r with strips := r.strips ++ items, unmasking := true }).stripsIdle 0 = decide (l = []))) := by decide +kernel

theorem hyp_RevealRows_coded :
    (∀ l ∈ [([] : List Nat), [3, 4]], (let r := { revealRound .revealing with
        policy := { round0.policy with coded := true }, homes := [(0, l)], codedStore := [(3, { holder := 3, vals := [0] }), (4, { holder := 4, vals := [0] })] }
      let s : State := { upR r with plot := upUnits.plot }
      s.memOk ∧ s.round? 0 = some r ∧ s.ready specCodedDecode q00 (pk [7]) = true ∧ r.policy.coded = true ∧ r.decoding = false ∧ s.combining 0 = false ∧
        Tab.find? r.badData storesKey = none ∧ s.hasSlots q00 = true ∧ (List.range 128).any s.plotUsable = true ∧
        (∀ g ∈ s.groupsHere r, r.codedDone.contains g = true ∨ r.policy.threshold ≤ (r.decodeFrom g).length) ∧ s.stripsIdle 0 = true ∧
        (l = [] → diffNat (s.groupsHere r) r.codedDone = []) ∧ (l ≠ [] → diffNat (s.groupsHere r) r.codedDone = [1]))) := by decide +kernel

theorem hyp_RevealRows_seal :
    (let r := revealRound .unmasked
     let s := upR r
     s.memOk ∧ s.ready specSeal q00 (pk [7]) = true ∧ s.lease? 7 0 = none ∧ s.muted r = false ∧ (∀ i < r.segs.length, Tab.find? r.badData i = none) ∧
      Tab.find? r.badData countsKey = none ∧ r.policy.fabric = false ∧ ended (.seal q00 (pk [7])) s = some (.ok, [1, 0, 1])) ∧
    (let r := fabRound .unmasked { stage := .done, mask := [0, 1] }
     let s := upFabRound r
     s.memOk ∧ s.ready specSeal q00 (pk [7]) = true ∧ s.roundEntry 0 7 = some 1023 ∧ s.lease? 7 1023 = none ∧ s.muted r = false ∧
      (∀ i < r.segs.length, Tab.find? r.badData i = none) ∧ Tab.find? r.badData countsKey = none ∧ r.policy.fabric = true ∧ s.formed? (tkey r.part r.policy.trellis) = some pairTrellis ∧
      treeChildren r.harvest.mask (s.selfIn r) ≠ []) := by decide +kernel

theorem hyp_RevealMessages :
    (∀ b ∈ [none, some ({ t0 := 10 ^ 11, starter := 1, joined := [1] } : Barrier)], (let r := { fabRound .harvested {} with barrier := b }
      let s := upFabRound r
      s.memOk ∧ s.round? (1023 : Fin 1024).val = some r ∧ s.agreesTree pairTree = true ∧ finds s 0 7 1 1023 r 1 = true ∧ r.state = .harvested ∧
        hears s from1 (.barrierJoin pairTree 7 (10 ^ 11) 1 [1]) = true ∧ hears s from1 (.barrierStart pairTree 7 (10 ^ 11) 1) = true)) ∧
    (∀ floor ∈ [2, 3], (let b : Barrier := { t0 := 10 ^ 11 - 2000 * 1000, starter := 0, joined := [0] }
      let r := { revealRound .harvested with barrier := some b, policy := { round0.policy with floor := floor } }
      let s := upR r
      let w := r.reAgree b.joined
      s.memOk ∧ s.mirroring 0 = false ∧ r.policy.fabric = false ∧ (∀ d ∈ r.harvest.mask, d ∈ b.joined ∨ d ∈ r.harvest.left) ∧ r.early = [] ∧
        b.t0 + r.deviceNs ≤ s.now ∧ s.q.cmds = [] ∧ s.rounds.gate = [] ∧ (r.ring.map Ring.undecided).getD [] = [] ∧ w.groupShort = false ∧ (w.policy.floor ≤ w.harvest.survivors.length ↔ floor = 2))) ∧
    (∀ st ∈ [RoundState.harvested, .revealing], (let r := { fabRound st {} with barrier := some { t0 := 10 ^ 11, starter := 0, joined := [0] } }
     let s := upFabRound r
     s.memOk ∧ finds s 0 7 1 1023 r 1 = true ∧ hears s from1 (.record 0 7 5 shareBytes) = true ∧ (r.state.late = true ↔ st = .revealing) ∧
      r.participants.contains 1 = true ∧ 1 ≠ s.selfIn r ∧ r.keyAwaited shareBytes = false)) ∧
    (let r := { fabRound .revealing { survivors := [3], mask := [0, 1] } with
       contributions := [], policy := { (fabRound .revealing {}).policy with coded := true } }
     r.state.late = true ∧ r.keyAwaited ([3, 1, 0, 0, 7, 0, 0, 0, 3, 0, 0, 0] ++ zeros 20 ++ [1] ++ zeros 31) = true) := by decide +kernel

/-! ### Ingest -/

/-- A ring of 4 KiB in the last pages of the quota, one descriptor offered. -/
def ring0 (ds : List Desc) : Ring :=
  { pages := [516 * chunkBytes - pageBytes], log2 := 12, base := 0, tailFence := 5, winLo := 0, winLen := 64, agent := q00, descs := ds, offered := ds.length }

/-- Client 3's bundle of 64 bytes at host address 0, as descriptor `n`. -/
def desc0 (n : Nat) (st : DescState) : Desc :=
  { n := n, stamp := 0, roundId := 7, client := 3, bodyAddr := 0, bodyBytes := 64, segCount := 1, state := st }

/-- An INGESTING round with the ring, client 3 in its cohort. -/
def ingestRound (g : Ring) : Round := { round0 with state := .ingesting, ring := some g, cohort := [3] }

/-- Its state: fence 5 offers `tail` descriptors; the first descriptor in memory names client `c`. -/
def upIngest (c : Byte) (tail : Nat) (r : Round) : State :=
  let b := 516 * chunkBytes - pageBytes + 64
  { upR r with
    part := { up.part with mem := [(b, 7), (b + 4, c), (b + 16, 64), (b + 20, 1)] }
    q := { up.q with fences := [(5, BitVec.ofNat 64 tail)] } }

theorem hyp_Ingest_fetch :
    (∀ c ∈ [(3 : Byte), 4], (let g := ring0 []
      let r := ingestRound g
      let s := upIngest c 1 r
      s.memOk ∧ s.running .fe = true ∧ s.round? (0 : Fin 1024).val = some r ∧ r.ring = some g ∧ s.heldDescs < 32768 ∧
        nextRobin (s.ringsWith s.ringFetchable) s.rounds.lastFetch = some (0 : Fin 1024).val ∧ r.state.isAborted = false ∧
        (match (s.readRing g (g.slotAddr g.offered) 64).1 with
          | .ok b => fetchTest r g (parseDesc g.offered s.now b) b == if c = 3 then none else some (.notInCohort, 5)
          | .error _ => false) = true ∧
        g.descs = [] ∧ g.retired = g.offered ∧ g.doneEn = false ∧ (after (.descriptorFetch 0) s).rounds.lastFetch = 0)) ∧
    (let d := desc0 0 .held
     let g := ring0 [d]
     let r := ingestRound g
     let s := upIngest 3 1 r
     s.memOk ∧ nextRobin (s.ringsWith s.ringGrantable) s.rounds.lastGrant = some (0 : Fin 1024).val ∧
      s.nextGrant g = some d ∧ d.bodyBytes ≠ 0 ∧ s.now ≤ r.policy.deadline + 1000 * r.policy.harvestGraceUs ∧
      Tab.find? r.contributions d.client = none ∧ (after (.stagingGrant 0) s).rounds.stagingUsed = 65536) ∧
    (let d := desc0 0 .held
     let r (ds : List Desc) := { ingestRound (ring0 ds) with policy := { round0.policy with deadline := 10 ^ 11 - 5000001 } }
     (∀ ds ∈ [[], [d]], (upIngest 3 1 (r ds)).memOk ∧ (r ds).policy.deadline + 1000 * (r ds).policy.harvestGraceUs < (upIngest 3 1 (r ds)).now ∧
       (r ds).state.isAborted = false ∧ (upIngest 3 1 (r ds)).bundleSent 0 d.n = false) ∧
     (let s0 := upIngest 3 1 (r [d])
      let s : State := { s0 with graft := { s0.graft with waits := [(0, .bundle 0 0)] } }
      s.bundleSent 0 d.n = true ∧ s.memOk) ∧ (ring0 []).undecided = [] ∧ (ring0 [d]).undecided = [d.n] ∧ (ring0 [d]).retired = d.n ∧ (ring0 [d]).doneEn = false) := by
  decide +kernel

/-- A descriptor of no bytes is decided when staging would be granted. -/
theorem hyp_Ingest_empty :
    (let d := { desc0 0 .held with bodyBytes := 0 }
     let g := ring0 [d]
     let r := ingestRound g
     let s := upIngest 3 1 r
     s.memOk ∧ nextRobin (s.ringsWith s.ringGrantable) s.rounds.lastGrant = some (0 : Fin 1024).val ∧ s.nextGrant g = some d ∧ g.descs = [d] ∧
      g.retired = d.n ∧ g.doneEn = false ∧ d.bodyBytes = 0 ∧ r.state.isAborted = false ∧ s.now ≤ r.policy.deadline + 1000 * r.policy.harvestGraceUs ∧
      Tab.find? r.contributions d.client = none) := by decide +kernel

/-- A strip of `round0` loaded in Bed `k`. -/
def loaded (applied : Nat) (at_ : Nat) : StripOp :=
  { entry := 0, seg := 0, rep := 0, strip := 0, loadedAt := at_, applied := applied, sram := [5, 6], bundles := [], masks := 0 }

theorem hyp_Ingest_strips :
    (let r := { round0 with strips := [addItem] }
     let s := upR r
     s.memOk ∧ s.bedServes (0 : Fin 32).val = true ∧ (s.bed 0).op = none ∧ s.nextStrip 0 = some (0, r, addItem) ∧ Tab.find? r.badData addItem.seg = none ∧
      s.round? 0 = some r ∧ r.modulus = some .m16 ∧ r.badStaged addItem = false ∧ (after (.stripOperation 0 .clean) s).lease? 3 0 ≠ none) ∧
    (∀ o ∈ [loaded 0 (10 ^ 11 - 100000), loaded 256 (10 ^ 11)], (let s0 := upR round0
      let s : State := { s0 with rounds := { s0.rounds with beds := [(31, { op := some o })] } }
      s.memOk ∧ s.bedServes (31 : Fin 32).val = true ∧ (s.bed 31).op = some o ∧ s.round? o.entry = some round0 ∧ s.q.cmds = [] ∧ s.rounds.gate = [] ∧
        (round0.ring.map Ring.undecided).getD [] = [] ∧ round0.state.isAborted = false ∧ round0.state ≠ .released ∧ Tab.sorted s.rounds.beds = true ∧
        (256 ≤ o.applied ∨ o.loadedAt + 100000 ≤ s.now) ∧ ((after (.stripResidencyLimit 31) s).bed 31).op = none)) ∧
    (let r := { round0 with state := .ingesting, segs := [{ len := 2, pinned := true }, { len := 2 }] }
     let s := upR r
     s.memOk ∧ s.running .fe = true ∧ s.rounds.autoRevise = true ∧ s.boundaryNow = some (10 ^ 11) ∧ s.round? 0 = some r ∧ r.state = .ingesting ∧
      s.now < r.policy.deadline ∧ r.segs[0]? = some { len := 2, pinned := true } ∧ r.segs[1]? = some { len := 2 }) := by decide +kernel

/-- Staging with an error under a loaded strip, a strip with nothing left to take, and a time off the revision boundaries. -/
theorem hyp_Ingest_loaded :
    (let o := loaded 0 (10 ^ 11)
     let r := { round0 with strips := [addItem], ring := some { ring0 [] with stagingUce := [0] } }
     let s0 := upR r
     let s : State := { s0 with rounds := { s0.rounds with beds := [(31, { op := some o })] } }
     s.memOk ∧ s.bedServes (31 : Fin 32).val = true ∧ (s.bed 31).op = some o ∧ s.round? o.entry = some r ∧ r.state.isAborted = false ∧
      r.state ≠ .released ∧ r.modulus.isSome = true ∧ s.stripDone 31 = false ∧ s.q.cmds = [] ∧ s.rounds.gate = [] ∧
      (r.ring.map Ring.undecided).getD [] = [] ∧ ∃ y ∈ (takeItems (s.wants o r) (256 - o.applied) r.strips).1, r.badStaged y = true) ∧
    (let o := loaded 0 (10 ^ 11)
     let s0 := upR round0
     let s : State := { s0 with rounds := { s0.rounds with beds := [(31, { op := some o })] } }
     s.bedServes (31 : Fin 32).val = true ∧ (∀ y ∈ round0.strips, s.wants o round0 y = false) ∧
      ((after (.stripOperation 31 .clean) s).bed 31).op = none) ∧
    (let s := upTime (fun t => { t with t40 := t40At (10 ^ 11 + 3) })
     s.memOk ∧ s.boundaryNow = none) := by decide +kernel

/-! ### The Release gate -/

/-- A SEALED round of partition 0 with `n` contributors to its one segment. -/
def sealedRound (n : Nat) : Round := { round0 with state := .sealed, segs := [{ len := 2, contributors := n, replicas := [(0, [(0, [5, 6])])] }] }

/-- RELEASE of segment 0 without an export (DEST 0), its record in the last 128 bytes of the quota. -/
def releasePk (dest : Nat) : Packet := pk [7, 0, dest + 256 * (256 + 7) * (if dest = 2 then 1 else 0), 0x3F800000, 0, 0, lastByte + 1 - 128]

/-- The keyed service state on the fabric with the round in entry 0. -/
def upSealed (n : Nat) : State :=
  { upFab with shed := keyedShed, random := upKeyed.random, rounds := { up.rounds with table := [(0, sealedRound n)] } }

/-- The state in which the gate's checks run, its slot and the command in place. -/
def inGate (s : State) (p : Packet) : State :=
  ((s.atBody specRelease q00 p).setGate 0 (gateOf q00 0 0 p.word)).modCmd q00 0 (fun c => { c with phase := .executing (.releaseSlot 0) })

/-- The checks of RELEASE before the key pass, and slot 16 is the partition's attestation slot. -/
abbrev gatePasses (s : State) (g : GateSlot) (r : Round) : Prop :=
  s.round? g.entry = some r ∧ (r.state != .sealed && r.state != .released) = false ∧ g.seg < r.segs.length ∧
    (r.tokenHolder != s.selfIn r || (r.segs.getD g.seg { len := 0 }).marked || (s.isCold 0 && decide (r.policy.sigmaNum = 0))) = false ∧
    r.policy.floor ≤ (r.segs.getD g.seg { len := 0 }).contributors ∧ (r.policy.sigmaNum != 0 && !s.random.serving) = false ∧ r.part = 0 ∧
    Tab.find? r.badData countsKey = none ∧ (s.partition? 0).any (fun o => o.slot == 16) = true

/-- Then the ranges decide. -/
theorem releaseChecks_keyed {s : State} {g : GateSlot} {r : Round} (p : gatePasses s g r) (h : s.shed = keyedShed) :
    s.releaseChecks g = s.releaseRanges { g with key := [] } r := by
  obtain ⟨hr, h0, h1, h2, h3, h4, hp, hb, ho⟩ := p
  obtain ⟨o, ho, hs⟩ := Option.any_eq_true .. |>.mp ho
  unfold State.releaseChecks
  rw [hr]
  simp only [hp, hb, h0, if_neg (Nat.not_le.mpr h1), if_neg (Nat.not_lt.mpr h3), h4, attestKey_keyed h ho (beq_iff_eq.mp hs), Bool.false_eq_true, if_false]
  rw [if_neg (by rw [h2]; exact Bool.false_ne_true)]

theorem hyp_ReleaseGate_release :
    (∀ n ∈ [99, 100], ∀ d ∈ [0, 1], (let s := upSealed n
      s.memOk ∧ s.ready specRelease q00 (releasePk d) = true ∧ s.shadowEntry 0 ((releasePk d).word 0) = none ∧
        s.roundEntry 0 ((releasePk d).word 0) = some 0 ∧ s.round? 0 = some (sealedRound n) ∧ (releasePk d).word 1 < (sealedRound n).segs.length ∧
        s.muted (sealedRound n) = false ∧ s.freeGate = some 0 ∧ s.rounds.gateQueue = [] ∧ s.segProbed 0 (gateOf q00 0 0 (releasePk d).word) = false ∧
        0 ∉ s.rounds.gateHeld ∧ Tab.find? (sealedRound n).badData countsKey = none)) ∧
    (let s0 := upSealed 100
     let s : State := { s0 with rounds := { s0.rounds with gate := [(7, { gateOf (.part 0 1) 0 0 (releasePk 2).word with probing := true })] } }
     s.memOk ∧ s.ready specRelease q00 (releasePk 0) = true ∧ s.freeGate = some 0 ∧ s.rounds.gateQueue = [] ∧
      s.segProbed 0 (gateOf q00 (s.nextCmd q00) 0 (releasePk 0).word) = true) ∧
    (let s0 := upSealed 100
     let s : State := { s0 with rounds := { s0.rounds with gate := (List.range 8).map (fun k => (k, gateOf q00 k 0 (releasePk 0).word)) } }
     s.memOk ∧ s.ready specRelease q00 (releasePk 0) = true ∧ s.freeGate = none) ∧
    ((inGate (upSealed 99) (releasePk 0)).releaseChecks (gateOf q00 0 0 (releasePk 0).word)).1.isOk = false := by decide +kernel

theorem hyp_ReleaseGate_checks :
    (∀ d ∈ [0, 1, 2], ∃ g z, (inGate (upSealed 100) (releasePk d)).releaseChecks (gateOf q00 0 0 (releasePk d).word) = (.ok g, z) ∧ g.dest = d ∧ g.target = d / 2) ∧
    (upSealed 100).spetar.fid ≠ some 1 ∧ (upSealed 100).canSend 1 = true := by
  refine ⟨fun d hd => ?_, by decide +kernel, canSend_fab rfl rfl rfl rfl rfl⟩
  have f : ∀ d ∈ [0, 1, 2], gatePasses (inGate (upSealed 100) (releasePk d)) (gateOf q00 0 0 (releasePk d).word) (sealedRound 100) ∧
      okThen ((inGate (upSealed 100) (releasePk d)).releaseRanges { gateOf q00 0 0 (releasePk d).word with key := [] } (sealedRound 100))
        (fun g _ => g.dest == d && g.target == d / 2) = true := by decide +kernel
  obtain ⟨g, z, e, k⟩ := okThen_iff.mp (f d hd).2
  simp only [Bool.and_eq_true, beq_iff_eq] at k
  exact ⟨g, z, (releaseChecks_keyed (f d hd).1 rfl).trans e, k⟩

theorem hyp_ReleaseGate_slots :
    (let c : Cmd := { cmdAt ((releasePk 0).withOp 0x0209) (.executing (.releaseWait 0)) with words := (List.range 12).map (releasePk 0).word }
     let s0 := upSealed 100
     let s : State := { s0 with q := { s0.q with cmds := [c] }, rounds := { s0.rounds with gateQueue := [(q00, 0)] } }
     s.memOk ∧ s.gate? (7 : Fin 8).val = none ∧ s.rounds.gateQueue = (q00, 0) :: [] ∧ s.cmd? q00 0 = some c ∧ c.mirrored = none ∧
      c.pkt.header.signal = false ∧ (∀ d ∈ s.q.cmds, d.src = q00 → d.chain ≠ .after 0) ∧ s.graft.waits = [] ∧ s.graft.state ≠ .mirroring ∧
      s.round? 0 = some (sealedRound 100) ∧ s.muted (sealedRound 100) = false ∧ 7 ∉ s.rounds.gateHeld ∧
      Tab.find? (sealedRound 100).badData countsKey = none ∧ s.segProbed 7 (gateOf q00 0 0 (fun n => c.words.getD n 0)) = false ∧
      (let u : State := { s with rounds := { s.rounds with gateQueue := [] } }
       let g0 := gateOf q00 0 0 (fun n => c.words.getD n 0)
       let y := (u.setGate 7 g0).modCmd q00 0 (fun c => { c with phase := .executing (.releaseSlot 7) })
       gatePasses y g0 (sealedRound 100) ∧ okThen (y.releaseRanges { g0 with key := [] } (sealedRound 100)) (fun g _ => g.dest != 2) = true)) ∧
    (let s := upFabRound (fabRound .sealed {})
     let r := fabRound .sealed {}
     s.memOk ∧ finds s 0 7 1 1023 r 1 = true ∧ (1 : W16) = r.tokenEpoch ∧ r.participants.contains 1 = true ∧ (2 : W16) ≠ r.tokenEpoch ∧
      hears s from1 (.mark 0 7 0 1) = true ∧ hears s from1 (.mark 0 7 0 2) = true ∧
      finds s 0 7 9 1023 r 9 = true ∧ hears s (msgFrom 9 0) (.mark 0 7 0 1) = true ∧ r.participants.contains 9 = false) ∧
    (let g : GateSlot := { gateOf q00 0 0 (releasePk 0).word with marking := [1] }
     let s : State := { upHear with rounds := { up.rounds with table := [(0, sealedRound 100)], gate := [(7, g)] } }
     s.memOk ∧ s.msgRound 0 7 = some 0 ∧ s.round? 0 = some (sealedRound 100) ∧ s.gate? 7 = some g ∧ s.markingSlot 0 0 = some 7 ∧
      (1 : W16) = (sealedRound 100).tokenEpoch ∧ hears s from1 (.markAck 0 7 0 1) = true ∧ hears s from1 (.markAck 0 7 0 2) = true ∧
      (sealedRound 100).origin from1.h.src = some 1 ∧ g.exporting = false ∧ g.probing = false ∧
      (2 : W16) ≠ (sealedRound 100).tokenEpoch) := by decide +kernel

/-- A segment longer than one gate strip, exported to memory from slot 7. -/
def exportRound (sigma : Nat) : Round :=
  { sealedRound 100 with segs := [{ len := 32769, contributors := 100 }], policy := { round0.policy with sigmaNum := sigma } }

def exportGate (zs : List Int) : GateSlot :=
  { gateOf q00 0 0 (releasePk 1).word with exporting := true, dstPages := [(0, 512 * chunkBytes)], samples := zs }

/-- The last strip but one of an unnoised export; a strip with noise that waits for samples. -/
theorem hyp_ReleaseGate_export :
    (let g := exportGate []
     let r := exportRound 0
     let s : State := { up with rounds := { up.rounds with table := [(0, r)], gate := [(7, g)] } }
     let ready := (List.range 8).filter s.stripReady
     s.memOk ∧ s.gate? (7 : Fin 8).val = some g ∧ s.round? g.entry = some r ∧
      (ready.filter (fun k => decide (s.rounds.lastGate < k))).head?.or ready.head? = some (7 : Fin 8).val ∧ s.graft.role ≠ .held ∧ s.running .fe = true ∧
      Tab.find? r.badData g.seg = none ∧ r.policy.sigmaNum = 0 ∧ g.dest = 1 ∧
      g.pos + min (gateStrip (r.modulus.getD .m16)) ((r.segs.getD g.seg { len := 0 }).len - g.pos) < (r.segs.getD g.seg { len := 0 }).len) ∧
    (let g := exportGate []
     let r := exportRound 1
     let s : State := { upRng id with rounds := { up.rounds with table := [(0, r)], gate := [(7, g)] } }
     s.memOk ∧ s.random.serving = true ∧ s.samplerUsers = [.gate 7] ∧ s.gate? 7 = some g ∧ s.round? g.entry = some r) ∧
    ((upRng id).memOk ∧ (upRng id).random.serving = true ∧ (upRng id).samplerUsers = []) ∧
    (let c := cmdAt ((pk [1, 1, 0, 0, 4097]).withOp 0x0803) (.executing (.noise [(0, 512 * chunkBytes)] 0 4097 0))
     let s : State := { upRng id with q := { up.q with cmds := [c] } }
     s.memOk ∧ s.random.serving = true ∧ s.samplerUsers = [.fill q00 0] ∧ s.cmd? q00 0 = some c ∧ 0 + min 4096 (4097 - 0) < 4097) := by decide +kernel

/-! ### Plots and tiles -/

/-- A one by one MATMUL of INT8 with INT32 sums: A, B, D and the output in the last lines of the quota; `d` the D flags, `m` the model. -/
def matPk (d m b : Nat) : Packet :=
  pkBig [1 + d, m, 1, 0, 1, 1, lastByte + 1 - 64, 0, b, 0, lastByte + 1 - 128, 0, if d = 0 then 0 else lastByte + 1 - 192, 0, 0, 0x3F800000, 0, 128]

def weights1 : Machine.Model := { k := 1, n := 1, format := .int8, chunks := [], owner := 0 }

/-- Units and a model of one weight for partition 0. -/
def upPlots : State := { upUnits with plot := { upUnits.plot with models := [(5, weights1)], modelRegion := [(0, (0, 16))] } }

theorem hyp_PlotsAndTiles_commands :
    upPlots.memOk ∧ upPlots.hasSlots q00 = true ∧ (List.range 128).any upPlots.plotUsable = true ∧
    (let p := pk [0x10, 1, 1, 0, lastByte, 0, lastByte - 7]
     upPlots.ready specReduceIdx q00 p = true ∧ okThen ((upPlots.atBody specReduceIdx q00 p).claim q00 (pair p.word 4) (reduceBytes p.word) false) (fun ps u =>
       okThen ((u.holding q00 0 ps).claim q00 (pair p.word 6) (8 * p.word 1) true) (fun _ _ => true)) = true ∧
      working (.reduceIdx q00 p) upPlots = some (.job 0)) ∧
    (let p := pk [0x10, 1, lastByte, 0, lastByte, 0, lastByte - 1]
     upPlots.ready specEltwise q00 p = true ∧ usesB p.word = true ∧
      okThen ((upPlots.atBody specEltwise q00 p).claim q00 (pair p.word 2) (eltBytes p.word) false) (fun ps u =>
        okThen ((u.holding q00 0 ps).claim q00 (pair p.word 4) (eltBytes p.word) false) (fun pb v =>
          okThen ((v.holding q00 0 pb).claim q00 (pair p.word 6) (eltBytes p.word) true) (fun _ _ => true))) = true ∧
      working (.eltwise q00 p) upPlots = some (.job 0)) ∧
    (let p := pk [0x12, 1, lastByte, 0, 0, 0, lastByte - 1]
     upPlots.ready specEltwise q00 p = true ∧ usesB p.word = false ∧
      okThen ((upPlots.atBody specEltwise q00 p).claim q00 (pair p.word 2) (eltBytes p.word) false) (fun ps u =>
        okThen ((u.holding q00 0 ps).claim q00 (pair p.word 6) (eltBytes p.word) true) (fun _ _ => true)) = true) := by decide +kernel

/-- Every Plot disabled. -/
def upNoPlots : State := { upPlots with plot := { upPlots.plot with plots := (List.range 128).map (fun k => (k, { disabled := true })) } }

theorem hyp_PlotsAndTiles_unusable :
    let p := pk [0x10, 1, 1, 0, lastByte, 0, lastByte - 7]
    let s := upNoPlots
    s.memOk ∧ s.hasSlots q00 = true ∧ (∀ k < 128, s.plotUsable k = false) ∧ s.plot.jobs = [] ∧ s.plot.tiles = [] ∧ s.q.leases = [] ∧
      s.ready specReduceIdx q00 p = true ∧ okThen ((s.atBody specReduceIdx q00 p).claim q00 (pair p.word 4) (reduceBytes p.word) false) (fun ps u =>
        okThen ((u.holding q00 0 ps).claim q00 (pair p.word 6) (8 * p.word 1) true) (fun _ _ => true)) = true ∧
      ended (.reduceIdx q00 p) s = some (.eccUncorrectable, []) := by decide +kernel

theorem hyp_PlotsAndTiles_matmul :
    (∀ d ∈ [0, 2 ^ 13, 2 ^ 14], (let p := matPk d 0xFFFFFFFF (lastByte + 1 - 256)
      upPlots.ready specMatmul q00 p = true ∧ upPlots.matModel (upPlots.ctxOf specMatmul q00 p) = none ∧ p.word 1 = 0xFFFFFFFF ∧
        usesD p.word = decide (d ≠ 0) ∧
        okThen ((upPlots.atBody specMatmul q00 p).claim q00 (pair p.word 6) (matBytes p.word).1 false) (fun pa u =>
          okThen ((u.holding q00 0 pa).claim q00 (pair p.word 8) (matBytes p.word).2.1 false) (fun pb v =>
            okThen ((v.holding q00 0 pb).claim q00 (pair p.word 10) (matBytes p.word).2.2.1 true) (fun po w =>
              d == 0 || okThen ((w.holding q00 0 po).claim q00 (pair p.word 12) (matBytes p.word).2.2.2 false) (fun _ _ => true)))) = true ∧
        working (.matmul q00 p) upPlots = some (.job 0))) ∧
    (∀ d ∈ [0, 2 ^ 13, 2 ^ 14], (let p := matPk d 5 0
      upPlots.ready specMatmul q00 p = true ∧ upPlots.matModel (upPlots.ctxOf specMatmul q00 p) = none ∧ p.word 1 ≠ 0xFFFFFFFF ∧
        okThen ((upPlots.atBody specMatmul q00 p).claim q00 (pair p.word 6) (matBytes p.word).1 false) (fun pa u =>
          okThen ((u.holding q00 0 pa).claim q00 (pair p.word 10) (matBytes p.word).2.2.1 true) (fun po w =>
            d == 0 || okThen ((w.holding q00 0 po).claim q00 (pair p.word 12) (matBytes p.word).2.2.2 false) (fun _ _ => true))) = true ∧
        working (.matmul q00 p) upPlots = some (.job 0))) := by decide +kernel

/-- A job of one tile of `kind`, and its two tiles in the slots 0 and 1. -/
def jobOf (kind : JobKind) (p : Packet) (n : Nat) : Job :=
  { kind := kind, src := q00, cmd := 0, part := 0, params := (List.range n).map (fun k => w32 (p.word k)), serial := 0, realtime := false, limit := 128, tiles := 2, written := 2 }

def tile0 (st : TileState) : Tile := { job := 0, tile := 0, state := st, rows := 1, cols := 1 }

def upJob (j : Job) (t : Tile) (x : Plot) : State :=
  { upPlots with plot := { upPlots.plot with jobs := [(0, j)], tiles := [(0, t), (1, { tile0 .ready with tile := 1 })], plots := [(127, x)] } }

theorem hyp_PlotsAndTiles_tiles :
    (let j := jobOf .eltwise (pk [0x12, 2]) 9
     let s := upJob j (tile0 .ready) {}
     s.memOk ∧ s.plotFree (127 : Fin 128).val = true ∧ s.plotServes 127 = some 0 ∧ s.chooseTile 0 (s.plotOf 127).shadow = some (0, tile0 .ready, j) ∧
      ((after (.tileClaim 127 .clean 0) s).plotOf 127).claimed = some 0) ∧
    (∀ y ∈ [(JobKind.reduceIdx, pk [0x10, 2, 1], 8), (.eltwise, pk [0x12, 2], 9), (.matmul, matPk 0 0xFFFFFFFF 0, 18)],
      (let j := jobOf y.1 y.2.1 y.2.2
       let t := { tile0 .claimed with claimer := some 127, claimEpoch := 1 }
       let x : Plot := { claimed := some 0, acc := [3], alloc := some 0 }
       let s := upJob j t x
       s.memOk ∧ s.plotFree 127 = false ∧ (s.plotOf 127).claimed = some 0 ∧ s.running (plotIsland 127) = true ∧ s.running .fe = true ∧
        Tab.find? s.plot.tiles 0 = some t ∧ s.job? t.job = some j ∧ (∃ y ∈ s.tilesOf t.job, y.1 ≠ 0) ∧ Tab.sorted s.plot.plots = true ∧
        0 < t.cols ∧ (s.plotOf 127).acc.length ≤ t.rows * t.cols ∧ ((after (.tileComplete 127 true) s).plotOf 127).claimed = none)) ∧
    (∀ st ∈ [TileState.claimed, .draining], (let t := { tile0 st with claimer := some 127, claimEpoch := 1 }
      let s := upJob (jobOf .eltwise (pk [0x12, 2]) 9) t { claimed := some 0, alloc := some 0 }
      s.memOk ∧ (s.plotOf 127).claimed = some 0 ∧ s.running (plotIsland 127) = true ∧ s.running .fe = true ∧ Tab.find? s.plot.tiles 0 = some t ∧
        (s.job? t.job).isSome = true ∧ (t.state = .claimed ↔ st = .claimed))) ∧
    (let s0 := upJob (jobOf .eltwise (pk [0x12, 2]) 9) (tile0 .claimed) { alloc := some 0 }
     let s : State := { s0 with plot := { s0.plot with tiles := [], lastClaimable := [(0, 10 ^ 11 - 1000000)] } }
     s.memOk ∧ (s.plotOf 127).alloc = some 0 ∧ (s.plotOf 127).claimed = none ∧ s.canClaim 0 = false ∧ Tab.get s.plot.lastClaimable 0 0 + 1000000 ≤ s.now ∧
      ((after (.idlePlotRelease 127) s).plotOf 127).alloc = none) := by decide +kernel

/-! ### EXPAND and the experts -/

/-- A model file of one INT8 weight in the last 128 bytes of the quota, and a placement table of one entry in the 64 bytes before. -/
def upExperts : State :=
  let b := 516 * chunkBytes - 128
  { upPlots with part := { upPlots.part with mem := [(b - 64, 1), (b - 60, 5), (b, 0x4D), (b + 1, 0x4F), (b + 2, 0x44), (b + 3, 0x4C), (b + 4, 1), (b + 8, 1), (b + 64, 7)] } }

theorem hyp_ExpandAndExperts :
    (∀ v ∈ [0, 1], (let p := pk [v, 0, 0, 0x10000, 0, 1, lastByte - 31, 0, lastByte - 1]
      upPlots.ready specExpand q00 p = true ∧ upPlots.isCold 0 = false ∧ (upPlots.expandSower 0).isSome = true ∧
        (upPlots.expandSower 0).all (fun k => (upPlots.lease? 2 k).isNone) = true ∧
        okThen ((upPlots.atBody specExpand q00 p).claim q00 (pair p.word 6) 32 false) (fun ps u =>
          okThen ((u.holding q00 0 ps).claim q00 (pair p.word 8) (p.word 5 * (expandModulus p.word).width) true) (fun pd v =>
            okThen ((v.holding q00 0 pd).readRange (srcPartByte q00) ps (pair p.word 6) 32) (fun k _ => k.length == 32))) = true)) ∧
    (let p := pk [5, 1, lastByte + 1 - 128, 0, 128]
     let s := upExperts
     s.memOk ∧ s.ready specModelLoad q00 p = true ∧ s.modelPartition q00 (p.word 0) = some 0 ∧ s.modelBusy (p.word 0) = false ∧ 64 ≤ p.word 4 ∧
      okThen ((s.atBody specModelLoad q00 p).claim q00 (pair p.word 2) (p.word 4) false) (fun ps u =>
        okThen ((u.holding q00 0 ps).readRange (srcPartByte q00) ps (pair p.word 2) 64) (fun h v =>
          (modelHeader .int8 h (p.word 4)).isNone && okThen (v.readRange (srcPartByte q00) ps (pair p.word 2 + 64) (p.word 4 - 64)) (fun b w =>
            (w.storeModel 0 (p.word 0) .int8 (leNat (slice h 4 4)) (leNat (slice h 8 4)) b).isSome))) = true) ∧
    (let p := pk [4095, 1, lastByte + 1 - 192]
     let s := upExperts
     s.ready specPlacementSet q00 p = true ∧
     (Tab.find? s.plot.layers (layerKey 0 (p.word 0))).any (fun l => s.bankInUse 0 (p.word 0) (!l.active)) = false ∧ okThen ((s.atBody specPlacementSet q00 p).claim q00 (pair p.word 2) (64 * p.word 1) false) (fun ps u =>
       okThen ((u.holding q00 0 ps).readRange (srcPartByte q00) ps (pair p.word 2) (64 * p.word 1)) (fun b v =>
         (s.tableFault 0 (pieces 64 b)).isNone && (v.setPlacement 0 (p.word 0) b).isSome)) = true ∧
      ended (.placementSet q00 p) s = some (.ok, [])) ∧
    (let l : LayerTable := { active := true, count1 := 1, chunk := 3 }
     let s : State := { upExperts with plot := { upExperts.plot with layers := [(layerKey 0 4095, l)] } }
     let p := pk [0x41, 1, 1, 4095, lastByte - 1, 0, lastByte - 7, 0, lastByte - 15, 0, 1]
     s.memOk ∧ s.ready specRouteTopk q00 p = true ∧ Tab.find? s.plot.layers (layerKey 0 (p.word 3)) = some l ∧ l.count = p.word 1 ∧
      okThen ((s.atBody specRouteTopk q00 p).claim q00 (pair p.word 4) (scoreBytes p.word) false) (fun ps u =>
        okThen ((u.holding q00 0 ps).claim q00 (pair p.word 6) (routeBytes p.word) true) (fun po v =>
          okThen ((v.holding q00 0 po).claim q00 (pair p.word 8) (routeBytes p.word) true) (fun _ _ =>
            true))) = true) := by decide +kernel

/-- A ROUTE_TOPK that reads the first bank of layer 4095's table; and a PLACEMENT_SET of that layer, in whose other bank it stands. -/
theorem hyp_ExpandAndExperts_route :
    let l : LayerTable := { active := true, count1 := 1, chunk := 3 }
    let p := pk [0x41, 1, 1, 4095, lastByte - 1, 0, lastByte - 7, 0, lastByte - 15, 0, 1]
    ∀ bank ∈ [false, true], (let c : Cmd := { cmdAt (p.withOp 0x0602) (.executing (.route 4095 bank)) with src := .part 0 1, words := (List.range 11).map p.word, pages := [(127, 516 * chunkBytes - pageBytes)] }
      let s : State := { upExperts with plot := { upExperts.plot with layers := [(layerKey 0 4095, l)] }, q := { upExperts.q with cmds := [c] } }
      s.memOk ∧ s.cmd? c.src 0 = some c ∧ c.mirrored = none ∧ c.pkt.header.signal = false ∧ (∀ d ∈ s.q.cmds, d.src = c.src → d.chain ≠ .after 0) ∧
        s.graft.waits = [] ∧ Tab.find? s.plot.layers (layerKey 0 (c.w 3)) = some l ∧
        okThen (s.readReplicas 0 l bank) (fun _ x =>
          okThen (x.readRange (srcPartByte q00) c.pages (pair c.w 4) (scoreBytes c.w)) (fun _ _ => true)) = true ∧
        s.ready specPlacementSet q00 (pk [4095, 1, lastByte + 1 - 192]) = true ∧
        ((Tab.find? s.plot.layers (layerKey 0 4095)).any (fun l => s.bankInUse 0 4095 (!l.active)) = true ↔ bank = false)) := by decide +kernel

/-- Every Sower of the device leased by a strip operation. -/
theorem hyp_ExpandAndExperts_leased :
    let s : State := { upPlots with q := { upPlots.q with leases := (List.range 32).map (fun k => (leaseKey 2 k, { owner := some 1, holder := .island (.sow (Fin.ofNat 32 k)) 1 })) } }
    s.memOk ∧ s.ready specExpand q00 (pk [0, 0, 0, 0x10000, 0, 1, lastByte - 31, 0, lastByte - 1]) = true ∧ s.isCold 0 = false ∧
      (s.expandSower 0).any (fun k => (s.lease? 2 k).isSome) = true := by decide +kernel

/-! ### Engine contexts -/

/-- A partition's use of slot 16 passes wherever its usage, destination and length do. -/
theorem useSlot_keyed {s : State} (h : s.shed = keyedShed) (q : Fin 16) (u : SlotUse) (prove : Bool) (hu : u.usage slotRecord.usage = true)
    (hm : slotRecord.mask.getLsbD u.mask = true) (hl : u.length.any (· != slotRecord.length) = false) :
    s.useSlot (.part 0 q) 16 u prove = (.ok [], s) := by
  have m : s.mayUseSlot (.part 0 q) 16 = true := by
    unfold State.mayUseSlot State.slot
    rw [h]
    rfl
  unfold State.useSlot
  rw [m]
  simpa [srcPart] using checkSlot_keyed h u hu hm hl

/-- Sixteen contexts of an engine held, four by each of four queues' owners. -/
def fullContexts (aead : Bool) : Tab (Source × Nat) := (List.range 16).map (fun k => (k + engineBase aead, (Source.part (Fin.ofNat 64 (k / 4 + 1)) 0, k)))

/-- The keyed service state with the contexts of both engines held by others. -/
def upFull : State := { upKeyed with attest := { upKeyed.attest with contexts := fullContexts false ++ fullContexts true } }

/-- DIGEST of one byte with algorithm `alg`, slot 16 where it takes a key. -/
def digestPk (alg : Nat) : Packet := pk [alg + (if alg < 2 then 0 else 16 * 256), 0, lastByte, 0, 1, 0, lastByte - 47]

theorem hyp_EngineContexts_digest :
    (∀ s ∈ [upKeyed, upFull], s.memOk ∧ s.running .dig = true ∧ s.heldBy false q00 < 4 ∧ s.waiters false = [] ∧
      (∀ alg ∈ [0, 1, 2, 3], (let p := digestPk alg
        s.ready specDigest q00 p = true ∧ okThen ((s.atBody specDigest q00 p).claim q00 (pair p.word 2) (pair p.word 4) false) (fun ps x =>
          okThen ((x.holding q00 (s.nextCmd q00) ps).claim q00 (pair p.word 6) 48 true) (fun _ _ => true)) = true))) ∧
    upKeyed.freeContext false = some 0 ∧ upFull.freeContext false = none ∧ bits ((digestPk 1).word 0) 1 0 < 2 ∧ ¬ bits ((digestPk 2).word 0) 1 0 < 2 := by
  decide +kernel

theorem hyp_EngineContexts_digestKey (alg : Nat) : (upKeyed.atBody specDigest q00 (digestPk alg)).useSlot q00 16 useDigest false =
    (.ok [], upKeyed.atBody specDigest q00 (digestPk alg)) := useSlot_keyed rfl 0 useDigest false rfl rfl rfl

/-- AEAD_SEAL or AEAD_OPEN of `n` bytes with 2 bytes of associated data, under slot 16. -/
def aeadPk (n out : Nat) : Packet := pk [16, 2, lastByte + 1 - n, 0, n, 0, lastByte + 1 - out, 0, lastByte - 11, 0, lastByte - 1]

theorem hyp_EngineContexts_aead :
    (∀ y ∈ [(specAeadSeal, sealOut, 0), (specAeadSeal, sealOut, 16), (specAeadOpen, openOut, 16), (specAeadOpen, openOut, 17)], ∀ s ∈ [upKeyed, upFull],
      (let p := aeadPk y.2.2 (y.2.1 y.2.2)
       let id := s.nextCmd q00
       s.ready y.1 q00 p = true ∧ okThen ((s.atBody y.1 q00 p).claim q00 (pair p.word 2) (pair p.word 4) false) (fun ps x =>
         okThen ((x.holding q00 id ps).claim q00 (pair p.word 6) (y.2.1 (pair p.word 4)) true) (fun pd y =>
           okThen ((y.holding q00 id pd).claim q00 (pair p.word 8) 12 false) (fun pi z =>
             okThen ((z.holding q00 id pi).claim q00 (pair p.word 10) (p.word 1) false) (fun pa w =>
               okThen ((w.holding q00 id pa).readRange (srcPartByte q00) pi (pair p.word 8) 12) (fun _ v =>
                 okThen (v.readRange (srcPartByte q00) pa (pair p.word 10) (p.word 1)) (fun _ _ => true)))))) = true)) ∧
    upKeyed.heldBy true q00 < 4 ∧ upKeyed.waiters true = [] ∧ upKeyed.freeContext true = some 16 ∧ upFull.freeContext true = none := by
  decide +kernel

theorem hyp_EngineContexts_aeadKey (p : Packet) :
    (upKeyed.atBody specAeadSeal q00 p).useSlot q00 16 useSeal false = (.ok [], upKeyed.atBody specAeadSeal q00 p) ∧
    (upKeyed.atBody specAeadOpen q00 p).useSlot q00 16 useOpen false = (.ok [], upKeyed.atBody specAeadOpen q00 p) :=
  ⟨useSlot_keyed rfl 0 useSeal false rfl rfl rfl, useSlot_keyed rfl 0 useOpen false rfl rfl rfl⟩

/-- A DIGEST of queue 0 with algorithm 1 over `n` bytes from the start of the quota, `k` of them taken, its context `g`. -/
def digestCmd (n : Nat) (k : Bytes) (g : Option Nat) : Cmd :=
  { cmdAt ((pk [1, 0, 0, 0, n, 0, lastByte - 47]).withOp 0x0700) (.executing (.context false g [] [] [] k)) with
    pages := [(0, 512 * chunkBytes)], words := (List.range 12).map (pk [1, 0, 0, 0, n, 0, lastByte - 47]).word }

theorem hyp_EngineContexts_grant :
    (let c := digestCmd 1 [] none
     let s0 := upCmds [c]
     let s : State := { s0 with attest := { s0.attest with waitDigest := [(q00, 0)] } }
     s.memOk ∧ s.running .dig = true ∧ s.freeContext false = some 0 ∧
      (s.waiters false).find? (fun w => decide (s.heldBy false w.1 < 4)) = some (q00, 0) ∧ s.cmd? q00 0 = some c ∧
      c.phase = .executing (.context false none [] [] [] []) ∧ ((after (.contextGrant false) s).holderOf 0) = some (q00, 0)) ∧
    (∀ aead ∈ [false, true], upFull.freeContext aead = none ∧ upKeyed.runningContext aead = none) := by decide +kernel

theorem firstBad_none (l : List Nat) : firstBad [] [] l = (l, none) := by
  induction l with
  | nil => rfl
  | cons a t ih => simp [firstBad, ih]

/-- Where no line is bad, a read gives what memory holds. -/
theorem readRange_clean {s : State} (hp : s.part.poisonLines = []) (hu : s.part.uncorrectable = []) (hc : s.part.correctable = []) (pb : Byte)
    (ps : Pages) (v len : Nat) : s.readRange pb ps v len = (.ok (s.peek ps v len), s) := by
  unfold State.readRange State.consumeLines
  rw [hp, hu, hc, firstBad_none]
  rfl

theorem memRead_length (m : List Host.Cell) (n : Nat) : ∀ a, (memRead m a n).length = n := by
  induction n with
  | zero => exact fun _ => rfl
  | succ n ih => exact fun a => congrArg Nat.succ (ih (a + 1))

theorem peek_length (s : State) (ps : Pages) (v len : Nat) : (s.peek ps v len).length = ((segments ps v len).map (·.2)).sum := by
  unfold State.peek
  rw [List.length_flatMap]
  exact congrArg List.sum (List.map_congr_left (fun x _ => memRead_length _ _ _))

theorem segmentsAux_sum (ps : Pages) (fuel : Nat) : ∀ v len, len + v % pageBytes ≤ fuel * pageBytes →
    ((segmentsAux ps fuel v len).map (·.2)).sum = len := by
  induction fuel with
  | zero =>
    intro v len h
    have : len = 0 := by omega
    rw [this]
    rfl
  | succ fuel ih =>
    intro v len h
    have hp : v % pageBytes < pageBytes := Nat.mod_lt _ (by decide)
    unfold segmentsAux
    split
    · rename_i h0
      rw [h0]
      rfl
    · rename_i h0
      rw [Nat.add_mul, Nat.one_mul] at h
      by_cases k : len ≤ pageBytes - v % pageBytes
      · dsimp only
        rw [Nat.min_eq_left k, Nat.sub_self, List.map_cons, List.sum_cons]
        cases fuel <;> rfl
      · dsimp only
        rw [Nat.min_eq_right (by omega), List.map_cons, List.sum_cons]
        have e : (v + (pageBytes - v % pageBytes)) % pageBytes = 0 := by
          have := Nat.div_add_mod v pageBytes
          rw [show v + (pageBytes - v % pageBytes) = pageBytes * (v / pageBytes + 1) by rw [Nat.mul_add]; omega]
          exact Nat.mul_mod_right _ _
        rw [ih _ _ (by rw [e]; omega)]
        omega

/-- A peek has the length asked for. -/
theorem peek_len (s : State) (ps : Pages) (v len : Nat) : (s.peek ps v len).length = len := by
  rw [peek_length]
  refine segmentsAux_sum ps _ v len ?_
  have := Nat.div_add_mod len pageBytes
  have h1 : len % pageBytes < pageBytes := Nat.mod_lt _ (by decide)
  have h2 : v % pageBytes < pageBytes := Nat.mod_lt _ (by decide)
  rw [Nat.add_mul, Nat.mul_comm]
  omega

/-- Queue 0's DIGEST in context 15, which has run it `k` bytes far. -/
def upDigest (n : Nat) : State :=
  let s := upCmds [digestCmd n [] (some 15)]
  { s with attest := { s.attest with contexts := [(15, (q00, 0))] } }

/-- Of a message of 1 MiB and a byte a turn takes 1 MiB; of one byte it takes all, and the digest is due. -/
theorem hyp_EngineContexts_turn :
    (∀ n ∈ [mib + 1, 1], (let c := digestCmd n [] (some 15)
      let s := upDigest n
      s.memOk ∧ s.running .dig = true ∧ s.runningContext false = some 15 ∧ s.holderOf 15 = some (q00, 0) ∧ s.cmd? q00 0 = some c ∧
        c.src = q00 ∧ c.id = 0 ∧ c.phase = .executing (.context false (some 15) [] [] [] []) ∧ c.pkt.header.op = 0x0700 ∧ bits (c.w 0) 1 0 = 1 ∧
        pair c.w 4 = n ∧ c.mirrored = none ∧ c.pkt.header.signal = false ∧ (∀ d ∈ s.q.cmds, d.src = q00 → d.chain ≠ .after 0) ∧ s.graft.waits = [])) ∧
    ∀ n ∈ [mib + 1, 1], ∃ d, (upDigest n).readRange 0 [(0, 512 * chunkBytes)] 0 (min mib (n - 0)) = (.ok d, upDigest n) ∧
      (([] : Bytes) ++ d).length = min mib n := by
  refine ⟨by decide +kernel, fun n hn => ⟨_, readRange_clean rfl rfl rfl _ _ _ _, ?_⟩⟩
  rw [List.nil_append, peek_len, Nat.sub_zero]

/-! ### Weight blobs -/

/-- The header of a blob for one device, of identity 0, any partition and no COLD_FRAME, with a payload of 128 bytes. -/
def blobHeader : Bytes := leBytes 4 0x57424C42 ++ [1, 0, 1, 0] ++ zeros 16 ++ [0xFF, 0, 0, 0] ++ leBytes 4 128 ++ zeros 32

/-- A list of known length, spelled by its elements. -/
def spell (n : Nat) (b : Bytes) : Bytes := (List.range n).map (fun k => b.getD k 0)

theorem spell_eq {n : Nat} {b : Bytes} (h : b.length = n) : spell n b = b := by
  subst h
  refine List.ext_getElem (by simp [spell]) (fun k h1 h2 => ?_)
  simp [spell, h2]

/-- A blob of 320 bytes: its one entry names device `u` and holds the wrapped key `w`; payload, tag and padding are zero. -/
def blobFor (u w : Bytes) : Bytes := blobHeader ++ spell 16 u ++ spell 40 w ++ zeros 200

/-- Partition 0's region holds the models 0 to 15, and the first page of its quota the blob. -/
def upBlob (b : Bytes) : State :=
  { upKeyed with
    plot := { upKeyed.plot with modelRegion := [(0, (0, 16))] }
    part := { upKeyed.part with mem := memWrite [] (512 * chunkBytes) b } }

/-- WEIGHTS_LOAD of the blob as model 15 under slot 16. -/
def weightsPk : Packet := pk [15, 16, 0, 0, 320]

/-- The content key of 32 zero bytes, wrapped for this device under the key of slot 16. -/
def wrappedKey : Bytes := aesWrap (hkdf256 [] udid (ascii "ARKWBND1" ++ zeros 16) 32) (zeros 32)

def goodBlob : Bytes := blobFor udid wrappedKey

/-- A blob for another device. -/
def strangeBlob : Bytes := blobFor peerUdid []

theorem blob_entry (u w : Bytes) : ((List.range (blobDevices ((blobFor u w).take 64))).map (fun k => slice (blobFor u w) (64 + 64 * k) 64)) =
    [spell 16 u ++ spell 40 w ++ zeros 8] := by rfl

theorem bindingKey_good (cold : Bool) : bindingKey [] goodBlob 0 cold = .ok (zeros 32) := by
  have k := aesUnwrap_aesWrap (hkdf256 [] udid (ascii "ARKWBND1" ++ zeros 16) 32) (data := zeros 32) (n := 4) (by decide) rfl
  have l : udid.length = 16 := fit_length 16 Config.udid
  have hw : wrappedKey.length = 40 := k.1
  unfold bindingKey goodBlob
  dsimp only
  rw [blob_entry, spell_eq l, spell_eq hw]
  have e : (udid ++ wrappedKey ++ zeros 8).take 16 = udid := by rw [List.append_assoc]; exact List.take_left' l
  have f : slice (udid ++ wrappedKey ++ zeros 8) 16 40 = wrappedKey := by
    unfold slice
    rw [List.append_assoc, List.drop_left' l]
    exact List.take_left' hw
  simp only [List.find?_cons, e, beq_self_eq_true, f]
  have q : leNat (slice ((blobFor udid wrappedKey).take 64) 24 1) = 0xFF := rfl
  have g : leNat (slice ((blobFor udid wrappedKey).take 64) 25 1) = 0 := rfl
  have b : blobId ((blobFor udid wrappedKey).take 64) = zeros 16 := rfl
  rw [q, g, b]
  unfold wrappedKey
  simp [bit, k.2]

theorem bindingKey_strange (cold : Bool) : bindingKey [] strangeBlob 0 cold = .error 1 := by
  have l : peerUdid.length = 16 := by
    unfold peerUdid
    split <;> rfl
  have e : (spell 16 peerUdid ++ spell 40 [] ++ zeros 8).take 16 = peerUdid := by rw [spell_eq l, List.append_assoc]; exact List.take_left' l
  unfold bindingKey strangeBlob
  dsimp only
  rw [blob_entry]
  simp only [List.find?_cons, e, List.find?_nil, beq_eq_false_iff_ne.mpr peerUdid_ne]

/-- A model within a payload of 128 bytes takes one chunk at most, whatever its header says. -/
theorem blobChunks_le (key b : Bytes) (h : blobPayload (b.take 64) = 128) : blobChunks key b < 2 := by
  unfold blobChunks
  dsimp only
  rw [h]
  generalize leNat (slice (gcmCrypt key (blobIv (b.take 64)) (slice b (blobStart (b.take 64)) 64)) 4 4) = k
  generalize leNat (slice (gcmCrypt key (blobIv (b.take 64)) (slice b (blobStart (b.take 64)) 64)) 8 4) = n
  split
  · rename_i f t e
    have hf : f ∈ formatsFor k n 128 := by rw [e]; exact List.mem_cons_self ..
    unfold formatsFor at hf
    have hp := (List.mem_filter.mp hf).2
    rw [beq_iff_eq] at hp
    have fb : 4 ≤ f.bits ∧ f.bits ≤ 32 := by cases f <;> decide
    unfold alignUp64 alignUp Format.rowBytes ceilDiv at hp
    have hx : 1 ≤ k * ((f.bits * n + 8 - 1) / 8) ∧ k * ((f.bits * n + 8 - 1) / 8) ≤ 64 := by omega
    have hk : 1 ≤ k := Nat.pos_of_ne_zero (fun e => by rw [e, Nat.zero_mul] at hx; omega)
    have hc : 1 ≤ (f.bits * n + 8 - 1) / 8 := Nat.pos_of_ne_zero (fun e => by rw [e, Nat.mul_zero] at hx; omega)
    have hk' : k ≤ 64 := Nat.le_trans (Nat.le_mul_of_pos_right k hc) hx.2
    have hc' : (f.bits * n + 8 - 1) / 8 ≤ 64 := Nat.le_trans (Nat.le_mul_of_pos_left _ hk) hx.2
    have hn : 4 * n ≤ f.bits * n := Nat.mul_le_mul_right n fb.1
    have h1 : ceilDiv k 128 ≤ 1 := by unfold ceilDiv; omega
    have h2 : ceilDiv n 128 ≤ 1 := by unfold ceilDiv; omega
    have h3 : ceilDiv k 128 * ceilDiv n 128 ≤ 1 := Nat.mul_le_mul h1 h2
    have h4 : ceilDiv k 128 * ceilDiv n 128 * f.blockBytes ≤ 1 * 65536 :=
      Nat.mul_le_mul h3 (by unfold Format.blockBytes; omega)
    unfold chunkBytes
    show (ceilDiv k 128 * ceilDiv n 128 * f.blockBytes + 2 ^ 21 - 1) / 2 ^ 21 < 2
    omega
  · decide

/-- Where no line of memory is bad, the blob is what WEIGHTS_LOAD reads; `b` is either blob. -/
theorem upBlob_reads {b : Bytes} (hl : b.length = 320) {s : State} (hm : s.part.mem = memWrite [] (512 * chunkBytes) b) (hp : s.part.poisonLines = [])
    (hu : s.part.uncorrectable = []) (hc : s.part.correctable = []) : s.readRange 0 [(0, 512 * chunkBytes)] 0 320 = (.ok b, s) := by
  rw [readRange_clean hp hu hc]
  unfold State.peek
  rw [show segments [(0, 512 * chunkBytes)] 0 320 = [(512 * chunkBytes, 320)] by decide, hm, ← hl]
  show (Except.ok (memRead _ _ _ ++ []), s) = _
  rw [memRead_memWrite _ _ rfl, List.append_nil]

abbrev weightsReady (b : Bytes) : Prop :=
  let s := upBlob b
  s.running .dig = true ∧ s.ready specWeightsLoad q00 weightsPk = true ∧ blobFormed b 320 = true ∧ b.length = 320 ∧ s.inRegion 0 15 = true ∧
    s.modelBusy 15 = false ∧ (s.bindingsOf 0).length = 0 ∧ s.isCold 0 = false ∧ s.nextCmd q00 = 0 ∧
    okThen ((s.atBody specWeightsLoad q00 weightsPk).claim q00 (pair weightsPk.word 2) (pair weightsPk.word 4) false) (fun ps x =>
      ps == [(0, 512 * chunkBytes)] && x.part.poisonLines.isEmpty && x.part.uncorrectable.isEmpty && x.part.correctable.isEmpty &&
        ((List.range 2).all (fun n => ((x.holding q00 0 ps).allocChunks 0 n).isSome))) = true

theorem weightsReady_both : weightsReady goodBlob ∧ weightsReady strangeBlob := by decide +kernel

/-- For either blob WEIGHTS_LOAD comes as far as the content key, and the chunks are there. -/
theorem hyp_EngineContexts_weights {b : Bytes} (h : b = goodBlob ∨ b = strangeBlob) :
    (upBlob b).memOk ∧ weightsReady b ∧ blobChunks (zeros 32) b < 2 ∧
    ((upBlob b).atBody specWeightsLoad q00 weightsPk).useSlot q00 16 useWeights false = (.ok [], (upBlob b).atBody specWeightsLoad q00 weightsPk) ∧
    ∃ x, ((upBlob b).atBody specWeightsLoad q00 weightsPk).claim q00 0 320 false = (.ok [(0, 512 * chunkBytes)], x) ∧
      (x.holding q00 0 [(0, 512 * chunkBytes)]).readRange 0 [(0, 512 * chunkBytes)] 0 320 = (.ok b, x.holding q00 0 [(0, 512 * chunkBytes)]) ∧
      ∃ y, (x.holding q00 0 [(0, 512 * chunkBytes)]).allocChunks 0 (blobChunks (zeros 32) b) = some y := by
  have r : weightsReady b := by
    rcases h with rfl | rfl
    · exact weightsReady_both.1
    · exact weightsReady_both.2
  have n : blobChunks (zeros 32) b < 2 := blobChunks_le _ _ (by rcases h with rfl | rfl <;> rfl)
  refine ⟨Memory.wf_memWrite _ _ rfl, r, n, useSlot_keyed rfl 0 useWeights false rfl rfl rfl, ?_⟩
  obtain ⟨-, -, -, hl, -, -, -, -, -, c⟩ := r
  obtain ⟨ps, x, e, k⟩ := okThen_iff.mp c
  simp only [Bool.and_eq_true, beq_iff_eq, List.isEmpty_iff, List.all_eq_true, List.mem_range] at k
  obtain ⟨⟨⟨⟨rfl, hp⟩, hu⟩, hc⟩, ha⟩ := k
  exact ⟨x, e, upBlob_reads hl (claim_ok_reads e).2 hp hu hc, Option.isSome_iff_exists.mp (ha _ n)⟩

/-! ### Keys and evidence -/

/-- KEY_WRITE of a 48-byte key of partition 63 into slot 255; KEY_DERIVE of 32 bytes from slot 16 into slot 255. -/
def keyWritePk : Packet := pkBig [255 + 256 * 63, 0x3F18, 48]
def keyDerivePk : Packet := pk [16 + 256 * 255, 0x3F1F, 32, 32]

theorem hyp_KeysAndEvidence_keys :
    upKeyed.memOk ∧ upKeyed.running .shed = true ∧ upKeyed.slotKek.isSome = true ∧
    (∀ x ∈ [cp0, .mgmt 0], upKeyed.ready specKeyWrite x keyWritePk = true ∧ upKeyed.keyDest (bits (keyWritePk.word 0) 7 0) = none ∧
      upKeyed.ready specKeyErase x (pk [255]) = true ∧ 16 ≤ bits ((pk [255]).word 0) 7 0 ∧ upKeyed.slotBound 255 = false ∧
      upKeyed.ready specKeyErase x (pk [16]) = true ∧ 16 ≤ bits ((pk [16]).word 0) 7 0 ∧ upKeyed.slotBound 16 = true) ∧
    (∀ x ∈ [q00, cp0], upKeyed.ready specKeyDerive x keyDerivePk = true ∧ 16 ≤ bits (keyDerivePk.word 0) 7 0 ∧
      upKeyed.keyDest (bits (keyDerivePk.word 0) 15 8) = none ∧ upKeyed.derivedSlots (upKeyed.slot 16).owner < 8) ∧
    (upKeyed.ready specKeyInfo q00 (pk [16]) = true ∧ (upKeyed.slot 16).state ≠ .empty ∧ (upKeyed.slot 16).owner = 0) ∧
    (∀ x ∈ [cp0, .mgmt 0], ∀ n ∈ [15, 16, 255], upKeyed.ready specKeyInfo x (pk [n]) = true ∧ srcPart x = none) ∧
    upKeyed.ready specKeyInfo q00 (pk [15]) = true := by decide +kernel

/-- The key commands while Shed is in reset, and when its reset has failed. -/
theorem hyp_KeysAndEvidence_held :
    (∀ st ∈ [IslandState.reset, .resetFailed], (let s := upIsl .shed st
      s.memOk ∧ s.running .shed = false ∧ (s.island .shed).state = st ∧ (s.crossingInto .shed).length < 64 ∧
        s.ready specKeyWrite cp0 keyWritePk = true ∧ s.ready specKeyDerive q00 keyDerivePk = true ∧ s.ready specKeyErase cp0 (pk [255]) = true ∧
        s.ready specKeyInfo q00 (pk [16]) = true)) ∧
    working (.keyErase cp0 (pk [255])) (upIsl .shed .reset) = some (.held .shed) ∧
    ended (.keyErase cp0 (pk [255])) (upIsl .shed .resetFailed) = some (.targetReset, []) := by decide +kernel

/-- Key work for slot `n` that nears its end. -/
def keyStoring (n : Nat) (origin : Bool) : Cmd := { cmdAt (keyWritePk.withOp 0x0702) (.executing (.keyStore n 0 0x1F 0xFF 32 origin (zeros 32))) with src := cp0 }

def keyErasing (n : Nat) : Cmd := { cmdAt ((pk [n]).withOp 0x0704) (.executing (.keyErase n)) with src := cp0 }

/-- The keyed state with a command of CPQ_0 in flight. -/
def upKeyWork (c : Cmd) : State := { upKeyed with q := { upKeyed.q with cmds := [c] } }

/-- Eight slots derived for partition 0. -/
def derived8 (s : State) : State :=
  { s with shed := { s.shed with slots := (List.range 8).map (fun k => (k + 17, { state := .valid, origin := true })) } }

/-- KEY_WRITE, KEY_DERIVE and KEY_ERASE at their end: the destination has become unusable (slot 16 is bound), no ninth slot is derived, a
slot takes the key; slot 16 is not erased, slot 255 is. -/
theorem hyp_KeysAndEvidence_completion :
    (∀ c ∈ [keyStoring 16 false, keyStoring 255 false, keyStoring 255 true, keyErasing 16, keyErasing 255],
      let s := upKeyWork c
      s.memOk ∧ s.cmd? cp0 0 = some c ∧ c.mirrored = none ∧ c.pkt.header.signal = false ∧ (∀ d ∈ s.q.cmds, d.src = cp0 → d.chain ≠ .after 0) ∧
        s.graft.waits = [] ∧ s.running .shed = true ∧ c.keyWork = true) ∧
    ((upKeyWork (keyStoring 16 false)).keyDest 16).isSome = true ∧ (upKeyWork (keyStoring 255 true)).keyDest 255 = none ∧
    (upKeyWork (keyStoring 255 true)).derivedSlots 0 < 8 ∧ (upKeyWork (keyStoring 255 true)).slotKek.isSome = true ∧
    (let s := derived8 (upKeyWork (keyStoring 255 true))
     s.memOk ∧ s.cmd? cp0 0 = some (keyStoring 255 true) ∧ s.keyDest 255 = none ∧ 8 ≤ s.derivedSlots 0) ∧
    (upKeyWork (keyErasing 16)).slotBound 16 = true ∧ (upKeyWork (keyErasing 255)).slotBound 255 = false := by decide +kernel

/-- A C caller uses a tenant slot of a partition outside COLD_FRAME as its owner does. -/
theorem useSlot_cp {s : State} (h : s.shed = keyedShed) (hc : s.isCold 0 = false) (u : SlotUse) (hu : u.usage slotRecord.usage = true)
    (hm : slotRecord.mask.getLsbD u.mask = true) (hl : u.length.any (· != slotRecord.length) = false) : s.useSlot cp0 16 u false = (.ok [], s) := by
  have m : s.mayUseSlot cp0 16 = true := by
    unfold State.mayUseSlot State.slot cp0
    rw [h]
    show (decide (16 ≤ 16) && !slotRecord.origin && !s.isCold slotRecord.owner) = true
    rw [show slotRecord.owner = 0 from rfl, hc]
    rfl
  unfold State.useSlot
  rw [m]
  simpa [srcPart] using checkSlot_keyed h u hu hm hl

theorem hyp_KeysAndEvidence_derive :
    (upKeyed.atBody specKeyDerive q00 keyDerivePk).useSlot q00 16 useDerive false = (.ok [], upKeyed.atBody specKeyDerive q00 keyDerivePk) ∧
    (upKeyed.atBody specKeyDerive cp0 keyDerivePk).useSlot cp0 16 useDerive false = (.ok [], upKeyed.atBody specKeyDerive cp0 keyDerivePk) :=
  ⟨useSlot_keyed rfl 0 useDerive false rfl rfl rfl, useSlot_cp rfl (by decide +kernel) useDerive rfl rfl rfl⟩

/-- The device's own slot 0 serves PROVE and ATTEST_REPORT of a C caller. -/
theorem useSlot_device {s : State} (h : s.shed = keyedShed) : ∃ key, s.useSlot cp0 0 useProve true = (.ok key, s) := by
  refine ⟨deviceKeyOf (zeros 32) "ARKDEVP1", ?_⟩
  unfold State.useSlot State.deviceProve
  rw [h]
  rfl

/-- PROVE under slot `n` of a challenge of `len` bytes at `a`, its tag at `b`. -/
def provePk (n len a b : Nat) : Packet := pk [n, len, a, 0, b]

/-- The two ranges of `finishReport` and PROVE are claimed and the first is read. -/
def evidenceReads (s : State) (src : Source) (p : Packet) (n m : Nat) : Bool :=
  okThen (s.claim src (pair p.word 2) n false) (fun ps v =>
    okThen ((v.holding src 0 ps).claim src (pair p.word 4) m true) (fun pd w =>
      okThen ((w.holding src 0 pd).readRange (srcPartByte src) ps (pair p.word 2) n) (fun _ _ => true)))

theorem hyp_KeysAndEvidence_prove :
    (∀ len ∈ [16, 64],
      (let p := provePk 16 len (lastByte + 1 - len) (lastByte - 47)
       upKeyed.ready specProve q00 p = true ∧ upKeyed.nextCmd q00 = 0 ∧ evidenceReads (upKeyed.atBody specProve q00 p) q00 p (p.word 1) 48 = true) ∧
      (let p := provePk 0 len (512 * chunkBytes - len) (512 * chunkBytes - 48)
       upKeyed.ready specProve cp0 p = true ∧ upKeyed.nextCmd cp0 = 0 ∧ evidenceReads (upKeyed.atBody specProve cp0 p) cp0 p (p.word 1) 48 = true)) := by
  decide +kernel

theorem hyp_KeysAndEvidence_proveKey (p : Packet) :
    (upKeyed.atBody specProve q00 p).useSlot q00 16 useProve true = (.ok [], upKeyed.atBody specProve q00 p) ∧
    ∃ key, (upKeyed.atBody specProve cp0 p).useSlot cp0 0 useProve true = (.ok key, upKeyed.atBody specProve cp0 p) :=
  ⟨useSlot_keyed rfl 0 useProve true rfl rfl rfl, useSlot_device rfl⟩

/-- ATTEST_REPORT of partition 0 (`f` 0), of its round 7 (`f` 1), or of the device. -/
def reportPk (f : Nat) : Packet := pk [f, 7 * f, lastByte - 31, 0, lastByte + 1 - 1024]
def reportCpPk : Packet := pk [0, 0, 512 * chunkBytes - 32, 0, 512 * chunkBytes - 1024]

theorem hyp_KeysAndEvidence_report :
    (∀ f ∈ [0, 1], (let s := upSealed 100
      let p := reportPk f
      s.memOk ∧ s.ready specAttestReport q00 p = true ∧ s.nextCmd q00 = 0 ∧ s.partition? 0 = some part0 ∧ s.bindingsOf 0 = [] ∧
        bit (p.word 0) 0 = decide (f = 1) ∧ evidenceReads (s.atBody specAttestReport q00 p) q00 p 32 1024 = true)) ∧
    ((upSealed 100).roundEntry 0 ((reportPk 1).word 1)).bind (upSealed 100).round? = some (sealedRound 100) ∧
    (let s := upKeyed
     let p := reportCpPk
     s.ready specAttestReport cp0 p = true ∧ s.nextCmd cp0 = 0 ∧ bit (p.word 0) 0 = false ∧ srcPart cp0 = none ∧
       evidenceReads (s.atBody specAttestReport cp0 p) cp0 p 32 1024 = true) := by decide +kernel

theorem hyp_KeysAndEvidence_reportKey :
    (∀ f, ((upSealed 100).atBody specAttestReport q00 (reportPk f)).attestKey 0 = (.ok [], (upSealed 100).atBody specAttestReport q00 (reportPk f))) ∧
    ∃ key, (upKeyed.atBody specAttestReport cp0 reportCpPk).useSlot cp0 0 useProve true = (.ok key, upKeyed.atBody specAttestReport cp0 reportCpPk) :=
  ⟨fun _ => attestKey_keyed (r := part0) rfl rfl rfl, useSlot_device rfl⟩

/-! ### The Shed's events, the patrol scrubber and the logs -/

/-- The service state without partitions, with its Shed changed. -/
def upShed (f : Shed → Shed) : State := { up with part := { up.part with parts := [] }, shed := f up.shed }

theorem hyp_ShedEvents :
    (∀ c ∈ [TamperCause.lidLight, .mesh, .temperature, .glitch, .rootCorrupt], (let s := upShed (fun _ => keyedShed)
      s.memOk ∧ (∀ p, s.created p = false) ∧ s.shed.batteryRoot.isSome = true ∧ s.tamperActs c = true ∧ s.shed.conditions.contains c = false)) ∧
    (let s := upShed (fun x => { x with tamperIn := true })
     s.memOk ∧ s.tamperActs .tamperIn = true ∧ s.shed.conditions.contains .tamperIn = false) ∧
    (let s0 := upShed id
     let s : State := { s0 with power := { s0.power with pwrgdAux := false } }
     s.memOk ∧ s.power.pwrgdAux = false ∧ s.tamperActs .vbatLow = true ∧ s.shed.conditions.contains .vbatLow = false) ∧
    (up.shed.batteryRoot = none ∧ up.shed.conditions = [] ∧ up.running .shed = true ∧ up.power.pwrgdAux = true) ∧
    (∀ low ∈ [true, false], (upShed (fun x => { x with batteryLow := !low })).memOk ∧ low ≠ (upShed (fun x => { x with batteryLow := !low })).shed.batteryLow) ∧
    (let s := upShed (fun _ => { keyedShed with patrolAt := 10 ^ 11 - 10 ^ 9 })
     s.memOk ∧ s.running .shed = true ∧ s.shed.patrolAt + 1000000000 ≤ s.now ∧ (∀ p, s.created p = false) ∧ (s.slot 16).state = .valid ∧
      s.shed.pufRoot.isSome = true) ∧
    (let c := keyStoring 255 false
     let s0 := upShed (fun _ => keyedShed)
     let s : State := { s0 with q := { s0.q with cmds := [c] } }
     s.memOk ∧ s.q.cmds = [c] ∧ s.cmd? cp0 0 = some c ∧ c.mirrored = none ∧ c.pkt.header.signal = false ∧
      (∀ d ∈ s.q.cmds, d.src = cp0 → d.chain ≠ .after 0) ∧ s.graft.waits = [] ∧ c.keyWork = true ∧ s.tamperActs .mesh = true ∧
      s.shed.conditions.contains .mesh = false) ∧
    (upKeyed.shed.debug = false ∧ upKeyed.running .shed = true ∧ (∀ p, upKeyed.isCold p = false) ∧ Tab.sorted upKeyed.shed.slots = true) := by
  decide +kernel

theorem hyp_ShedEvents_patrol :
    (∀ l ∈ [0, memLines - 1], (let s : State := { up with part := { up.part with patrolLine := l } }
      s.memOk ∧ s.running (memcOf (64 * s.part.patrolLine)) = true ∧ s.power.mainHeld = false ∧ s.part.uncorrectable.contains l = false ∧
        s.part.correctable.contains l = false ∧ s.part.poisonLines.contains l = false)) ∧
    (let s : State := { up with err := { up.err with logs := [(13, { slots := [(255, { cause := .chunkBad, cls := .contained })] })] } }
     s.memOk ∧ s.running .shed = true ∧ (Tab.find? (Tab.get s.err.logs {} (13 : Fin 16).val).slots (255 : Fin 256).val).isSome = true) := by decide +kernel

/-! ### Partitions -/

/-- Partition 0 does not exist; its attestation key waits in slot 16. -/
def upBare : State := { upKeyed with part := { upKeyed.part with parts := [] } }

/-- PART_CREATE of partition 0 with one chunk, all shares, and slot 16. -/
def createPk : Packet := pk [0, 1, 0x404040, 16]

/-- Its record before the quota grows. -/
def created0 : Partition := { plotShare := 64, sowerShare := 64, bedShare := 64, slot := 16 }

theorem hyp_PartitionRows_create :
    (upBare.memOk ∧ srcPart cp0 = none ∧ upBare.ready specPartCreate cp0 createPk = true ∧ upBare.created 0 = false ∧ upBare.vfPresent 0 = true ∧
      upBare.sharesFit 0 (createPk.word 2) = true ∧ createPk.word 1 ≤ upBare.freePool ∧ upBare.running .rng = true ∧ upBare.random.serving = true ∧
      (((upBare.atBody specPartCreate cp0 createPk).setPartition 0 created0).growQuota 0 (createPk.word 1)).1 = some ()) ∧
    (upBare.atBody specPartCreate cp0 createPk).bindSlot 0 (createPk.word 3) = (none, upBare.atBody specPartCreate cp0 createPk) := by
  refine ⟨by decide +kernel, ?_⟩
  unfold State.bindSlot
  rw [show createPk.word 3 = 16 by decide +kernel, checkSlot_keyed (s := upBare.atBody specPartCreate cp0 createPk) rfl useProve rfl rfl rfl,
    if_neg (by decide +kernel)]

/-- A control-plane command of CPQ_1 at stage 5 that holds the first page of the quota, as a COLD_FRAME_ENTER of partition 0 or another. -/
def cpCmd (op : Nat) (w : Work) : Cmd :=
  { src := .cp 1, id := 0, pkt := (pk []).withOp op, phase := .executing w, pages := [(0, 512 * chunkBytes)] }

theorem hyp_PartitionRows_others :
    (∀ x ∈ [cp0, .mgmt 0], up.memOk ∧ up.ready specPartDestroy x (pk [0]) = true ∧ up.created 0 = true ∧ up.entering 0 = false ∧ up.roundsOf 0 = [] ∧
      (∀ c ∈ up.q.cmds, ofPart 0 c.src = false) ∧ Tab.sorted up.part.parts = true) ∧
    (let s := upCmds [cpCmd 0x0905 (.coldFrame 0)]
     s.memOk ∧ s.ready specPartDestroy cp0 (pk [0]) = true ∧ s.entering 0 = true) ∧
    (∀ n ∈ [1, 4], up.ready specPartShares cp0 (pk [0, n, 0x404040]) = true ∧ up.partition? 0 = some part0 ∧ up.sharesFit 0 0x404040 = true ∧
      n ≤ part0.quota ∧ (∀ k < part0.quota, n ≤ k → part0.chunkState k = .free)) ∧
    (let p := pk [0, 5, 0]
     up.ready specPartShares cp0 p = true ∧ part0.quota < p.word 1 ∧ p.word 1 - part0.quota ≤ up.freePool ∧
       (let g := (up.atBody specPartShares cp0 p).growQuota 0 (p.word 1 - part0.quota)
        g.1 = some () ∧ (g.2.partition? 0).isSome = true)) ∧
    (∀ s ∈ [up, upCmds [cpCmd 0x0500 (.fenceWait 0 0)]], s.memOk ∧ s.ready specColdFrameEnter cp0 (pk [0]) = true ∧ s.shed.debug = false ∧
      s.partition? 0 = some part0 ∧ s.roundsOf 0 = [] ∧ s.shed.pufFail = false) ∧
    up.touchesQuota 0 = false ∧ (upCmds [cpCmd 0x0500 (.fenceWait 0 0)]).touchesQuota 0 = true := by decide +kernel

/-! ### Firmware commands -/

/-- What a half of the flash and a FW_STAGE hold here: an image too short to verify. No image that verifies can be written out, as the
key its signature is checked with is free; whether the flash works is free as well. -/
theorem hyp_FirmwareRows :
    (∀ i ∈ [0, 1], (let p := pk [i, 0, 0, 0, 1]
      up.memOk ∧ up.running .mgmt = true ∧ up.ready specFwStage cp0 p = true ∧ up.fwBusy i = .none ∧ okThen ((up.atBody specFwStage cp0 p).claim cp0 (pair p.word 2) (p.word 4) false)
        (fun ps u => okThen ((u.holding cp0 (up.nextCmd cp0) ps).readRange (srcPartByte cp0) ps (pair p.word 2) (p.word 4)) (fun b _ =>
          imageFails i (up.power.minSvn i) b == some 1)) = true)) ∧
    (∀ i ∈ [0, 1], ∀ x ∈ [cp0, .mgmt 0], (let s := upPower (fun p => { p with dir0 :=
        { valid := true, seqEntry := { standby := .staged }, mgmtEntry := { standby := .staged } } })
      s.memOk ∧ s.running .mgmt = true ∧ s.ready specFwActivate x (pk [i]) = true ∧ (s.power.image i).standby = .staged ∧ s.fwBusy i = .none ∧
        imageFails 0 (s.power.minSvn 0) (s.power.flashImage (!(s.power.image 0).active) 0) = some 1)) ∧
    (∀ x ∈ [cp0, .mgmt 0], ∀ ws ∈ [[0, 1], [0, 2]], up.ready specDiagLiveRead x (pk ws) = true) := by decide +kernel

theorem hyp_FirmwareRows_held :
    (∀ st ∈ [IslandState.reset, .resetFailed], (let s := upIsl .mgmt st
      s.memOk ∧ (s.island .mgmt).state = st ∧ (s.crossingInto .mgmt).length < 64 ∧ s.ready specFwStage cp0 (pk [0, 0, 0, 0, 1]) = true ∧
        s.ready specFwActivate cp0 (pk [1]) = true)) ∧
    working (.fwActivate cp0 (pk [1])) (upIsl .mgmt .reset) = some (.held .mgmt) ∧
    ended (.fwActivate cp0 (pk [1])) (upIsl .mgmt .resetFailed) = some (.targetReset, []) := by decide +kernel

/-! ### Graft pairs -/

/-- The service state, paired with device 1 in role epoch 3 as its primary. -/
def upPair (f : Graft → Graft) : State := { upHear with graft := f { state := .mirroring, role := .primary, partner := 1, witness := 2, epoch := 3 } }

/-- What `State.PartnerSends` says of the first frame on port 0, as a test. -/
def sends (s : State) (m : FabOut) : Bool := s.takes (via0 0) m && s.running .fab && s.paired && s.graft.port == 0

theorem sends_iff {s : State} {m : FabOut} : sends s m = true ↔ s.PartnerSends (via0 0) m := by
  simp only [sends, Bool.and_eq_true, beq_iff_eq]
  exact ⟨fun ⟨⟨⟨a, b⟩, c⟩, d⟩ => ⟨a, b, c, d⟩, fun ⟨a, b, c, d⟩ => ⟨⟨⟨a, b⟩, c⟩, d⟩⟩

theorem neighbour_fab {s : State} (hp : s.spetar.ports = fabPorts) (hf : s.spetar.fid = some 0) (hr : s.spetar.fidReq = some 0)
    (hm : s.spetar.map = [peerRec]) : (s.port 0).peerUdid.bind (fun u => (devByUdid s.topology u).bind (·.fid)) = some 1 := by
  have u : (s.port 0).peerUdid = some peerUdid := by
    unfold State.port
    rw [hp]
    rfl
  have n : (udid == peerUdid) = false := beq_eq_false_iff_ne.mpr peerUdid_ne.symm
  rw [u]
  unfold State.topology devByUdid
  rw [ownRec_fab hp hf hr, hm]
  simp [peerRec, n, peerUdid_ne]

theorem hyp_GraftMembers_pair :
    (upFab.memOk ∧ upFab.ready specGraftPair cp0 (pk [1, 2]) = true ∧ upFab.paired = false ∧ upFab.graft.asked = none ∧ upFab.spetar.fid.isSome = true ∧
      upFab.time.qualified = true ∧ bits ((pk [1, 2]).word 0) 8 0 = 1 ∧ bits ((pk [1, 2]).word 0) 19 16 = 0 ∧ upFab.portActive 0 = true ∧
      upFab.witnessOf ((pk [1, 2]).word 1) ≠ 1 ∧ upFab.witnessOf ((pk [1, 2]).word 1) ≠ upFab.ownFid ∧ upFab.graft.request = none) ∧
    (upFab.port 0).peerUdid.bind (fun u => (devByUdid upFab.topology u).bind (·.fid)) = some 1 :=
  ⟨by decide +kernel, neighbour_fab rfl rfl rfl rfl⟩

theorem hyp_GraftMembers_commands :
    (let s := upPair id
     s.memOk ∧ s.ready specGraftUnpair cp0 (pk []) = true ∧ s.paired = true ∧ s.shadows = [] ∧ (∀ c ∈ s.q.cmds, c.mirrored = none)) ∧
    (∀ r ∈ [Role.secondary, .primary, .held], ∀ v ∈ [0, 1], (let s := upPair (fun g => { g with role := r })
      s.memOk ∧ s.ready specGraftTakeover cp0 (pk [v]) = true ∧ s.paired = true ∧ s.graft.role = r ∧ s.graft.mirrorRounds = [])) := by decide +kernel

theorem hyp_GraftMembers_requests :
    (∀ n ∈ [0, 9], upHear.takes (via0 0) (.graft from1.h (.pairRequest n 2 true none)) = true) ∧
    (let s := upHear
     s.memOk ∧ s.running .fab = true ∧ 0 = s.ownFid ∧ s.paired = false ∧ s.graft.asked = none) ∧
    (let s : State := { upHear with graft := { asked := some (1, 0, 2) } }
     s.memOk ∧ s.takes (via0 0) (.graft from1.h (.pairRequest 0 2 false none)) = true ∧ s.paired = false ∧
       s.graft.asked = some (from1.h.src, 0, 2) ∧ s.witnessOf 2 = s.witnessOf 2 ∧ ∀ opened ∈ [true, false], (s.holdsRound && opened) = false) ∧
    (∀ w ∈ [Work.pair (10 ^ 11), .takeover (10 ^ 11)], (let c : Cmd := { src := cp0, id := 0, pkt := (pk []).withOp 0x0B00, phase := .executing w }
      let s := upCmds [c]
      s.memOk ∧ s.q.cmds = [c] ∧ 10 ^ 11 ≤ s.now ∧ s.cmd? cp0 0 = some c ∧ c.mirrored = none ∧ c.pkt.header.signal = false ∧
        (∀ d ∈ s.q.cmds, d.src = cp0 → d.chain ≠ .after 0) ∧ s.graft.waits = [])) := by decide +kernel

/-- A heartbeat of role epoch `e` from device 1. -/
def beat (role : Nat) (e : W16) (deposed : Bool) : FabOut := .graft from1.h (.heartbeat role e false deposed 0)

theorem hyp_GraftMembers_heartbeat :
    (let s := upPair (fun g => { g with lastHeartbeatSent := 10 ^ 11 - 10000 })
     s.memOk ∧ s.paired = true ∧ s.running .fab = true ∧ s.graft.lastHeartbeatSent + 10000 ≤ s.now) ∧
    (∀ s ∈ [upHear, upPair (fun g => { g with port := 15 })], s.takes (via0 0) (beat 0 3 false) = true ∧ (s.paired = false ∨ s.graft.port ≠ 0)) ∧
    (let s := upPair id
     (∀ m ∈ [beat 0 2 false, beat 0 3 false, beat 1 3 false, beat 1 3 true], sends s m = true) ∧ (2 : W16).toNat < s.graft.epoch.toNat ∧ (3 : W16) = s.graft.epoch ∧ s.graft.waits = [] ∧ s.shadows = [] ∧ (∀ c ∈ s.q.cmds, c.mirrored = none) ∧
      s.graft.role ≠ .deposed ∧ s.graft.state = .mirroring ∧ s.graft.role ≠ .secondary) ∧
    (let s := upPair (fun g => { g with role := .secondary })
     s.memOk ∧ sends s (beat 1 3 true) = true ∧ s.graft.role = .secondary ∧ s.graft.role ≠ .deposed ∧ s.graft.requested = false) ∧
    (∀ y ∈ [(Role.secondary, 1), (.primary, 2), (.held, 2)], (let s := upPair (fun g => { g with state := .degraded, role := y.1 })
      s.memOk ∧ sends s (beat y.2 3 false) = true ∧ s.graft.state = .degraded ∧ y.2 = (if s.graft.role = .secondary then 1 else 2))) ∧
    (∀ r ∈ [Role.secondary, .primary, .held], (let s := upPair (fun g => { g with role := r, lastHeartbeat := 10 ^ 11 - 100000 })
      s.memOk ∧ s.graft.state = .mirroring ∧ s.graft.lastHeartbeat + 100000 ≤ s.now ∧ s.graft.role = r ∧ s.graft.requested = false ∧ s.graft.waits = [])) := by
  decide +kernel

/-- Devices 4 and 5, whose pair this device serves. -/
def pair45 : WitnessRec := { a := 4, b := 5, holder := 4, epoch := 3, expiry := 10 ^ 11 }

def upWitness (r : WitnessRec) : State := { upHear with graft := { witnessed := [r] } }

theorem hyp_GraftRoles_lease :
    (∀ r ∈ [Role.primary, .held], (let s := upPair (fun g => { g with role := r, lastRenewal := 10 ^ 11 - 50000 })
      s.memOk ∧ s.paired = true ∧ s.graft.role = r ∧ s.graft.lastRenewal + 50000 ≤ s.now ∧ s.graft.forming = false ∧ s.graft.epoch = 3 ∧
        hears s from1 (.renewalAck 3 (10 ^ 11 - 149999) true) = true ∧
        s.graft.deferred = [] ∧ s.rounds.table = [] ∧ s.now < 10 ^ 11 - 149999 + 150000)) ∧
    (let s := upPair (fun g => { g with leaseUntil := 10 ^ 11 })
     s.memOk ∧ s.paired = true ∧ s.graft.role = .primary ∧ s.graft.leaseUntil ≤ s.now) ∧
    (∀ r ∈ [Role.primary, .secondary], (let c : Cmd := { src := cp0, id := 0, pkt := (pk []).withOp 0x0B00, phase := .executing (.pair (10 ^ 11)) }
      let s : State := { upPair (fun g => { g with role := r, forming := true }) with q := { up.q with cmds := [c] } }
      s.memOk ∧ (∀ ok ∈ [true, false], hears s from1 (.renewalAck 3 (10 ^ 11) ok) = true) ∧ s.graft.forming = true ∧ s.q.cmds = [c] ∧ s.cmd? cp0 0 = some c ∧ c.mirrored = none ∧ c.pkt.header.signal = false ∧
        (∀ d ∈ s.q.cmds, d.src = cp0 → d.chain ≠ .after 0) ∧ s.graft.waits = [] ∧ s.graft.role = r)) := by decide +kernel

theorem hyp_GraftRoles_witness :
    (upHear.memOk ∧ (∀ p ∈ [none, some 5], ∀ f ∈ [true, false], hears upHear (msgFrom 4 0) (.renewal 3 0 p f) = true) ∧
      upHear.graft.witnessed.find? (fun r => r.of 4 5) = none ∧ upHear.graft.witnessed.length < 256) ∧
    (let s := upWitness pair45
     s.memOk ∧ hears s (msgFrom 4 0) (.renewal 3 0 (some 5) false) = true ∧ hears s (msgFrom 5 0) (.takeover 4 3 false) = true ∧
      s.graft.witnessed.find? (fun r => r.of 4 5) = some pair45 ∧ pair45.epoch.toNat ≤ (3 : W16).toNat ∧
      pair45.holdUntil = none ∧ pair45.holder = 4 ∧ pair45.force = false ∧ 4 ≠ s.ownFid ∧ s.graft.witnessed.find? (fun r => r.of 5 4) = some pair45 ∧
      pair45.expiry ≤ s.now) ∧
    (∀ r ∈ [{ pair45 with expiry := 10 ^ 11 + 1 }, { pair45 with holdUntil := some (10 ^ 11) }], (let s := upWitness r
      s.memOk ∧ hears s (msgFrom 5 0) (.takeover 4 3 true) = true ∧ s.graft.witnessed.find? (fun r => r.of 5 4) = some r ∧ (r.holdUntil.isSome = true ∨ s.now < r.expiry))) ∧
    (let s := upPair (fun g => { g with waits := [(7, .nothing)] })
     s.memOk ∧ hears s from1 (.takeover 0 3 false) = true ∧ s.paired = true ∧ from1.h.src = s.graft.partner ∧ s.graft.role = .primary ∧
      s.graft.waits ≠ [] ∧ s.graft.epoch.toNat ≤ (3 : W16).toNat) ∧
    (let r := { pair45 with request := some 5 }
     let s := upWitness r
     s.memOk ∧ s.graft.witnessed.find? (fun r => r.of 4 5) = some r ∧ r.request = some 5 ∧ r.holdUntil = none ∧ r.expiry ≤ s.now) ∧
    (let r := { pair45 with holdUntil := some (10 ^ 11) }
     let s := upWitness r
     s.memOk ∧ s.graft.witnessed.find? (fun r => r.of 4 5) = some r ∧ r.holdUntil = some (10 ^ 11) ∧ 10 ^ 11 ≤ s.now) ∧
    (∀ r ∈ [Role.primary, .secondary], (upPair (fun g => { g with role := r })).paired = true ∧ (upPair (fun g => { g with role := r })).memOk) := by
  decide +kernel

theorem hyp_GraftRoles_takeover :
    (let s := upPair (fun g => { g with role := .secondary, requested := true })
     s.memOk ∧ hears s from1 (.grant 4) = true ∧ hears s from1 .refuse = true ∧ s.paired = true ∧ s.graft.role = .secondary ∧
      s.graft.epoch.toNat < (4 : W16).toNat ∧ s.shadows = [] ∧ s.q.cmds = [] ∧ s.graft.requested = true ∧
      (∀ c ∈ s.q.cmds, c.mirrored = none)) ∧
    (∀ r ∈ [Role.primary, .held], (let s := upPair (fun g => { g with role := r })
      s.memOk ∧ hears s from1 (.substitution 0 1 4) = true ∧ hears s from1 (.substitution 0 9 4) = true ∧ from1.h.src = s.graft.partner ∧
        s.ownFid = 0 ∧ s.paired = true ∧ s.graft.epoch.toNat < (4 : W16).toNat ∧ s.graft.role = r ∧ s.graft.mirrorRounds = [] ∧ s.graft.waits = [] ∧ s.q.cmds = [])) ∧
    (let r : Round := { round0 with participants := [0, 1], partners := [(1, (9, 2))] }
     let s : State := { upHear with rounds := { up.rounds with table := [(1023, r)] } }
     s.memOk ∧ hears s (msgFrom 9 0) (.substitution 1 9 3) = true ∧ s.paired = false ∧ s.rounds.table = [(1023, r)] ∧ Tab.find? r.partners 1 = some (9, 2) ∧ (2 : W16).toNat < (3 : W16).toNat ∧
      r.participants.contains 1 = true ∧ r.state.isAborted = false ∧ s.formed? (tkey r.part r.policy.trellis) = none) ∧
    (let r : Round := { round0 with shadow := true }
     let s0 := upPair (fun g => { g with role := .secondary, appliedSeq := 7 })
     let s : State := { s0 with rounds := { up.rounds with table := [(1023, r)] } }
     s.memOk ∧ (∀ q ∈ [7, 8], ∀ e ∈ [2, 3], sends s (.mirror from1.h q (BitVec.ofNat 16 e) (.mark r.part.val r.id 0)) = true) ∧
      (2 : W16).toNat < s.graft.epoch.toNat ∧ s.graft.role = .secondary ∧ s.graft.epoch.toNat ≤ (3 : W16).toNat ∧ 7 = s.graft.appliedSeq ∧
      s.shadowEntry (Fin.ofNat 64 r.part.val) r.id.toNat = some 1023 ∧ s.round? 1023 = some r ∧ 8 ≠ s.graft.appliedSeq) ∧
    (∀ w ∈ [MirrorWait.nothing, .mark 7], (let s := upPair (fun g => { g with waits := [(7, w)] })
      s.memOk ∧ (∀ q ∈ [7, 8], ∀ e ∈ [2, 3], sends s (.graft from1.h (.mirrorAck q (BitVec.ofNat 16 e) 0 0)) = true) ∧
        (2 : W16).toNat < s.graft.epoch.toNat ∧ s.graft.epoch.toNat ≤ (3 : W16).toNat ∧ s.graft.draining = false ∧ Tab.find? s.graft.waits 8 = none ∧ Tab.find? s.graft.waits 7 = some w ∧ s.gate? 7 = none)) := by decide +kernel

end Sys2Proof.Tests
end

/-!
Register reads and the memory window of PF BAR 2 (O34). A read's frame is shown once (`barRead_only`), so that each row answers
`barRead` itself; what `barRead` is in each case, and what a write through the window leaves at each byte, are equations of their own.
-/

namespace Sys2Proof.Machine
open Sys2Proof

/-! ### What an access through a BAR can change -/

theorem logAer_only (s : State) (f : Fn) (e : AerError) : Only [.hif] s (s.logAer f e) := by
  unfold State.logAer
  extract_lets g l u l' t
  have ht : Only [.hif] s t := Only.of_hif s _
  split
  · exact ht.trans (toHost_only _ _)
  · exact ht

theorem unanswered_only (s : State) : Only [.hif] s s.unanswered := by
  unfold State.unanswered
  split
  · exact Only.refl _ s
  · exact logAer_only s _ _

theorem setLatches_only (s : State) (r : Requester) (l : Latches) : Only [.reg] s (s.setLatches r l) := Only.of_reg s _

theorem accessError_only (s : State) (r : Requester) (o : Nat) : Only [.err, .hif] s (s.accessError r o) :=
  logErr_only _ _ _ _ _ _ _ _ _

theorem answerRead_only (s : State) (r : Requester) (v : Nat) : Only [.hif, .mgmt] s (s.answerRead r v) := by
  cases r with
  | mgmtPort => exact (Only.of_mgmt s _).mono (by decide)
  | fn f => exact (toHost_only s _).mono (by decide)

theorem poisonedRead_only (s : State) (f : Fn) (d : Island) (o : Nat) : Only [.err, .hif] s (s.poisonedRead f d o) :=
  (logErr_only _ _ _ _ _ _ _ _ _).trans ((toHost_only _ _).mono (by decide))

theorem setViewOf_only (s : State) (f : Fn) (v : KelriView) : Only [.kelri] s (s.setViewOf f v) := by
  cases f <;> exact Only.of_kelri s _

theorem beginRebuild_only (s : State) (f : Fn) : Only [.hif, .kelri] s (s.beginRebuild f) := by
  unfold State.beginRebuild
  dsimp only
  split
  · exact Only.refl _ s
  · exact ((setViewOf_only s f _).mono (by decide)).trans ((raisePf_only _ _).mono (by decide))

theorem readReg_only (s : State) (r : Requester) (o : Nat) (wide : Bool) : Only [.reg] s (s.readReg r o wide).2 := by
  unfold State.readReg
  extract_lets o8 v w now l l'
  split
  · exact setLatches_only s r l'
  split
  · dsimp only
    split
    · exact setLatches_only s r _
    · exact Only.refl _ s
  split <;> exact Only.refl _ s

/-- The units that a register read may change. -/
def readUnits : List Field := [.err, .hif, .kelri, .mgmt, .random, .reg]

theorem randomPortRead_only (s : State) (p : Fin 64) (o : Nat) (wide : Bool) : Only readUnits s (s.randomPortRead p o wide) := by
  have reply {t : State} (h : Only readUnits s t) (v : Nat) : Only readUnits s (t.portReply p v) :=
    h.trans ((toHost_only t _).mono (by decide))
  unfold State.randomPortRead
  extract_lets n q
  split
  · exact reply ((logErr_only _ _ _ _ _ _ _ _ _).mono (by decide)) _
  split
  · exact reply (Only.refl _ s) _
  split
  · exact reply (((Only.of_random s _).mono (by decide)).trans ((raiseVf_only _ _ _ _).mono (by decide))) _
  · exact reply ((Only.of_random s _).mono (by decide)) _

/-- No register read touches device memory or the queue of waiting commands. -/
theorem barRead_only (s : State) (r : Requester) (bar o n : Nat) : Only readUnits s (s.barRead r bar o n) := by
  have answer {t : State} (h : Only readUnits s t) (v : Nat) : Only readUnits s (t.answerRead r v) :=
    h.trans ((answerRead_only t r v).mono (by decide))
  have error : Only readUnits s (s.accessError r o) := (accessError_only s r o).mono (by decide)
  have poisoned (d : Island) : Only readUnits s (s.poisonedRead (fnOf r) d o) := (poisonedRead_only s _ d o).mono (by decide)
  have register : Only readUnits s ((s.readReg r o (n = 8)).2.answerRead r (s.readReg r o (n = 8)).1) :=
    answer ((readReg_only s r o _).mono (by decide)) _
  unfold State.barRead
  extract_lets f v s'
  split
  · exact (unanswered_only s).mono (by decide)
  split
  · exact (logAer_only s _ _).mono (by decide)
  split
  · split
    · exact answer error 0
    split
    · exact poisoned _
    · exact answer (Only.refl _ s) _
  split
  · exact answer error 0
  split
  · split
    · exact (poisoned _).trans ((beginRebuild_only _ _).mono (by decide))
    · exact poisoned _
  split
  · split
    · exact randomPortRead_only s _ _ _
    · exact register
  · exact register

theorem exec_rlRead {s : State} (hm : s.memOk) (r : Requester) (bar o n : Nat) :
    exec (.rlRead r bar o n) s = .next (s.barRead r bar o n) :=
  conclude_only (barRead_only s r bar o n) (by decide) (by decide) hm

/-! ### What a read of BAR 0 is, case by case -/

/-- A read or write of the requester meets a BAR that answers; the Drinoner port's own path needs none. -/
def State.opens (s : State) (r : Requester) : Prop := r = .mgmtPort ∨ s.barAnswers (fnOf r) = true

/-- No uncorrectable error meets the requester's read at `o`: those of R147 are answered over the link, not on the Drinoner port's path. -/
def State.sound (s : State) (r : Requester) (o : Nat) : Prop := r = .mgmtPort ∨ s.badWord (fnOf r) 0 o = false

theorem State.opens.answered {s : State} {r : Requester} (h : s.opens r) : (r != .mgmtPort && !s.barAnswers (fnOf r)) = false := by
  rcases h with h | h <;> simp [h]

/-- R81: a misaligned read returns 0 and is recorded. -/
theorem barRead_misaligned {s : State} {r : Requester} {o n : Nat} (hr : s.opens r) (ho : o < barSize (fnOf r) 0)
    (ha : alignedAccess o n = false) : s.barRead r 0 o n = (s.accessError r o).answerRead r 0 := by
  unfold State.barRead
  simp [hr.answered, Nat.not_le.2 ho, ha]

/-- R81: a misaligned write is recorded and changes no register. -/
theorem barWrite_misaligned {s : State} {r : Requester} {o n : Nat} (hr : s.opens r) (ho : o < barSize (fnOf r) 0)
    (ha : alignedAccess o n = false) (v : W64) : s.barWrite r 0 o n v = s.accessError r o := by
  unfold State.barWrite
  simp [hr.answered, Nat.not_le.2 ho, ha]

section Poisoned
variable {s : State} {g : Fn} {o n : Nat} (hr : s.barAnswers g = true) (ho : o < barSize g 0) (ha : alignedAccess o n = true)
  (hb : s.badWord g 0 o = true) (hf : s.inFlr g = false)
include hr ho ha hb hf

/-- R147: a host read that meets an uncorrectable error. -/
theorem barRead_poisoned (hi : inView g o = false) :
    s.barRead (.fn g) 0 o n = s.poisonedRead g (s.regWord (.fn g) (o / 8 * 8)).home o := by
  unfold State.barRead
  simp [fnOf, hr, Nat.not_le.2 ho, ha, hb, hf, hi]

/-- R113: in a VALID view it also begins the view's rebuild. -/
theorem barRead_poisoned_view (hi : inView g o = true) (hv : (s.viewOf g).valid = true) :
    s.barRead (.fn g) 0 o n = (s.poisonedRead g (s.regWord (.fn g) (o / 8 * 8)).home o).beginRebuild g := by
  unfold State.barRead
  simp [fnOf, hr, Nat.not_le.2 ho, ha, hb, hf, hi, hv]

end Poisoned

/-- An aligned read of sound storage, but for the random port, reads the register. -/
theorem barRead_register {s : State} {r : Requester} {o n : Nat} (hr : s.opens r) (ho : o < barSize (fnOf r) 0)
    (ha : alignedAccess o n = true) (hs : s.sound r o) (hp : ∀ p, r = .fn (.vf p) → o / 8 * 8 ≠ 0x40000) :
    s.barRead r 0 o n = (s.readReg r o (n = 8)).2.answerRead r (s.readReg r o (n = 8)).1 := by
  have hs' : (r != .mgmtPort && s.badWord (fnOf r) 0 o) = false := by rcases hs with h | h <;> simp [h]
  unfold State.barRead
  simp only [hr.answered, hs', ha, Nat.not_le.2 ho]
  rcases r with _ | _ | p
  · rfl
  · rfl
  · simp [hp p rfl]

/-! ### Aligned reads of a 64-bit word and its halves -/

/-- The requester's latches as a read of the word at `o` leaves them, the high half aside: one of fabric time takes the fraction
(R880, R889). -/
def State.latchesAt (s : State) (r : Requester) (o : Nat) : Latches :=
  if isTimeNow r o && s.regAnswers r .time then { s.latches r with fraction := BitVec.ofNat 16 s.nowFraction } else s.latches r

section Word
variable {s : State} {r : Requester} {o : Nat} (h8 : o % 8 = 0)
include h8

theorem word_low : o / 8 * 8 = o := by omega

theorem word_high : (o + 4) / 8 * 8 = o := by omega

theorem readReg_wide : s.readReg r o true = (s.regNow r o, s.setLatches r (s.latchesAt r o)) := by
  unfold State.readReg
  simp [word_low h8, State.latchesAt]

theorem readReg_low_rl (hl : (s.regWord r o).rl = true) : s.readReg r o false =
    (s.regNow r o % 2 ^ 32, s.setLatches r { s.latchesAt r o with high := w32 (s.regNow r o / 2 ^ 32) }) := by
  unfold State.readReg
  simp [word_low h8, h8, hl, State.latchesAt]

theorem readReg_low_plain (hl : (s.regWord r o).rl = false) : s.readReg r o false = (s.regNow r o % 2 ^ 32, s) := by
  unfold State.readReg
  simp [word_low h8, h8, hl]

theorem readReg_high_rl (hl : (s.regWord r o).rl = true) : s.readReg r (o + 4) false = ((s.latches r).high.toNat, s) := by
  have h4 : (o + 4) % 8 ≠ 0 := by omega
  unfold State.readReg
  simp [word_high h8, h4, hl]

theorem readReg_high_plain (hl : (s.regWord r o).rl = false) : s.readReg r (o + 4) false = (s.regNow r o / 2 ^ 32, s) := by
  have h4 : (o + 4) % 8 ≠ 0 := by omega
  unfold State.readReg
  simp [word_high h8, h4, hl]

end Word

/-! ### Fabric time (R880, R889) -/

/-- Where a requester reads fabric time: PT_TIME_NOW of a VF, else CP_TIME_NOW. -/
def timeNowAt : Requester → Nat
  | .fn (.vf _) => 0x1030
  | _ => 0xA00000

theorem exec_timeNowRead {s : State} (hm : s.memOk) (r : Requester) (wide : Bool) :
    exec (.timeNowRead r wide) s = .next (s.barRead r 0 (timeNowAt r) (if wide then 8 else 4)) := by
  have h : actTimeNowRead r wide s = s.barRead r 0 (timeNowAt r) (if wide then 8 else 4) := by rcases r with _ | _ | p <;> rfl
  show s.conclude (actTimeNowRead r wide s) = _
  rw [h]
  exact conclude_only (barRead_only s r 0 _ _) (by decide) (by decide) hm

theorem isTimeNow_timeNowAt (r : Requester) : isTimeNow r (timeNowAt r) = true := by
  rcases r with _ | _ | p <;> rfl

theorem timeNowAt_lt (r : Requester) : timeNowAt r < barSize (fnOf r) 0 := by
  rcases r with _ | _ | p <;> simp [timeNowAt, fnOf, barSize]

theorem timeNowAt_aligned (r : Requester) : timeNowAt r % 8 = 0 := by
  rcases r with _ | _ | p <;> simp [timeNowAt]

theorem timeNowAt_not_random (r : Requester) : timeNowAt r ≠ 0x40000 := by
  rcases r with _ | _ | p <;> simp [timeNowAt]

/-- Fabric time is an RL register of the TIME island, open to a VF whose partition is. -/
theorem regWord_timeNow {s : State} {r : Requester} (hp : ∀ p, r = .fn (.vf p) → s.created p = true ∧ s.flrActive p = false) :
    s.regWord r (timeNowAt r) = { v := s.now % 2 ^ 64, rl := true, home := .time } := by
  rcases r with _ | _ | p
  · rfl
  · rfl
  · obtain ⟨hc, hf⟩ := hp p rfl
    show s.vfWord p 0x1030 = _
    unfold State.vfWord
    simp [hc, hf, State.ptCfg]

theorem two_halves (v : Nat) : two v (v / 2 ^ 32) = v % 2 ^ 64 := by
  unfold two
  omega

theorem regNow_timeNow {s : State} {r : Requester} (hp : ∀ p, r = .fn (.vf p) → s.created p = true ∧ s.flrActive p = false)
    (ht : s.regAnswers r .time = true) : s.regNow r (timeNowAt r) = s.now % 2 ^ 64 := by
  unfold State.regNow
  simp only [regWord_timeNow hp, Option.getD_none, ht, if_true, two_halves, Nat.mod_mod]

theorem latchesAt_timeNow {s : State} {r : Requester} (ht : s.regAnswers r .time = true) :
    s.latchesAt r (timeNowAt r) = { s.latches r with fraction := BitVec.ofNat 16 s.nowFraction } := by
  unfold State.latchesAt
  rw [isTimeNow_timeNowAt, ht]
  rfl

theorem latchesAt_other {s : State} {r : Requester} {o : Nat} (h : isTimeNow r o = false) : s.latchesAt r o = s.latches r := by
  unfold State.latchesAt
  rw [h]
  rfl

/-- The high half of a 64-bit value is that of the number it is cut from. -/
theorem w32_high (v : Nat) : w32 (v % 2 ^ 64 / 2 ^ 32) = w32 (v / 2 ^ 32) := by
  apply BitVec.eq_of_toNat_eq
  simp only [w32, BitVec.toNat_ofNat]
  omega

/-! ### The memory window: its chunks (R125, R126) -/

/-- Part `y` of a range lies inside the range and inside one chunk. -/
def PartOf (a len : Nat) (y : Nat × Nat) : Prop := a ≤ y.1 ∧ y.1 + y.2 ≤ a + len ∧ y.1 % chunkBytes + y.2 ≤ chunkBytes

theorem mem_chunksOf {a len c : Nat} : c ∈ chunksOf a len ↔ 0 < len ∧ a / chunkBytes ≤ c ∧ c ≤ (a + len - 1) / chunkBytes := by
  unfold chunksOf
  split
  · simp_all
  · have hq : a / chunkBytes ≤ (a + len - 1) / chunkBytes := Nat.div_le_div_right (by omega)
    simp only [List.mem_map, List.mem_range]
    constructor
    · rintro ⟨k, hk, rfl⟩
      omega
    · rintro ⟨-, h1, h2⟩
      exact ⟨c - a / chunkBytes, by omega, by omega⟩

theorem mem_chunkParts {a len : Nat} {y : Nat × Nat} : y ∈ chunkParts a len ↔
    ∃ c, c ∈ chunksOf a len ∧ (max a (c * chunkBytes), min (a + len) ((c + 1) * chunkBytes) - max a (c * chunkBytes)) = y := List.mem_map

theorem partOf_chunkParts {a len : Nat} {y : Nat × Nat} (h : y ∈ chunkParts a len) : PartOf a len y := by
  obtain ⟨c, hc, rfl⟩ := mem_chunkParts.1 h
  rw [mem_chunksOf] at hc
  unfold PartOf
  simp only [chunkBytes] at hc ⊢
  omega

theorem inSegs_iff {l : List (Nat × Nat)} {x : Nat} : inSegs l x = true ↔ ∃ y ∈ l, y.1 ≤ x ∧ x < y.1 + y.2 := by
  unfold inSegs
  simp only [List.any_eq_true, Bool.and_eq_true, decide_eq_true_eq]

/-- The parts of a range cover it. -/
theorem inSegs_chunkParts {a len x : Nat} : inSegs (chunkParts a len) x = true ↔ a ≤ x ∧ x < a + len := by
  rw [inSegs_iff]
  constructor
  · rintro ⟨y, hy, hx⟩
    obtain ⟨h1, h2, -⟩ := partOf_chunkParts hy
    omega
  · rintro ⟨h1, h2⟩
    refine ⟨_, mem_chunkParts.2 ⟨x / chunkBytes, mem_chunksOf.2 ?_, rfl⟩, ?_⟩
    · simp only [chunkBytes]
      omega
    · simp only [chunkBytes]
      omega

theorem chunksOf_one {a len : Nat} (hl : 0 < len) (h : (a + len - 1) / chunkBytes = a / chunkBytes) : chunksOf a len = [a / chunkBytes] := by
  unfold chunksOf
  rw [if_neg (by omega), h]
  simp

theorem chunkParts_one {a len : Nat} (hl : 0 < len) (h : (a + len - 1) / chunkBytes = a / chunkBytes) : chunkParts a len = [(a, len)] := by
  unfold chunkParts
  rw [chunksOf_one hl h]
  simp only [chunkBytes] at h ⊢
  simp only [List.map_cons, List.map_nil, List.cons.injEq, Prod.mk.injEq, and_true]
  omega

/-- Which chunks the window shows depends on the rounds, the quotas and the BAD chunks alone. -/
theorem closedChunk_congr {s t : State} (hr : t.rounds = s.rounds) (hp : t.part.parts = s.part.parts) (hb : t.part.badChunks = s.part.badChunks) :
    t.closedChunk = s.closedChunk := by
  funext c
  unfold State.closedChunk State.isStaging State.isBad State.quotaOf State.partition?
  rw [hr, hp, hb]

theorem writePhys_badChunks (s : State) (a : Nat) (d : Bytes) : (s.writePhys a d).part.badChunks = s.part.badChunks := by
  show (s.mendLines a d.length).part.badChunks = _
  unfold State.mendLines
  extract_lets touched whole s'
  have h : s'.part = s.part := correctedLines_part _ _ s
  show s'.part.badChunks = s.part.badChunks
  rw [h]

/-! ### Writes through the window -/

/-- One part of a write through the window. -/
def State.windowStep (a : Nat) (d : Bytes) (s : State) (y : Nat × Nat) : State :=
  if s.closedChunk (y.1 / chunkBytes) then s else s.writePhys y.1 (slice d (y.1 - a) y.2)

theorem windowWrite_eq (s : State) (a : Nat) (d : Bytes) : s.windowWrite a d = (chunkParts a d.length).foldl (State.windowStep a d) s := rfl

theorem windowStep_within (a : Nat) (d : Bytes) (s : State) (y : Nat × Nat) : Within s (s.windowStep a d y) := by
  unfold State.windowStep
  split
  · exact Within.refl s
  · exact writePhys_within _ _ _

theorem windowStep_closedChunk (a : Nat) (d : Bytes) (s : State) (y : Nat × Nat) : (s.windowStep a d y).closedChunk = s.closedChunk := by
  unfold State.windowStep
  split
  · rfl
  · exact closedChunk_congr (writePhys_within _ _ _).rounds (writePhys_parts _ _ _) (writePhys_badChunks _ _ _)

theorem windowStep_memOk (a : Nat) (d : Bytes) {s : State} (hm : s.memOk) (y : Nat × Nat) : (s.windowStep a d y).memOk := by
  unfold State.windowStep
  split
  · exact hm
  · show Memory.wf (s.writePhys _ _).part.mem = true
    rw [writePhys_mem]
    exact Memory.wf_memWrite _ _ hm

theorem slice_getD {d : Bytes} {i n k : Nat} (hk : k < n) : (slice d i n).getD k 0 = d.getD (i + k) 0 := by
  unfold slice
  simp [List.getD_eq_getElem?_getD, hk]

/-- A part of the write leaves the data in its own bytes, unless its chunk is closed, and every other byte as it was. -/
theorem memByte_windowStep {a : Nat} {d : Bytes} {s : State} {y : Nat × Nat} (hm : s.memOk) (hy : PartOf a d.length y) (x : Nat) :
    memByte (s.windowStep a d y).part.mem x =
      if s.closedChunk (x / chunkBytes) = false ∧ y.1 ≤ x ∧ x < y.1 + y.2 then d.getD (x - a) 0 else memByte s.part.mem x := by
  obtain ⟨h1, h2, h3⟩ := hy
  have hlen : (slice d (y.1 - a) y.2).length = y.2 := by
    unfold slice
    simp only [List.length_take, List.length_drop]
    omega
  unfold State.windowStep
  by_cases hx : y.1 ≤ x ∧ x < y.1 + y.2
  · have hc : x / chunkBytes = y.1 / chunkBytes := by
      simp only [chunkBytes] at h3 ⊢
      omega
    rw [hc]
    cases s.closedChunk (y.1 / chunkBytes) with
    | true => simp
    | false =>
      obtain ⟨k, rfl⟩ := Nat.exists_eq_add_of_le hx.1
      have hk : k < y.2 := by omega
      simp only [Bool.false_eq_true, if_false, hx, if_true, and_self]
      rw [writePhys_mem, memByte_memWrite_inside _ _ _ hm (by omega), slice_getD hk]
      congr 1
      omega
  · have hno : ¬(s.closedChunk (x / chunkBytes) = false ∧ y.1 ≤ x ∧ x < y.1 + y.2) := fun h => hx h.2
    rw [if_neg hno]
    split
    · rfl
    · rw [writePhys_mem]
      exact memByte_memWrite_outside _ _ _ _ (by omega)

/-- The parts of a write, one after another: each byte of an open chunk that one of them covers holds the data. -/
theorem memByte_windowSteps {a : Nat} {d : Bytes} (x : Nat) (l : List (Nat × Nat)) (hl : ∀ y ∈ l, PartOf a d.length y) :
    ∀ s : State, s.memOk → memByte (l.foldl (State.windowStep a d) s).part.mem x =
      if s.closedChunk (x / chunkBytes) = false ∧ inSegs l x = true then d.getD (x - a) 0 else memByte s.part.mem x := by
  induction l with
  | nil => simp [inSegs]
  | cons y l ih =>
    intro s hm
    have hseg : inSegs (y :: l) x = true ↔ (y.1 ≤ x ∧ x < y.1 + y.2) ∨ inSegs l x = true := by
      unfold inSegs
      simp only [List.any_cons, Bool.or_eq_true, Bool.and_eq_true, decide_eq_true_eq]
    rw [List.foldl_cons, ih (fun z hz => hl z (List.mem_cons_of_mem _ hz)) _ (windowStep_memOk a d hm y), windowStep_closedChunk,
      memByte_windowStep hm (hl y (List.mem_cons_self ..))]
    simp only [hseg]
    by_cases h1 : s.closedChunk (x / chunkBytes) = false <;> by_cases h2 : inSegs l x = true <;> simp [h1, h2]

theorem windowSteps_keep (a : Nat) (d : Bytes) (l : List (Nat × Nat)) : ∀ s : State, s.memOk →
    Within s (l.foldl (State.windowStep a d) s) ∧ (l.foldl (State.windowStep a d) s).memOk := by
  induction l with
  | nil => exact fun s hm => ⟨Within.refl s, hm⟩
  | cons y l ih =>
    intro s hm
    obtain ⟨hw, hm'⟩ := ih _ (windowStep_memOk a d hm y)
    exact ⟨(windowStep_within a d s y).trans hw, hm'⟩

theorem windowWrite_keeps {s : State} (hm : s.memOk) (a : Nat) (d : Bytes) : Within s (s.windowWrite a d) ∧ (s.windowWrite a d).memOk :=
  windowSteps_keep a d _ s hm

/-- R125, R126: a write through the window sets the bytes of its range that lie in open chunks, and no other byte. -/
theorem memByte_windowWrite {s : State} (hm : s.memOk) (a : Nat) (d : Bytes) (x : Nat) :
    memByte (s.windowWrite a d).part.mem x =
      if s.closedChunk (x / chunkBytes) = false ∧ a ≤ x ∧ x < a + d.length then d.getD (x - a) 0 else memByte s.part.mem x := by
  rw [windowWrite_eq, memByte_windowSteps x _ (fun _ => partOf_chunkParts) s hm]
  simp only [inSegs_chunkParts]

/-- A write that meets a closed chunk is counted first. -/
def State.windowSeen (s : State) (a n : Nat) : State := if (chunksOf a n).any s.closedChunk then s.closedDoorbell else s

theorem windowSeen_within (s : State) (a n : Nat) : Within s (s.windowSeen a n) := by
  unfold State.windowSeen
  split
  · exact (Reads.ofHif s _).1
  · exact Within.refl s

theorem windowSeen_part (s : State) (a n : Nat) : (s.windowSeen a n).part = s.part := by
  unfold State.windowSeen
  split <;> rfl

theorem windowSeen_closedChunk (s : State) (a n : Nat) : (s.windowSeen a n).closedChunk = s.closedChunk := by
  have h := windowSeen_part s a n
  exact closedChunk_congr (windowSeen_within s a n).rounds (by rw [h]) (by rw [h])

theorem actBar2Access_write {s : State} {o : Nat} {d : Bytes} (n : Nat) (hr : s.barAnswers .pf = true) (hk : s.pfReaches .fe = true)
    (ho : o + d.length ≤ 2 ^ s.hif.bar2Log2) :
    actBar2Access o n (some d) s = (s.windowSeen (s.hif.windowBase + o) d.length).windowWrite (s.hif.windowBase + o) d := by
  unfold actBar2Access State.windowSeen
  simp [hr, hk, Nat.not_lt.2 ho]

/-! ### Reads through the window -/

/-- Reading sound lines changes nothing of the partitions or their memory. -/
theorem consumeLines_none_part {s u : State} {pb : Byte} {ls : List Nat} (h : s.consumeLines pb ls = (none, u)) : u.part = s.part := by
  unfold State.consumeLines at h
  rcases firstBad s.part.poisonLines s.part.uncorrectable ls with ⟨before, bad⟩
  dsimp only at h
  split at h
  · obtain ⟨-, rfl⟩ := Prod.mk.inj h
    split
    · rfl
    · exact correctedLines_part _ _ s
  · exact absurd (Prod.mk.inj h).1 (by simp)
  · exact absurd (Prod.mk.inj h).1 (by simp)

/-- A read inside one open chunk whose lines are sound gives its bytes. -/
theorem windowRead_one {s u : State} {a n : Nat} (hn : 0 < n) (h1 : (a + n - 1) / chunkBytes = a / chunkBytes)
    (hc : s.closedChunk (a / chunkBytes) = false) (hu : s.consumeLines 0xFE (linesOf a n) = (none, u)) :
    s.windowRead a n = (some (memRead s.part.mem a n), u) := by
  have hp := consumeLines_none_part hu
  have hw : Reads s u := by
    have := consumeLines_reads s 0xFE (linesOf a n)
    rwa [hu] at this
  have hcu : u.closedChunk = s.closedChunk := closedChunk_congr hw.1.rounds (by rw [hp]) (by rw [hp])
  have hl : ([(a, n)].filter (fun y => !s.closedChunk (y.1 / chunkBytes))).flatMap (fun y => linesOf y.1 y.2) = linesOf a n := by simp [hc]
  unfold State.windowRead
  dsimp only
  rw [chunkParts_one hn h1, hl, hu]
  simp [hcu, hc, hp]

theorem actBar2Access_read {s u : State} {o n : Nat} (hr : s.barAnswers .pf = true) (hk : s.pfReaches .fe = true)
    (ho : o + n ≤ 2 ^ s.hif.bar2Log2) (hn : 0 < n)
    (h1 : (s.hif.windowBase + o + n - 1) / chunkBytes = (s.hif.windowBase + o) / chunkBytes)
    (hc : s.closedChunk ((s.hif.windowBase + o) / chunkBytes) = false)
    (hu : s.consumeLines 0xFE (linesOf (s.hif.windowBase + o) n) = (none, u)) :
    actBar2Access o n none s = u.toHost (.readReply .pf (leNat (memRead s.part.mem (s.hif.windowBase + o) n)) false) := by
  unfold actBar2Access
  simp [hr, hk, Nat.not_lt.2 ho, chunksOf_one hn h1, hc, windowRead_one hn h1 hc hu]

/-! ### The statement's clauses -/

section Aligned
variable {s : State} {r : Requester} {o : Nat} (hm : s.memOk) (hr : s.opens r) (h8 : o % 8 = 0) (ho : o < barSize (fnOf r) 0)
  (hp : ∀ p, r = .fn (.vf p) → o ≠ 0x40000) (hs : s.sound r o)
include hm hr h8 ho hp hs

/-- An aligned read of a word, or of its low half. -/
theorem exec_rlRead_low {n : Nat} (hn : n = 4 ∨ n = 8) : exec (.rlRead r 0 o n) s =
    .next ((s.readReg r o (n = 8)).2.answerRead r (s.readReg r o (n = 8)).1) := by
  have ha : alignedAccess o n = true := by
    unfold alignedAccess
    rcases hn with rfl | rfl <;> simp <;> omega
  rw [exec_rlRead hm, barRead_register hr ho ha hs (by rwa [word_low h8])]

/-- An aligned read of a word's high half: its storage is the word's. -/
theorem exec_rlRead_high : exec (.rlRead r 0 (o + 4) 4) s =
    .next ((s.readReg r (o + 4) false).2.answerRead r (s.readReg r (o + 4) false).1) := by
  have ha : alignedAccess (o + 4) 4 = true := by
    unfold alignedAccess
    simp
    omega
  have hb : barSize (fnOf r) 0 % 8 = 0 := by cases fnOf r <;> simp [barSize]
  have hs' : s.sound r (o + 4) := by
    unfold State.sound State.badWord at hs ⊢
    rwa [word_high h8, ← word_low h8]
  rw [exec_rlRead hm, barRead_register hr (by omega) ha hs' (by rwa [word_high h8])]
  rfl

end Aligned

/-- A read of fabric time is one of a register. -/
theorem exec_timeNowRead_register {s : State} {r : Requester} (hm : s.memOk) (hr : s.opens r) (hs : s.sound r (timeNowAt r)) (wide : Bool) :
    exec (.timeNowRead r wide) s =
      .next ((s.readReg r (timeNowAt r) wide).2.answerRead r (s.readReg r (timeNowAt r) wide).1) := by
  have h := exec_rlRead_low hm hr (timeNowAt_aligned r) (timeNowAt_lt r) (fun _ _ => timeNowAt_not_random r) hs (n := if wide then 8 else 4)
    (by cases wide <;> simp)
  rw [exec_rlRead hm] at h
  rw [exec_timeNowRead hm, h]
  cases wide <;> rfl

end Sys2Proof.Machine

namespace Sys2Proof
open Sys2Proof.Machine

/-- Settles O34: each row answers `barRead` or `actBar2Access`, whose cases are the equations above. -/
theorem registerReads : Obligations.RegisterReads := by
  unfold Obligations.RegisterReads
  intro s hm open_
  refine ⟨?word, ?misaligned, ?poisoned, ?time, ?windowRead, ?windowWrite⟩
  case word =>
    intro r o hr h8 ho hp ht hs
    have low {n : Nat} := exec_rlRead_low (n := n) hm hr h8 ho hp hs
    have high := exec_rlRead_high hm hr h8 ho hp hs
    refine ⟨?_, fun hl => ⟨?_, ?_⟩, fun hl => ⟨?_, ?_⟩⟩
    · rw [low (.inr rfl), decide_eq_true rfl, readReg_wide h8, latchesAt_other ht]
    · rw [low (.inl rfl), decide_eq_false (by decide), readReg_low_rl h8 hl, latchesAt_other ht]
    · rw [high, readReg_high_rl h8 hl]
    · rw [low (.inl rfl), decide_eq_false (by decide), readReg_low_plain h8 hl]
    · rw [high, readReg_high_plain h8 hl]
  case misaligned =>
    intro r o n hr ho ha
    refine ⟨?_, fun v => ?_⟩
    · rw [exec_rlRead hm, barRead_misaligned hr ho ha]
    · show s.conclude (s.barWrite r 0 o n v) = _
      rw [barWrite_misaligned hr ho ha]
      exact conclude_only (accessError_only s r o) (by decide) (by decide) hm
  case poisoned =>
    intro g o n hr ho ha hb hf
    refine ⟨fun hi => ?_, fun hi hv => ?_⟩
    · rw [exec_rlRead hm, barRead_poisoned hr ho ha hb hf hi]
      rfl
    · rw [exec_rlRead hm, barRead_poisoned_view hr ho ha hb hf hi hv]
      rfl
  case time =>
    intro r hr ht hp hs l
    have hs' : s.sound r (timeNowAt r) := by rcases r with _ | _ | p <;> exact hs
    have hl := latchesAt_timeNow ht
    have hv := regNow_timeNow hp ht
    have read (wide : Bool) : exec (.timeNowRead r wide) s =
        .next ((s.readReg r (timeNowAt r) wide).2.answerRead r (s.readReg r (timeNowAt r) wide).1) :=
      exec_timeNowRead_register hm hr hs' wide
    refine ⟨?_, ?_⟩
    · rw [read, readReg_wide (timeNowAt_aligned r), hl, hv]
    · rw [read, readReg_low_rl (timeNowAt_aligned r) (by rw [regWord_timeNow hp]), hl, hv, w32_high, Nat.mod_mod_of_dvd _ (by decide)]
  case windowRead =>
    intro o n u hr hk ho hn a h1 hc hu
    obtain ⟨hw, hmem⟩ := consumeLines_reads s 0xFE (linesOf a n)
    rw [hu] at hw hmem
    have ht := toHost_reads u (.readReply .pf (leNat (memRead s.part.mem a n)) false)
    refine conclude_next (actBar2Access_read hr hk ho hn h1 hc hu) (ht.1.pending.trans hw.pending) ?_
    show Memory.wf _ = true
    rw [ht.2, hmem]
    exact hm
  case windowWrite =>
    intro o n d hr hk ho a
    have hm' : (s.windowSeen a d.length).memOk := by rw [State.memOk, windowSeen_part]; exact hm
    obtain ⟨hw, hmem⟩ := windowWrite_keeps hm' a d
    have ht := (windowSeen_within s a d.length).trans hw
    refine ⟨_, conclude_next (actBar2Access_write n hr hk ho) ht.pending hmem, ht.only, ?_, ?_⟩
    · intro k b hb hc
      have hk : k < d.length := (List.getElem?_eq_some_iff.1 hb).1
      rw [memByte_windowWrite hm', windowSeen_closedChunk, if_pos ⟨hc, by omega, by omega⟩, Nat.add_sub_cancel_left]
      simp [List.getD_eq_getElem?_getD, hb]
    · intro x hx
      have hno : ¬(s.closedChunk (x / chunkBytes) = false ∧ a ≤ x ∧ x < a + d.length) := by
        rintro ⟨hc, h1, h2⟩
        rcases hx with hx | hx | hx
        · omega
        · omega
        · simp [hc] at hx
      rw [memByte_windowWrite hm', windowSeen_closedChunk, if_neg hno, windowSeen_part]

end Sys2Proof

/-!
PT_PART_FAULT and CP_PART_FAULT (O11). A fault that is recorded changes one record of the partition table; the two registers are
words of the two maps that show that record, and both have 0 as their reset value.
-/

namespace Sys2Proof.Machine
open Sys2Proof

/-! ### Recording a fault (R657, R890) -/

/-- What one more fault makes of a partition's record. -/
def Partition.faulted (r : Partition) (agent addr : Nat) (c : FaultCause) : Partition :=
  match r.fault with
  | none => { r with fault := some { addr := addr, agent := agent, cause := c }, faultOverflow := 0 }
  | some _ => { r with faultOverflow := min 63 (r.faultOverflow + 1) }

theorem Partition.faulted_first {r : Partition} (h : r.fault = none) (agent addr : Nat) (c : FaultCause) :
    r.faulted agent addr c = { r with fault := some { addr := addr, agent := agent, cause := c }, faultOverflow := 0 } := by
  unfold Partition.faulted
  rw [h]

theorem Partition.faulted_later {r : Partition} {f : PtFault} (h : r.fault = some f) (agent addr : Nat) (c : FaultCause) :
    r.faulted agent addr c = { r with faultOverflow := min 63 (r.faultOverflow + 1) } := by
  unfold Partition.faulted
  rw [h]

theorem raiseVf_partition? (s : State) (p : Fin 64) (n v : Nat) (x : Fin 64) : (s.raiseVf p n v).partition? x = s.partition? x := by
  have h : (s.raiseVf p n v).part = s.part := raiseVf_only s p n v .part (by decide)
  unfold State.partition?
  rw [h]

/-- The overflow count steps up to 63 and stays there. -/
theorem min_count_63 (n : Nat) : (if n < 63 then n + 1 else 63) = min 63 (n + 1) := by
  split <;> omega

theorem recordFault_partition? {s : State} {a : Fin 64} {r : Partition} (hr : s.partition? a = some r) (agent addr : Nat) (c : FaultCause) :
    (s.recordFault a agent addr c).partition? a = some (r.faulted agent addr c) := by
  unfold State.recordFault Partition.faulted
  rw [raiseVf_partition?, State.modPartition_some hr, State.partition?_setPartition]
  cases r.fault with
  | none => rfl
  | some f => simp only [min_count_63]

/-! ### Where the two registers stand -/

/-- The offset of CP_PART_FAULT of partition `a` in PF BAR 0 (Table 26.8). -/
def cpPartFaultAt (a : Fin 64) : Nat := 0x40000 + 0x1000 * a.val + 0x30

/-- The first 0x800 bytes of a partition's page of the control plane are its own registers. -/
theorem pfWord_partPage (s : State) (q : Requester) (a : Fin 64) {i : Nat} (hi : i < 0x800) :
    s.pfWord q (0x40000 + 0x1000 * a.val + i) = s.partWord a i := by
  have ha := a.isLt
  have hp : (0x40000 + 0x1000 * a.val + i - 0x40000) / 0x1000 = a.val := by omega
  have hm : (0x40000 + 0x1000 * a.val + i) % 0x1000 = i := by omega
  have hf : Fin.ofNat 64 a.val = a := Fin.ext (Nat.mod_eq_of_lt ha)
  unfold State.pfWord
  extract_lets within p j
  have hin : within 0x40000 0x40000 = true := by
    simp only [within, Bool.and_eq_true, decide_eq_true_eq]
    omega
  have hout : within 0x20000 (181 * 0x20) = false := by
    simp only [within, Bool.and_eq_false_iff, decide_eq_false_iff_not]
    omega
  rw [if_neg (by omega), if_neg (by omega), hout, hin, if_neg (by decide), if_pos rfl]
  simp only [p, j, hp, hm, hf, if_pos hi]

theorem partWord_fault {s : State} {a : Fin 64} : s.partWord a 0x30 = { v := ((s.partition? a).getD {}).faultWord, home := .fe } := rfl

/-- CP_PART_FAULT shows the held fault. -/
theorem regWord_cpPartFault {s : State} {a : Fin 64} {r : Partition} (hr : s.partition? a = some r) :
    s.regWord (.fn .pf) (cpPartFaultAt a) = { v := r.faultWord, home := .fe } := by
  show s.pfWord (.fn .pf) (0x40000 + 0x1000 * a.val + 0x30) = _
  rw [pfWord_partPage s _ a (by decide), partWord_fault, hr]
  rfl

/-- PT_PART_FAULT shows the held fault while no FLR closes the page (R887). -/
theorem regWord_ptPartFault {s : State} {a : Fin 64} {r : Partition} (hr : s.partition? a = some r) (hf : s.flrActive a = false) :
    s.regWord (.fn (.vf a)) 0x1050 = { v := r.faultWord, rl := true, home := .fe } := by
  have hc : s.created a = true := by simp [State.created, hr]
  show s.vfWord a 0x1050 = _
  unfold State.vfWord
  simp [hc, hf, State.ptCfg, hr]

theorem resetView_partition? (s : State) (a : Fin 64) : s.resetView.partition? a = none := rfl

theorem resetWord_cpPartFault (s : State) (a : Fin 64) : s.resetWord (.fn .pf) (cpPartFaultAt a) = 0 := by
  have hlo : 0x40000 ≤ cpPartFaultAt a := by unfold cpPartFaultAt; omega
  have hhi : cpPartFaultAt a < 0x80000 := by unfold cpPartFaultAt; omega
  have hid : cpPartFaultAt a ≠ 0x11010 := by omega
  have hslot : decide (0xB00000 ≤ cpPartFaultAt a) = false := decide_eq_false (by omega)
  unfold State.resetWord
  simp only [if_neg hid, hslot, Bool.false_and, Bool.false_eq_true, if_false]
  rw [cpPartFaultAt, pfWord_partPage _ _ a (by decide), partWord_fault, resetView_partition?]
  rfl

theorem resetWord_ptPartFault (s : State) (a : Fin 64) : s.resetWord (.fn (.vf a)) 0x1050 = 0 := by
  show (s.resetView.vfWord a 0x1050).v = 0
  unfold State.vfWord State.created
  rw [resetView_partition?]
  rfl

/-! ### What a read of either finds (R90) -/

/-- A word whose halves share an island and whose reset value is 0 reads its value while that island answers, and 0 otherwise. -/
theorem regNow_of_reset_zero {s : State} {q : Requester} {o : Nat} {w : RegWord} (hw : s.regWord q o = w) (hh : w.hiHome = none)
    (hz : s.resetWord q o = 0) : s.regNow q o = if s.regAnswers q w.home then w.v % 2 ^ 64 else 0 := by
  unfold State.regNow
  simp only [hw, hh, hz, Option.getD_none]
  split
  · exact two_halves w.v
  · rfl

theorem regNow_ptPartFault {s : State} {a : Fin 64} {r : Partition} (hr : s.partition? a = some r) (hf : s.flrActive a = false) :
    s.regNow (.fn (.vf a)) 0x1050 = if s.running .fe then r.faultWord % 2 ^ 64 else 0 :=
  regNow_of_reset_zero (regWord_ptPartFault hr hf) rfl (resetWord_ptPartFault s a)

theorem regNow_cpPartFault {s : State} {a : Fin 64} {r : Partition} (hr : s.partition? a = some r) :
    s.regNow (.fn .pf) (cpPartFaultAt a) = if s.pfReaches .fe then r.faultWord % 2 ^ 64 else 0 :=
  regNow_of_reset_zero (regWord_cpPartFault hr) rfl (resetWord_cpPartFault s a)

/-! ### The write of 1 to PT_PART_FAULT_CLEAR (R890) -/

/-- A partition's record without its fault. -/
def Partition.noFault (r : Partition) : Partition := { r with fault := none, faultOverflow := 0 }

@[simp] theorem Partition.faultWord_noFault (r : Partition) : r.noFault.faultWord = 0 := rfl

@[simp] theorem flrActive_setPartition (s : State) (p : Fin 64) (r : Partition) (x : Fin 64) :
    (s.setPartition p r).flrActive x = s.flrActive x := rfl

theorem flrActive_of_vfOpen {s : State} {a : Fin 64} (h : s.vfOpen a = true) : s.flrActive a = false := by
  unfold State.vfOpen at h
  simp only [Bool.and_eq_true, Bool.not_eq_true'] at h
  obtain ⟨⟨-, hflr⟩, -⟩ := h
  exact hflr

theorem exec_ptPartFaultClear {s : State} {a : Fin 64} {r : Partition} {v : W32} (hm : s.memOk) (hr : s.partition? a = some r)
    (ho : s.vfOpen a = true) (hv : v.getLsbD 0 = true) : exec (.ptPartFaultClear a v) s = .next (s.setPartition a r.noFault) := by
  have h : actPtPartFaultClear a v s = s.setPartition a r.noFault := by
    unfold actPtPartFaultClear
    simp only [ho, hv, Bool.not_true, Bool.false_eq_true, if_false, if_true]
    exact State.modPartition_some hr _
  exact conclude_next h rfl hm

end Sys2Proof.Machine

namespace Sys2Proof
open Sys2Proof.Machine

/-- Settles O11: the fault is recorded in the partition's record, and both registers read its fault word, of which a record without
a fault has 0. -/
theorem partFault : Obligations.PartFault := by
  unfold Obligations.PartFault
  intro s a r hm hr
  refine ⟨?first, ?later, ?clear, ?sameWord⟩
  case first =>
    intro agent addr c hf
    rw [recordFault_partition? hr, Partition.faulted_first hf]
  case later =>
    intro agent addr c f hf
    rw [recordFault_partition? hr, Partition.faulted_later hf]
  case clear =>
    intro v ho hv
    refine ⟨_, exec_ptPartFaultClear hm hr ho hv, ?_⟩
    have hf : (s.setPartition a r.noFault).flrActive a = false := by rw [flrActive_setPartition, flrActive_of_vfOpen ho]
    rw [regNow_ptPartFault (State.partition?_setPartition s a _) hf, Partition.faultWord_noFault]
    split <;> rfl
  case sameWord =>
    intro hf hv
    have hp : s.pfReaches .fe = s.running .fe := by rw [State.pfReaches, hv, Bool.and_true]
    show s.regNow (.fn .pf) (cpPartFaultAt a) = _
    rw [regNow_cpPartFault hr, regNow_ptPartFault hr hf, hp]

end Sys2Proof
